-- ==== Sys2Proof/Word.lean ====
section
/-! DEFINITION. The machine's word, byte and lane types and their plainest arithmetic (R8, R223). -/

namespace Sys2Proof

/-- A general register, an address or a state register: 64 bits (R162). -/
abbrev Word := BitVec 64

/-- One byte of memory. -/
abbrev Byte := BitVec 8

/-- A lane of a vector register: 32 bits (R307). -/
abbrev Lane := BitVec 32

/-- SExt of R223: a value extended to 64 bits with its sign bit. -/
def sx64 {n : Nat} (x : BitVec n) : Word := x.signExtend 64

/-- ZExt of R223: a value extended to 64 bits with zeros. -/
def zx64 {n : Nat} (x : BitVec n) : Word := x.zeroExtend 64

/-- 1 or 0 as a word. -/
def ofFlag (b : Bool) : Word := if b then 1 else 0

end Sys2Proof
end

