-- ==== Sys2Proof/Config.lean ====
section
/-! DEFINITION. What an implementation fixes and the values the spec leaves open. A constant declared `opaque` has no body:
nothing can evaluate it, and a claim about it holds for every value (log 2, 9, 11). -/

namespace Sys2Proof

/-- Which due occurrence comes next (R126, R167, R183: no order is given): at tick `n`, 0 visits a core, k + 1 takes the k-th
due event, modulo what there is (log 2). -/
opaque Config.pick : Nat → Nat

/-- Which core is visited next when several are out of reset (R183): modulo their number (log 2). -/
opaque Config.pickCore : Nat → Nat

/-- RESULT0 of IDENT: device and stepping (Table 17.3); the spec gives no value (log 9). -/
opaque Config.deviceId : BitVec 64

/-- RESULT1 of IDENT: the identity certificate address (Table 17.3); the spec gives no value (log 9). -/
opaque Config.certAddress : BitVec 64

/-- The measurements that ATTEST signs for a nonce (Table 17.3); the spec gives no bytes (log 9). -/
opaque Config.attestMessage : (nonce : List (BitVec 8)) → List (BitVec 8)

/-- The signed report: measurements, then r and s of their ECDSA signature (R6); the spec gives no layout (log 9). -/
opaque Config.attestReport : (message : List (BitVec 8)) → (r s : Nat) → List (BitVec 8)

/-- The device's private identity key (R6) (log 9). -/
opaque Config.identityKey : Nat

/-- The one-time number of a signature made at tick `n`, on a first attempt or a later one (R6) (log 9). -/
opaque Config.signOnce : (n attempt : Nat) → Nat

/-- The host address in RESULT0 of ATTEST, where the report is written (log 9). -/
opaque Config.attestAddress : BitVec 64

/-- The public key that firmware is verified with (R6) (log 9). -/
opaque Config.firmwareKey : Nat × Nat

/-- The signed message and the r and s of a firmware image; the spec gives no layout of one (log 9). -/
opaque Config.firmwareParts : List (BitVec 8) → List (BitVec 8) × Nat × Nat

/-- What the device signs to authenticate itself in its response to an SPDM 1.2 request (R390); the spec does not give the SPDM messages
(log 9). -/
opaque Config.spdmTranscript : List (BitVec 8) → List (BitVec 8)

/-- The response to one SPDM 1.2 request with the r and s of the identity's signature (Table 17.3, R390) (log 9). -/
opaque Config.spdmResponse : List (BitVec 8) → (r s : Nat) → BitVec 128

/-- The bounce window that an SPDM request of a sealed partition registers, if it does: inbound or outbound, the base of its host range
and its pages; the spec does not give the message (R390) (log 24). -/
opaque Config.spdmWindow : List (BitVec 8) → Option (Bool × Nat × Nat)

/-- Whether an SPDM request completes the opening of a session; the spec does not give the messages (R390) (log 24). -/
opaque Config.spdmOpens : List (BitVec 8) → Bool

/-- The AES-256-GCM key of a partition's session, by its number, for a direction (R390); the session's key schedule is SPDM's (log 9). -/
opaque Config.sealKey : (part session : Nat) → (inbound : Bool) → BitVec 256

/-- DQNT of a lane whose weights do not reach p, which no instruction leaves: the spec gives no value (R222) (log 21). -/
opaque Config.quantileBeyond : (lane : BitVec 384) → (p : BitVec 16) → BitVec 32

/-- Which free slot of a call area a frame enters, at tick `n`, modulo the number of free slots: the spec names none (R383)
(log 22). -/
opaque Config.frameSlot : Nat → Nat

/-- Whether, at tick `n`, the instruction after a REP block in progress tries to issue before the block's next one: the spec lets it issue
in the slot's cycles that the block does not use, and fixes no order (R246) (log 2). -/
opaque Config.aheadFirst : Nat → Bool

/-- Whether the host performed, at tick `n`, an AtomicOp whose completion is a Completer Abort, poisoned or timed out: unknown (R89)
(log 31). -/
opaque Config.hostPerformed : Nat → Bool

/-- Whether the truss reads a sector of its source's next row or column, by the address's sector, already at tick `n`: which contents a sector
that a strand stores into gives is unspecified (R347) (log 54). -/
opaque Config.readAhead : (n sector : Nat) → Bool

/-- Which line of a full set of a cache, or which block of a full instruction cache, is replaced at tick `n`, modulo the candidates: the
spec names no order (R45, R57) (log 69). -/
opaque Config.victim : Nat → Nat

end Sys2Proof
end

