-- ==== Sys2Proof/Machine/Ecdsa.lean ====
section
/-! DEFINITION. The signature scheme that R6 names: ECDSA on P-384 with SHA-384. The spec names the scheme and gives none of its
numbers: they are the published standards' (PRESUMED, log 9). The keys, the layout of a signed firmware image and the layout of a
report stay open (Config). -/

namespace Sys2Proof.Machine

/-! ### SHA-384 -/

/-- The largest n-bit number whose k-th power is at most `x`, found bit by bit from the top. -/
def intRoot (k x : Nat) : (n : Nat) → (found : Nat) → Nat
  | 0, r => r
  | n + 1, r => intRoot k x n (if (r + 2 ^ n) ^ k ≤ x then r + 2 ^ n else r)

/-- Whether a number above 1 is prime. -/
def isPrime (n : Nat) : Bool := (List.range n).all fun d => decide (d < 2) || n % d != 0

/-- The first 80 primes. -/
def shaPrimes : List Nat := (List.range 410).filter fun n => decide (2 ≤ n) && isPrime n

/-- The round constants: 64 bits after the point of the primes' cube roots. -/
def shaRound : List (BitVec 64) := shaPrimes.map fun p => BitVec.ofNat 64 (intRoot 3 (p * 2 ^ 192) 68 0)

/-- SHA-384's first chaining value: 64 bits after the point of the square roots of the 9th to the 16th prime. -/
def shaStart : List (BitVec 64) :=
  ((shaPrimes.drop 8).take 8).map fun p => BitVec.ofNat 64 (intRoot 2 (p * 2 ^ 128) 68 0)

/-- The big-endian number of bytes. -/
def bigEndian (bs : List Byte) : Nat := bs.foldl (fun a b => a * 256 + b.toNat) 0

/-- A number as `n` big-endian bytes. -/
def toBigEndian (n x : Nat) : List Byte := (List.range n).map fun i => BitVec.ofNat 8 (x / 256 ^ (n - 1 - i))

/-- A message padded to whole blocks of 128 bytes. -/
def shaPad (m : List Byte) : List Byte :=
  m ++ [0x80] ++ List.replicate ((239 - m.length % 128) % 128) 0 ++ toBigEndian 16 (8 * m.length)

/-- The next schedule word from the last sixteen, oldest first. -/
def shaNext (w : List (BitVec 64)) : BitVec 64 :=
  let a := w.getD 1 0
  let b := w.getD 14 0
  w.getD 0 0 + (a.rotateRight 1 ^^^ a.rotateRight 8 ^^^ (a >>> 7)) + w.getD 9 0
    + (b.rotateRight 19 ^^^ b.rotateRight 61 ^^^ (b >>> 6))

/-- One round on the eight working words. -/
def shaStep (k w : BitVec 64) (v : List (BitVec 64)) : List (BitVec 64) :=
  let a := v.getD 0 0
  let b := v.getD 1 0
  let c := v.getD 2 0
  let e := v.getD 4 0
  let choice := (e &&& v.getD 5 0) ^^^ (~~~e &&& v.getD 6 0)
  let majority := (a &&& b) ^^^ (a &&& c) ^^^ (b &&& c)
  let t := v.getD 7 0 + (e.rotateRight 14 ^^^ e.rotateRight 18 ^^^ e.rotateRight 41) + choice + k + w
  [t + (a.rotateRight 28 ^^^ a.rotateRight 34 ^^^ a.rotateRight 39) + majority, a, b, c, v.getD 3 0 + t, e, v.getD 5 0, v.getD 6 0]

/-- The rounds of a block: the constants still to come, the last sixteen schedule words, the working words. -/
def shaRounds : List (BitVec 64) → (w v : List (BitVec 64)) → List (BitVec 64)
  | [], _, v => v
  | k :: ks, w, v => shaRounds ks (w.drop 1 ++ [shaNext w]) (shaStep k (w.getD 0 0) v)

/-- The words of one block. -/
def shaWords (b : List Byte) : List (BitVec 64) :=
  (List.range 16).map fun i => BitVec.ofNat 64 (bigEndian ((b.drop (8 * i)).take 8))

/-- The chaining value after `n` blocks. -/
def shaBlocks : (n : Nat) → (h : List (BitVec 64)) → List Byte → List (BitVec 64)
  | 0, h, _ => h
  | n + 1, h, bs => shaBlocks n (List.zipWith (· + ·) h (shaRounds shaRound (shaWords (bs.take 128)) h)) (bs.drop 128)

/-- SHA-384 as a number of 384 bits. -/
def sha384 (m : List Byte) : Nat :=
  ((shaBlocks ((shaPad m).length / 128) shaStart (shaPad m)).take 6).foldl (fun a w => a * 2 ^ 64 + w.toNat) 0

/-! ### The curve P-384 -/

/-- The field's prime. -/
def curveP : Nat := 2 ^ 384 - 2 ^ 128 - 2 ^ 96 + 2 ^ 32 - 1

/-- The order of the base point. -/
def curveN : Nat := 0xffffffffffffffffffffffffffffffffffffffffffffffffc7634d81f4372ddf581a0db248b0a77aecec196accc52973

/-- The constant term of the curve y^2 = x^3 - 3x + b. -/
def curveB : Nat := 0xb3312fa7e23ee7e4988e056be3f82d19181d9c6efe8141120314088f5013875ac656398d8a2ed19d2a85c8edd3ec2aef

/-- A point of the curve: its coordinates, or none for the point at infinity. -/
abbrev CurvePoint := Option (Nat × Nat)

/-- The base point. -/
def curveG : CurvePoint :=
  some (0xaa87ca22be8b05378eb1c71ef320ad746e1d3b628ba79b9859f741e082542a385502f25dbf55296c3a545e3872760ab7,
    0x3617de4a96262c6f5d9e98bf9292dc29f8f41dbd289a147ce9da3113b5f0b8c00a60b1ce1d7e819d7a431d7c90ea0e5f)

/-- b^e modulo m, over the low `n` bits of e, low bit first. -/
def powMod (m : Nat) : (n : Nat) → (b e acc : Nat) → Nat
  | 0, _, _, acc => acc
  | n + 1, b, e, acc => powMod m n (b * b % m) (e / 2) (if e % 2 = 1 then acc * b % m else acc)

/-- The inverse modulo a prime of 384 bits. -/
def invMod (m x : Nat) : Nat := powMod m 384 (x % m) (m - 2) 1

/-- The sum of two points. -/
def addPoint : CurvePoint → CurvePoint → CurvePoint
  | .none, q => q
  | p, .none => p
  | .some (x, y), .some (x', y') =>
    if x = x' ∧ (y + y') % curveP = 0 then .none
    else
      let slope :=
        if x = x' then (3 * x * x + curveP - 3) * invMod curveP (2 * y) % curveP
        else (y' + curveP - y) * invMod curveP (x' + curveP - x) % curveP
      let x'' := (slope * slope + 2 * curveP - x - x') % curveP
      .some (x'', (slope * (x + curveP - x'') + curveP - y) % curveP)

/-- k times a point, over the low `n` bits of k. -/
def mulPoint : (n k : Nat) → CurvePoint → (acc : CurvePoint) → CurvePoint
  | 0, _, _, acc => acc
  | n + 1, k, p, acc => mulPoint n (k / 2) (addPoint p p) (if k % 2 = 1 then addPoint acc p else acc)

/-- Whether coordinates lie on the curve. -/
def onCurve (x y : Nat) : Bool :=
  decide (x < curveP ∧ y < curveP) && (y * y + 3 * x) % curveP == (x * x * x + curveB) % curveP

/-! ### ECDSA (R6) -/

/-- A signature. -/
structure Signature where
  r : Nat
  s : Nat
  deriving DecidableEq, Repr

/-- Whether a signature on a message verifies under a public key. -/
def ecdsaVerify (key : Nat × Nat) (m : List Byte) (g : Signature) : Bool :=
  decide (0 < g.r ∧ g.r < curveN ∧ 0 < g.s ∧ g.s < curveN) && onCurve key.1 key.2 &&
    let w := invMod curveN g.s
    match addPoint (mulPoint 384 (sha384 m * w % curveN) curveG .none) (mulPoint 384 (g.r * w % curveN) (.some key) .none) with
    | .none => false
    | .some (x, _) => x % curveN == g.r

/-- The public key of a private key; a private key lies in 1 .. n - 1. -/
def ecdsaKey (d : Nat) : CurvePoint := mulPoint 384 d curveG .none

/-- The signature on a message under a private key and a one-time number. -/
def ecdsaSign (d k : Nat) (m : List Byte) : Signature :=
  match ecdsaKey k with
  | .none => { r := 0, s := 0 }
  | .some (x, _) => { r := x % curveN, s := invMod curveN k * (sha384 m + x % curveN * d) % curveN }

/-- The signature on a message with one-time numbers in 1 .. n - 1, which another one replaces when r or s comes out as zero. -/
def signWith (d : Nat) (once : Nat → Nat) (m : List Byte) : (fuel attempt : Nat) → Signature
  | 0, a => ecdsaSign d (once a % (curveN - 1) + 1) m
  | fuel + 1, a =>
    let g := ecdsaSign d (once a % (curveN - 1) + 1) m
    if g.r = 0 ∨ g.s = 0 then signWith d once m fuel (a + 1) else g

end Sys2Proof.Machine
end

