-- ==== Sys2Proof/Syntax.lean ====
section
/-! DEFINITION. The abstract syntax: one constructor of `Instr` for each row of spec/opcode_table.json, the encoded
instructions of Tables 9.9 to 9.17 first and the machine's other indivisible steps (spec/95_what_each_step_holds.md) after
them. Register fields keep the width their class gives them (R201). -/

namespace Sys2Proof

/-- Access sizes (Table 9.7). -/
inductive Size | b | h | w | d | q
  deriving DecidableEq, Repr, Inhabited

/-- Order codes (Table 9.7). -/
inductive Order | rlx | acq | rel | ar
  deriving DecidableEq, Repr, Inhabited

/-- Scopes (Table 4.1). -/
inductive Scope | core | quad | die | pkg | pod | sys
  deriving DecidableEq, Repr, Inhabited

/-- Rounding codes (Table 9.7); `dyn` is code 111, the mode in FSTAT. -/
inductive Rnd | rne | rtz | rdn | rup | rna | dyn
  deriving DecidableEq, Repr, Inhabited

/-- Element types (Table 9.7). -/
inductive ElemType | i8 | i16 | i32 | f32 | bf16 | f16 | e4m3 | e5m2
  deriving DecidableEq, Repr, Inhabited

/-- Conditions (Table 11.2). -/
inductive Cond | eq | ne | lt | ge | ltN | geN
  deriving DecidableEq, Repr, Inhabited

/-- Operations of AMO (Table 9.12). -/
inductive AmoOp | add | and | or | xor | min | max | minN | maxN | swap | faddF32
  deriving DecidableEq, Repr, Inhabited

/-- Operations of RED (Table 9.12). -/
inductive RedOp | add | and | or | xor | min | max | minN | maxN | faddF32 | faddBf16
  deriving DecidableEq, Repr, Inhabited

/-- Operations of VRED (Table 9.16). -/
inductive VredOp | add | min | max | and | or | xor
  deriving DecidableEq, Repr, Inhabited

/-- A general register g0 to g15. -/
abbrev GReg := BitVec 4
/-- A vector register v0 to v15. -/
abbrev VReg := BitVec 4
/-- A mask register m0 to m7. -/
abbrev MReg := BitVec 3
/-- A distribution register d0 to d3. -/
abbrev DReg := BitVec 2
/-- A ring handle q0 to q7. -/
abbrev QReg := BitVec 3
/-- A tensor descriptor t0 to t63. -/
abbrev TReg := BitVec 6

/-- Word 1 of format M (Table 9.3). -/
structure MForm where
  zx    : Bool
  size  : Size
  order : Order
  scope : Scope
  disp  : BitVec 20
  deriving DecidableEq, Repr, Inhabited

/-- Word 1 of format V (Table 9.4). -/
structure VForm where
  imm  : BitVec 16
  aux  : BitVec 4
  sat  : Bool
  rnd  : Rnd
  type : ElemType
  mask : MReg
  deriving DecidableEq, Repr, Inhabited

/-- Words 1 and 2 of format T (Table 9.5). -/
structure TForm where
  noff  : BitVec 16
  koff  : BitVec 16
  count : BitVec 12
  row0  : BitVec 8
  tb    : TReg
  ta    : TReg
  deriving DecidableEq, Repr, Inhabited

/-- Words 1 to 3 of format C (Table 9.6). -/
structure CForm where
  sstr  : BitVec 16
  dstr  : BitVec 16
  yf    : BitVec 16
  xf    : BitVec 16
  scope : Scope
  bph   : BitVec 12
  bv    : Bool
  boff  : BitVec 15
  deriving DecidableEq, Repr, Inhabited

/-- The side of a channel record (Table 5.4). -/
inductive Side | tenon | mortise
  deriving DecidableEq, Repr, Inhabited

/-- The states of channel records (Tables 5.5 and 5.6). -/
inductive RecState | openS | tail | broken | tstub | endSeen | shut | mstub
  deriving DecidableEq, Repr, Inhabited


/-- Message kinds (Table 5.8). -/
inductive MsgKind | data | endM | ack | broken | repoint | drain | claim | announce | release
  deriving DecidableEq, Repr, Inhabited

/-- A channel message: the header of Table 5.7 with its payload (R126); ESIZE 7 marks a joint (R295). `dstVcn` says that `dst` is a
VCN (R416). -/
structure Msg where
  kind    : MsgKind
  value   : BitVec 32
  inc     : BitVec 32
  number  : BitVec 24
  side    : Side
  move    : BitVec 32
  smove   : BitVec 32
  new     : BitVec 32
  aux     : BitVec 32
  src     : Nat
  dst     : Nat
  dstVcn  : Bool
  part    : Nat
  fin     : Bool
  fwd     : Bool
  esize   : BitVec 3
  payload : List Byte
  deriving DecidableEq, Repr, Inhabited

/-- What a PCI Express completion reports (R89, R415). -/
inductive Completion | success | unsupported | abort | poisoned
  deriving DecidableEq, Repr, Inhabited

/-- Who made a host read (R415): core `unit`, or the engine of `Sys2Proof.Machine.engineUnit`. -/
structure HostReader where
  engine : Bool
  unit : Nat
  deriving DecidableEq, Repr

/-- Where a peer's frame arrives (R388): link `link` of the 18 purlins, addressed to function `fn` of the pod node `node`. -/
structure PurlinPort where
  fn : Nat
  link : Nat
  node : Nat := 0
  deriving DecidableEq, Repr

/-- A Page Request Response (R41). -/
inductive PageResponse | success | invalid | failure
  deriving DecidableEq, Repr, Inhabited

/-- A value-returning atomic at its home (R80): `op = none` is CAS. `key` is the byte of memory it names. -/
structure AtomicReq where
  core : Nat
  slot : Nat
  key  : Nat
  size : Size
  op   : Option AmoOp
  zx   : Bool
  x    : BitVec 128
  cmp  : BitVec 128
  rd   : GReg
  deriving DecidableEq, Repr, Inhabited

/-- A reduction on its way to its home (R84): the issuing strand, its version tag (0 for a direct one), whether it accesses an SO page
(R102) and is a release (R96), the generation in which its core counts it (R35), its live launch, if any (R113), whether a gang member waits for
it (R116), and its own number, by which its home tells it from others. -/
structure RedReq where
  core : Nat
  slot : Nat
  key  : Nat
  size : Size
  op   : RedOp
  x    : BitVec 64
  vtag : BitVec 8
  so   : Bool := false
  rel  : Bool := false
  gen  : Nat := 0
  launch : Option (BitVec 16) := none
  elect  : Bool := false
  gather : Bool := false
  id     : Nat := 0
  deriving DecidableEq, Repr, Inhabited

/-- The instructions and the machine's other indivisible steps, one constructor for each row of the opcode table. Those that
only an outside agent or an SWR brings about come last. -/
inductive Instr where
  /-- NOP (R225). Does nothing; may stand in a delay slot or a placement group. -/
  | nop (e : Bool)
  /-- J (R234). Always-taken PC-relative jump after two delay slots. -/
  | j (disp : BitVec 32)
  /-- JL (R234). Always-taken PC-relative jump that writes the link after the two delay slots. -/
  | jl (rd : GReg) (disp : BitVec 32)
  /-- JR (R235). Always-taken jump to the address in a register. -/
  | jr (ra : GReg)
  /-- JLR (R235). Always-taken register jump that writes the link. -/
  | jlr (rd ra : GReg)
  /-- B_CC (R236). Conditional branch comparing two registers under a condition code. -/
  | bCc (cc : Cond) (ra rb : GReg) (disp : BitVec 32)
  /-- BI_CC (R236). Conditional branch comparing a register with a sign-extended immediate. -/
  | biCc (cc : Cond) (ra : GReg) (imm disp : BitVec 32)
  /-- TRAP (R237). Takes a SYSCALL trap to the supervisor with the immediate in XVALUE. -/
  | trap (imm : BitVec 32)
  /-- BRK (R237). Takes a BREAK trap to the supervisor with the immediate in XVALUE. -/
  | brk (imm : BitVec 32)
  /-- TRET (R238). Supervisor resumes the trapped strand of the slot XSEL names. -/
  | tret
  /-- SRD (R239). Reads a state register into a general register after number and privilege checks. -/
  | srd (e : Bool) (rd : GReg) (num : BitVec 12)
  /-- SWR (R239). Writes a state register from a general register after number, privilege and layout checks. -/
  | swr (e : Bool) (ra : GReg) (num : BitVec 12)
  /-- IFENCE (R242). Waits for earlier writes, discards fetched instructions and the instruction cache. -/
  | ifence
  /-- SLEEP (R243). Holds the strand not-ready on message until a timeout, a consumable mortise or a trap record. -/
  | sleep (rd : GReg) (imm : BitVec 32)
  /-- XLAT (R244). Probes the translation of an address without accessing it and writes the result. -/
  | xlat (e : Bool) (rd ra : GReg) (disp : BitVec 20)
  /-- REP (R245). Captures up to eight vector instructions and issues them k times with register stagger. -/
  | rep (n : BitVec 3) (k : BitVec 8) (st : BitVec 4)
  /-- ADD (R226). Integer add of two registers modulo 2^64. -/
  | add (e : Bool) (rd ra rb : GReg)
  /-- SUB (R226). Integer subtract of two registers. -/
  | sub (e : Bool) (rd ra rb : GReg)
  /-- AND (R226). Bitwise AND of two registers. -/
  | and (e : Bool) (rd ra rb : GReg)
  /-- OR (R226). Bitwise OR of two registers. -/
  | or (e : Bool) (rd ra rb : GReg)
  /-- XOR (R226). Bitwise XOR of two registers. -/
  | xor (e : Bool) (rd ra rb : GReg)
  /-- ANDN (R226). a AND NOT b of two registers. -/
  | andn (e : Bool) (rd ra rb : GReg)
  /-- SHL (R226). Logical shift left by b[5:0]. -/
  | shl (e : Bool) (rd ra rb : GReg)
  /-- SHR (R226). Logical shift right by b[5:0]. -/
  | shr (e : Bool) (rd ra rb : GReg)
  /-- SAR (R226). Arithmetic shift right by b[5:0]. -/
  | sar (e : Bool) (rd ra rb : GReg)
  /-- ROR (R226). Rotate right by b[5:0]. -/
  | ror (e : Bool) (rd ra rb : GReg)
  /-- MIN (R226). Signed minimum of two registers. -/
  | min (e : Bool) (rd ra rb : GReg)
  /-- MAX (R226). Signed maximum of two registers. -/
  | max (e : Bool) (rd ra rb : GReg)
  /-- MIN_N (R226). Unsigned minimum of two registers. -/
  | minN (e : Bool) (rd ra rb : GReg)
  /-- MAX_N (R226). Unsigned maximum of two registers. -/
  | maxN (e : Bool) (rd ra rb : GReg)
  /-- ADDI (R226). Add a sign-extended immediate. -/
  | addi (e : Bool) (rd ra : GReg) (imm : BitVec 32)
  /-- SUBI (R226). Subtract a sign-extended immediate. -/
  | subi (e : Bool) (rd ra : GReg) (imm : BitVec 32)
  /-- ANDI (R226). AND with a sign-extended immediate. -/
  | andi (e : Bool) (rd ra : GReg) (imm : BitVec 32)
  /-- ORI (R226). OR with a sign-extended immediate. -/
  | ori (e : Bool) (rd ra : GReg) (imm : BitVec 32)
  /-- XORI (R226). XOR with a sign-extended immediate. -/
  | xori (e : Bool) (rd ra : GReg) (imm : BitVec 32)
  /-- ANDNI (R226). AND NOT with a sign-extended immediate. -/
  | andni (e : Bool) (rd ra : GReg) (imm : BitVec 32)
  /-- SHLI (R226). Shift left by an immediate count. -/
  | shli (e : Bool) (rd ra : GReg) (imm : BitVec 32)
  /-- SHRI (R226). Logical shift right by an immediate count. -/
  | shri (e : Bool) (rd ra : GReg) (imm : BitVec 32)
  /-- SARI (R226). Arithmetic shift right by an immediate count. -/
  | sari (e : Bool) (rd ra : GReg) (imm : BitVec 32)
  /-- RORI (R226). Rotate right by an immediate count. -/
  | rori (e : Bool) (rd ra : GReg) (imm : BitVec 32)
  /-- MINI (R226). Signed minimum with an immediate. -/
  | mini (e : Bool) (rd ra : GReg) (imm : BitVec 32)
  /-- MAXI (R226). Signed maximum with an immediate. -/
  | maxi (e : Bool) (rd ra : GReg) (imm : BitVec 32)
  /-- MINI_N (R226). Unsigned minimum with an immediate. -/
  | miniN (e : Bool) (rd ra : GReg) (imm : BitVec 32)
  /-- MAXI_N (R226). Unsigned maximum with an immediate. -/
  | maxiN (e : Bool) (rd ra : GReg) (imm : BitVec 32)
  /-- MUL (R227). Low 64 bits of the product. -/
  | mul (e : Bool) (rd ra rb : GReg)
  /-- MULH (R227). High 64 bits of the signed 128-bit product. -/
  | mulh (e : Bool) (rd ra rb : GReg)
  /-- MULH_N (R227). High 64 bits of the unsigned 128-bit product. -/
  | mulhN (e : Bool) (rd ra rb : GReg)
  /-- DIV (R227). Signed division truncating toward zero, no trap on zero or overflow. -/
  | div (e : Bool) (rd ra rb : GReg)
  /-- DIV_N (R227). Unsigned division, all ones on division by zero. -/
  | divN (e : Bool) (rd ra rb : GReg)
  /-- REM (R227). Signed remainder with the sign of the dividend. -/
  | rem (e : Bool) (rd ra rb : GReg)
  /-- REM_N (R227). Unsigned remainder. -/
  | remN (e : Bool) (rd ra rb : GReg)
  /-- MULI (R227). Low 64 bits of the product with a sign-extended immediate. -/
  | muli (e : Bool) (rd ra : GReg) (imm : BitVec 32)
  /-- CLZ (R228). Counts leading zero bits. -/
  | clz (e : Bool) (rd ra : GReg)
  /-- CTZ (R228). Counts trailing zero bits. -/
  | ctz (e : Bool) (rd ra : GReg)
  /-- POPC (R228). Counts one bits. -/
  | popc (e : Bool) (rd ra : GReg)
  /-- BREV (R228). Reverses the bit order. -/
  | brev (e : Bool) (rd ra : GReg)
  /-- BSWAP (R228). Reverses the byte order. -/
  | bswap (e : Bool) (rd ra : GReg)
  /-- EXT (R229). Extracts a bit field, sign- or zero-extended. -/
  | ext (e : Bool) (rd ra : GReg) (signed : Bool) (w1 lo : BitVec 6)
  /-- INS (R229). Inserts low bits of a register into a field of the destination. -/
  | ins (e : Bool) (rd ra : GReg) (w1 lo : BitVec 6)
  /-- SET_CC (R231). Writes 1 or 0 by a condition on two registers. -/
  | setCc (e : Bool) (cc : Cond) (rd ra rb : GReg)
  /-- SETI_CC (R231). Writes 1 or 0 by a condition on a register and an immediate. -/
  | setiCc (e : Bool) (cc : Cond) (rd ra : GReg) (imm : BitVec 32)
  /-- SEL (R231). Selects one of two registers by a third. -/
  | sel (e : Bool) (rd ra rb rc : GReg)
  /-- MOVI (R232). Loads a 64-bit immediate. -/
  | movi (e : Bool) (rd : GReg) (imm : Word)
  /-- ADDSH (R232). Adds a register shifted left by an immediate. -/
  | addsh (e : Bool) (rd ra rb : GReg) (sh : BitVec 6)
  /-- ADDPC (R232). Adds a sign-extended immediate to the instruction address. -/
  | addpc (e : Bool) (rd : GReg) (imm : BitVec 32)
  /-- LD (R250). Loads 1 to 16 bytes at base plus displacement into a register or pair. -/
  | ld (e : Bool) (rd ra : GReg) (m : MForm)
  /-- ST (R250). Stores 1 to 16 bytes at base plus displacement. -/
  | st (e : Bool) (ra rc : GReg) (m : MForm)
  /-- LDX (R250). Loads with an element-scaled index. -/
  | ldx (e : Bool) (rd ra rb : GReg) (m : MForm)
  /-- STX (R250). Stores with an element-scaled index. -/
  | stx (e : Bool) (ra rb rc : GReg) (m : MForm)
  /-- BLD (R251). Loads a bit-packed or bit-plane element of 1 to 32 bits. -/
  | bld (e : Bool) (rd ra rb : GReg) (m : MForm)
  /-- BST (R251). Merges a bit-packed element into memory by masked word updates. -/
  | bst (e : Bool) (ra rb rc : GReg) (m : MForm)
  /-- PF (R253). Prefetches a line without faulting. -/
  | pf (ra : GReg) (m : MForm)
  /-- CWB (R253). Writes back the dirty sectors of a line and keeps it. -/
  | cwb (ra : GReg) (m : MForm)
  /-- CINV (R253). Writes back and drops a cached line. -/
  | cinv (ra : GReg) (m : MForm)
  /-- FENCE (R254). Waits for the conditions of its kinds at its scope and orders later accesses. -/
  | fence (kinds : BitVec 4) (scope : Scope)
  /-- WOSC (R255). Holds the strand until its outstanding reduction count is zero. -/
  | wosc
  /-- AMO (R256). Value-returning atomic read-modify-write at the home of the address. -/
  | amo (e : Bool) (op : AmoOp) (rd ra rc : GReg) (m : MForm)
  /-- CAS (R256). Compare-and-swap at the home, returning the old value. -/
  | cas (e : Bool) (rd ra rb rc : GReg) (m : MForm)
  /-- RED (R256). Fire-and-forget reduction gathered in update-only state or performed at the home. -/
  | red (e : Bool) (op : RedOp) (ra rc : GReg) (m : MForm)
  /-- BINIT (R259). Configures a barrier object and removes its deferred and armed entries. -/
  | binit (ra rb : GReg) (m : MForm)
  /-- BARR (R260). Makes one arrival at a barrier and checks for completion. -/
  | barr (rd ra : GReg) (m : MForm)
  /-- BEXP (R261). Adds an expected byte count to a barrier and checks for completion. -/
  | bexp (ra rc : GReg) (m : MForm)
  /-- BWAIT (R262). Waits until a barrier phase has completed, then acquires. -/
  | bwait (rd ra rb : GReg) (m : MForm)
  /-- BTEST (R262). Reports whether a barrier phase has completed. -/
  | btest (rd ra rb : GReg) (m : MForm)
  /-- NBAR (R263). Arrives at a network barrier group and waits for its phase. -/
  | nbar (rd : GReg) (level : Scope) (group : BitVec 8)
  /-- ARM (R264). Binds a push, copy or task release to a barrier phase. -/
  | arm (ra rb rc : GReg) (m : MForm)
  /-- CPY (R268). Kicks a linear copy command on the quad copy engine. -/
  | cpy (rd ra rb rc : GReg) (c : CForm)
  /-- CPY2 (R268). Kicks a two-dimensional strided copy. -/
  | cpy2 (rd ra rb rc : GReg) (c : CForm)
  /-- CPYM (R268). Kicks a multicast copy into several local stores. -/
  | cpym (rd ra rb rc : GReg) (c : CForm)
  /-- CPYQ (R270). Kicks a copy that produces into a ring's slots. -/
  | cpyq (rd : GReg) (q : QReg) (rb rc : GReg) (c : CForm)
  /-- QCFG (R272). Writes a ring descriptor and resets HEAD and TAIL. -/
  | qcfg (q : QReg) (ra : GReg)
  /-- QPUSH (R273). Publishes n produced ring slots. -/
  | qpush (q : QReg) (ra : GReg)
  /-- QPOP (R273). Frees n consumed ring slots. -/
  | qpop (q : QReg) (ra : GReg)
  /-- QSTAT (R274). Reads a ring's HEAD, TAIL, filled and free counts. -/
  | qstat (rd : GReg) (q : QReg)
  /-- ISUB (R275). Makes an infeed subscription binding a tensor to a ring. -/
  | isub (rd ra rb : GReg) (q : QReg) (c : CForm)
  /-- OSUB (R275). Makes an outfeed subscription binding a ring to a tensor. -/
  | osub (rd ra rb : GReg) (q : QReg) (c : CForm)
  /-- UNSUB (R276). Ends a feed subscription after its tile in progress. -/
  | unsub (rd : GReg)
  /-- CPYRES (R271). Supervisor resumes or aborts a suspended engine command. -/
  | cpyres (rd ra : GReg)
  /-- FORK (R278). Pushes a continuation record for a labelled arm and continues. -/
  | fork (ra rb rc : GReg) (disp : BitVec 32)
  /-- SPAWN (R279). Pushes a record from memory onto the deque of a named VCN. -/
  | spawn (ra rb : GReg)
  /-- GANG (R279). Starts four gang strands in one slot number on each quad core. -/
  | gang (ra : GReg)
  /-- JOIN (R281). Decrements a join block and ends or becomes the continuation. -/
  | join (ra : GReg) (m : MForm)
  /-- JDEC (R281). Decrements a join block and continues. -/
  | jdec (ra : GReg) (m : MForm)
  /-- EXIT (R282). Waits for tokens and OSC, decrements the join block and ends the strand. -/
  | exit
  /-- YIELD (R284). Gives up the slot's next visit. -/
  | yield
  /-- MIGR (R285). Moves the strand to the home quad of an address. -/
  | migr (ra : GReg)
  /-- PIN (R286). Sets the slot's pin bit. -/
  | pin
  /-- UNPIN (R286). Clears the slot's pin bit. -/
  | unpin
  /-- TASKR (R289). Enters a range-mode task in the quad dependence table. -/
  | taskr (rd ra rb rc : GReg) (c : CForm)
  /-- TASKS (R290). Enters a stencil-mode task at a tile. -/
  | tasks (rd ra rb : GReg) (y x : BitVec 8)
  /-- TDONE (R292). Retires a released record task. -/
  | tdone (ra : GReg)
  /-- CHAN (R293). Creates a channel and writes its tenon and mortise. -/
  | chan (rd ra rb : GReg) (esize : BitVec 3) (ldepth : BitVec 4)
  /-- SND (R294). Sends a scalar element through a tenon. -/
  | snd (rd ra rc : GReg)
  /-- SNDB (R294). Sends an element read from local store through a tenon. -/
  | sndb (rd ra rc : GReg)
  /-- SNDJ (R295). Sends a joint through a tenon, moving an end and leaving a stub. -/
  | sndj (rd ra rc : GReg)
  /-- RCV (R296). Consumes the next element or end marker from a mortise, waiting if none. -/
  | rcv (rd ra rb rc : GReg)
  /-- TRCV (R296). Consumes from a mortise or returns status 3 at once. -/
  | trcv (rd ra rb rc : GReg)
  /-- CLOSE (R299). Closes a tenon or mortise. -/
  | close (ra : GReg)
  /-- DROPJ (R299). Drops any joint, closing an end first. -/
  | dropj (ra : GReg)
  /-- MOVJ (R300). Moves a joint between registers. -/
  | movj (rd ra : GReg)
  /-- JKIND (R300). Reports the kind and state of a register's joint. -/
  | jkind (rd ra : GReg)
  /-- GRANT (R301). Renews a grant entry and writes a peg. -/
  | grant (rd : GReg) (stream : BitVec 2) (index : BitVec 6)
  /-- GDUP (R301). Copies a peg. -/
  | gdup (rd ra : GReg)
  /-- MCMD (R302). Sends a truss command to the core a peg names. -/
  | mcmd (rd ra rb : GReg) (t : TForm)
  /-- LNCH (R303). Queues a launch from a launch block and returns a ticket. -/
  | lnch (rd ra rb : GReg) (disp : BitVec 20)
  /-- LWAIT (R305). Waits for a launch's outcome and reports it. -/
  | lwait (rd ra : GReg)
  /-- LABRT (R306). Aborts a queued or live launch. -/
  | labrt (ra : GReg)
  /-- VLD (R313). Loads 32 elements from memory. -/
  | vld (e : Bool) (vd : VReg) (ra : GReg) (v : VForm)
  /-- VLD_RING (R313). Loads 32 elements from a consuming ring slot. -/
  | vldRing (e : Bool) (vd : VReg) (q : QReg) (v : VForm)
  /-- VST (R313). Stores 32 elements to memory. -/
  | vst (ra : GReg) (vc : VReg) (v : VForm)
  /-- VST_RING (R313). Stores 32 elements into a producing ring slot. -/
  | vstRing (q : QReg) (vc : VReg) (v : VForm)
  /-- VLDG (R314). Gathers elements by per-lane offsets. -/
  | vldg (e : Bool) (vd : VReg) (ra : GReg) (vb : VReg) (v : VForm)
  /-- VSTS (R314). Scatters elements by per-lane offsets. -/
  | vsts (ra : GReg) (vb vc : VReg) (v : VForm)
  /-- VADD (R316). Lane-wise integer add. -/
  | vadd (vd va vb : VReg) (v : VForm)
  /-- VSUB (R316). Lane-wise integer subtract. -/
  | vsub (vd va vb : VReg) (v : VForm)
  /-- VMUL (R316). Lane-wise integer multiply. -/
  | vmul (vd va vb : VReg) (v : VForm)
  /-- VAND (R316). Lane-wise AND. -/
  | vand (vd va vb : VReg) (v : VForm)
  /-- VOR (R316). Lane-wise OR. -/
  | vor (vd va vb : VReg) (v : VForm)
  /-- VXOR (R316). Lane-wise XOR. -/
  | vxor (vd va vb : VReg) (v : VForm)
  /-- VSHL (R316). Lane-wise shift left. -/
  | vshl (vd va vb : VReg) (v : VForm)
  /-- VSHR (R316). Lane-wise logical shift right. -/
  | vshr (vd va vb : VReg) (v : VForm)
  /-- VSAR (R316). Lane-wise arithmetic shift right. -/
  | vsar (vd va vb : VReg) (v : VForm)
  /-- VMIN (R316). Lane-wise signed minimum. -/
  | vmin (vd va vb : VReg) (v : VForm)
  /-- VMAX (R316). Lane-wise signed maximum. -/
  | vmax (vd va vb : VReg) (v : VForm)
  /-- VMIN_N (R316). Lane-wise unsigned minimum. -/
  | vminN (vd va vb : VReg) (v : VForm)
  /-- VMAX_N (R316). Lane-wise unsigned maximum. -/
  | vmaxN (vd va vb : VReg) (v : VForm)
  /-- VFADD (R317). Lane-wise floating add, rounded once. -/
  | vfadd (vd va vb : VReg) (v : VForm)
  /-- VFSUB (R317). Lane-wise floating subtract. -/
  | vfsub (vd va vb : VReg) (v : VForm)
  /-- VFMUL (R317). Lane-wise floating multiply. -/
  | vfmul (vd va vb : VReg) (v : VForm)
  /-- VFMIN (R317). Lane-wise floating minimum. -/
  | vfmin (vd va vb : VReg) (v : VForm)
  /-- VFMAX (R317). Lane-wise floating maximum. -/
  | vfmax (vd va vb : VReg) (v : VForm)
  /-- VFDIV (R317). Lane-wise floating divide. -/
  | vfdiv (vd va vb : VReg) (v : VForm)
  /-- VFSQRT (R317). Lane-wise floating square root. -/
  | vfsqrt (vd va : VReg) (v : VForm)
  /-- VFRCP (R317). Lane-wise floating reciprocal. -/
  | vfrcp (vd va : VReg) (v : VForm)
  /-- VFRSQ (R317). Lane-wise floating reciprocal square root. -/
  | vfrsq (vd va : VReg) (v : VForm)
  /-- VFMA (R317). Fused multiply-add rounded once. -/
  | vfma (vd va vb vc : VReg) (v : VForm)
  /-- VFMS (R317). Fused multiply-subtract rounded once. -/
  | vfms (vd va vb vc : VReg) (v : VForm)
  /-- VFNMA (R317). Fused negated multiply-add rounded once. -/
  | vfnma (vd va vb vc : VReg) (v : VForm)
  /-- VCVT (R318). Converts lanes between element types. -/
  | vcvt (vd va : VReg) (v : VForm)
  /-- VCMP_CC (R319). Compares lanes into a mask register. -/
  | vcmpCc (cc : Cond) (md : MReg) (va vb : VReg) (v : VForm)
  /-- VSEL (R320). Selects lanes by a mask. -/
  | vsel (vd va vb : VReg) (mc : MReg) (v : VForm)
  /-- VPERM (R320). Permutes lanes by an index vector. -/
  | vperm (vd va vb : VReg) (v : VForm)
  /-- VBC (R320). Broadcasts a general register into every lane. -/
  | vbc (vd : VReg) (ra : GReg) (v : VForm)
  /-- VMVG_TO_G (R321). Moves one vector lane to a general register. -/
  | vmvgToG (e : Bool) (rd : GReg) (va : VReg) (v : VForm)
  /-- VMVG_TO_V (R321). Moves a general register into one vector lane. -/
  | vmvgToV (e : Bool) (vd : VReg) (ra : GReg) (v : VForm)
  /-- VRED (R322). Reduces the lanes by a fixed tree into lane 0. -/
  | vred (e : Bool) (op : VredOp) (vd va : VReg) (v : VForm)
  /-- VHAD (R323). Applies the seeded Hadamard transform to a 32-lane block. -/
  | vhad (vd va : VReg) (rb rc : GReg) (v : VForm)
  /-- QNT (R324). Quantizes FP32 lanes with one shared power-of-two scale. -/
  | qnt (vd va : VReg) (rb : GReg) (v : VForm)
  /-- MAND (R325). AND of two masks. -/
  | mand (md ma mb : MReg)
  /-- MOR (R325). OR of two masks. -/
  | mor (md ma mb : MReg)
  /-- MXOR (R325). XOR of two masks. -/
  | mxor (md ma mb : MReg)
  /-- MNOT (R325). NOT of a mask. -/
  | mnot (md ma : MReg)
  /-- MPOP (R325). Counts a mask's set bits into a general register. -/
  | mpop (rd : GReg) (ma : MReg)
  /-- MSET (R325). Sets a mask from a general register. -/
  | mset (md : MReg) (ra : GReg)
  /-- VREL (R326). Clears vector, mask and distribution state and the anchor bit. -/
  | vrel
  /-- DFROM (R328). Builds distribution lanes from vector lanes. -/
  | dfrom (dd : DReg) (va vb : VReg) (v : VForm)
  /-- DLD (R329). Loads and normalizes a distribution register. -/
  | dld (e : Bool) (dd : DReg) (ra rb : GReg) (v : VForm)
  /-- DST (R329). Stores distribution lanes. -/
  | dst (ra : GReg) (dc : DReg) (v : VForm)
  /-- DADD (R330). Adds distributions with pairing and condensation. -/
  | dadd (dd da db : DReg)
  /-- DSUB (R330). Subtracts distributions. -/
  | dsub (dd da db : DReg)
  /-- DMUL (R330). Multiplies distributions. -/
  | dmul (dd da db : DReg)
  /-- DMAX (R330). Maximum of distributions. -/
  | dmax (dd da db : DReg)
  /-- DMIN (R330). Minimum of distributions. -/
  | dmin (dd da db : DReg)
  /-- DAFF (R331). Applies an affine map to every support point. -/
  | daff (dd da : DReg) (rb : GReg)
  /-- DMOM (R332). Writes a moment of each lane into a vector register. -/
  | dmom (e : Bool) (vd : VReg) (da : DReg) (v : VForm)
  /-- DQNT (R333). Writes a quantile of each lane into a vector register. -/
  | dqnt (e : Bool) (vd : VReg) (da : DReg) (v : VForm)
  /-- DLIN_SET (R334). Sets a distribution register's lineage set. -/
  | dlinSet (dd : DReg) (lin : BitVec 16)
  /-- DLIN_GET (R334). Reads a lineage set into a general register. -/
  | dlinGet (rd : GReg) (da : DReg)
  /-- TDSET (R336). Checks a descriptor image and installs it in a descriptor entry. -/
  | tdset (ra : GReg) (t : TReg)
  /-- TDGET (R336). Stores a descriptor entry's image to memory. -/
  | tdget (ra : GReg) (t : TReg)
  /-- LSTA (R340). Kicks a weight load into the shadow plane. -/
  | lsta (rd : GReg) (t : TForm)
  /-- MSWAP (R341). Accepts a plane exchange and waits until it is performed. -/
  | mswap
  /-- MSTRM (R342). Kicks a stream of activation rows from a tensor past the active plane. -/
  | mstrm (rd : GReg) (t : TForm)
  /-- MSTRM_RING (R342). Kicks a stream of activation rows from a ring. -/
  | mstrmRing (rd : GReg) (q : QReg) (t : TForm)
  /-- MOUT (R343). Kicks conversion of plate rows into a tensor. -/
  | mout (rd : GReg) (clear : Bool) (t : TForm)
  /-- MOUT_RING (R343). Kicks conversion of plate rows into ring slots. -/
  | moutRing (rd : GReg) (q : QReg) (clear : Bool) (t : TForm)
  /-- MZERO (R344). Kicks clearing of plate rows. -/
  | mzero (rd : GReg) (t : TForm)
  /-- MSTAT (R345). Samples the truss state. -/
  | mstat (e : Bool) (rd : GReg)
  /-- SHOOTDOWN_ACKNOWLEDGE (R37). Every unit's previous-generation count reaches zero and the shootdown is acknowledged. -/
  | shootdownAcknowledge (part : Nat)
  /-- ATOMIC_AT_HOME (R80). An AMO or CAS arrives at its home and is performed indivisibly. -/
  | atomicAtHome (r : AtomicReq)
  /-- RED_AT_HOME (R84). A versioned or remote-SO RED is performed at the home as one read-modify-write. -/
  | redAtHome (r : RedReq)
  /-- INFEED_TILE (R65). The infeed fills and publishes one tile into a free ring slot. -/
  | infeedTile (die index : Nat)
  /-- OUTFEED_TILE (R65). The outfeed writes one filled slot's tile to the tensor and frees the slot. -/
  | outfeedTile (die index : Nat)
  /-- COPY_CHUNK_DONE (R266). A copy chunk completes; the written prefix is delivered and, at the end, the token is written. -/
  | copyChunkDone (quad index : Nat)
  /-- DEFERRED_QUEUE_ROOM (R68). A deferred-queue entry is removed and a stalled parking copy proceeds. -/
  | deferredQueueRoom (quad : Nat)
  /-- CHANNEL_DATA_ARRIVAL (R130). A DATA or END message reaches a mortise-side record and is stored, passed or forwarded. -/
  | channelDataArrival (msg : Msg)
  /-- ACK_ARRIVAL (R132). An ACK reaches a tenon-side record and advances ACKD. -/
  | ackArrival (msg : Msg)
  /-- BROKEN_ARRIVAL (R132). A BROKEN notice reaches a tenon-side record, breaking it and sending a final DRAIN. -/
  | brokenArrival (msg : Msg)
  /-- REPOINT_ARRIVAL (R132). A REPOINT reaches a tenon-side record, switching its route and draining the old one. -/
  | repointArrival (msg : Msg)
  /-- DRAIN_ARRIVAL (R135). A DRAIN reaches a mortise-side record or stub and updates its drain fields. -/
  | drainArrival (msg : Msg)
  /-- CLAIM_ARRIVAL (R136). A CLAIM reaches a stub, which sets TARGET and forwards what it holds. -/
  | claimArrival (msg : Msg)
  /-- ANNOUNCE_ARRIVAL (R135). An ANNOUNCE reaches a mortise-side record, which sends RELEASE and readdresses. -/
  | announceArrival (msg : Msg)
  /-- RELEASE_ARRIVAL (R135). A RELEASE reaches a tenon-side record or stub and updates its release fields. -/
  | releaseArrival (msg : Msg)
  /-- TAKE_AND_DROP (R133). A marked element of a shut record is received and dropped once a record slot frees. -/
  | takeAndDrop (core recSlot : Nat)
  /-- SHADOW_SPILL_RESUME (R155). A spill waiting for a full bucket proceeds after discarding frees an entry. -/
  | shadowSpillResume (part : Nat)
  /-- LAUNCH_COMMIT (R156). A finished launch whose older launches are resolved commits with one table write. -/
  | launchCommit (part lnum : Nat)
  /-- MERGE_SWEEP (R157). A slice's background sweep merges committed and discards aborted shadow data. -/
  | mergeSweep (part granule : Nat)
  /-- SLOT_POP (R176). A vacant user slot restores a cached context or pops a continuation record. -/
  | slotPop (core slot : Nat)
  /-- DEQUE_PUSH_RESUME (R175). A join, armed or placement push waiting at a full deque proceeds. -/
  | dequePushResume (core : Nat)
  /-- STEAL (R177). An empty core tries victims in order and steals one record, repeating every 256 cycles. -/
  | steal (core : Nat)
  /-- MIGRATION_LANDING (R179). The landing queue gives a migrating strand to a vacant slot of the quad. -/
  | migrationLanding (quad : Nat)
  /-- ELECT_VALUE_TAKEN (R170). A gang member takes a posted elect value into its destination register. -/
  | electValueTaken (core slot : Nat)
  /-- FRAMING_ARRIVAL (R183). A supervisor slot's arrival timer expires and it arrives at the die's framing phase. -/
  | framingArrival (core : Nat)
  /-- BUDGET_WINDOW (R185). A router's budget window ends, counts restart and held packets leave. -/
  | budgetWindow (quad : Nat)
  /-- SLEEP_TIMEOUT (R243). A SLEEP's cycle count expires and the strand resumes with reason 0. -/
  | sleepTimeout (core slot : Nat)
  /-- LAUNCH_PLACEMENT (R351). Placement takes a launch from the queue, numbers it and pushes its initial records. -/
  | launchPlacement (part : Nat)
  /-- SAMPLING_WINDOW (R350). A core closes its sampling window and classifies itself. -/
  | samplingWindow (core : Nat)
  /-- LSTA_COMPLETE (R340). The weight-load path finishes an LSTA and sets the shadow plane record. -/
  | lstaComplete (core : Nat)
  /-- MSWAP_PERFORM (R341). A pending plane exchange is performed once earlier loads and streams are done. -/
  | mswapPerform (core : Nat)
  /-- TRUSS_ROW_STEP (R346). The array performs one MSTRM, MOUT or MZERO row step for a stream. -/
  | trussRowStep (core stream : Nat)
  /-- SLICE_EXPIRY (R355). A slot's slice timer reaches the effective length. -/
  | sliceExpiry (core slot : Nat)
  /-- SWAP_PREPARE_TIMEOUT (R359). A swap's prepare phase exceeds 2^16 cycles and is abandoned. -/
  | swapPrepareTimeout (p q : Nat)
  /-- SWAP_EXCHANGE (R360). A prepared swap copies the two tenants over the mesh. -/
  | swapExchange (p q : Nat)
  /-- SWAP_COPY_DONE (R360). Both tenant copies finish and await the next framing phase. -/
  | swapCopyDone (p q : Nat)
  /-- TRAP_QUEUE_ENTRY (R364). A waiting trap record or event enters the core's trap queue when room appears. -/
  | trapQueueEntry (core : Nat)
  /-- TENANT_SAVE_COMPLETE (R376). The context engine and per-row DMA finish and the header is written with V = 1. -/
  | tenantSaveComplete (core : Nat)
  /-- TRACE_LOSS_SAMPLE (R392). Every 2^16 cycles each slot sends its loss counter deltas. -/
  | traceLossSample (core : Nat)
  /-- TRACE_READY_HISTOGRAM (R392). Every 2^20 cycles each core sends its ready histogram. -/
  | traceReadyHistogram (core : Nat)
  /-- REPLAY_STOP (R393). A forced choice not made within one framing phase stops the partition. -/
  | replayStop (part : Nat)
  /-- TENANT_RESTORE_COMPLETE (R378). The read-back of a saved region by the context engine and the per-row DMA finishes, and PREEMPT with R = 1 is posted. -/
  | tenantRestoreComplete (core : Nat)
  /-- CONTEXT_RESTORE_COMPLETE (R354). The restore of a slot's incoming context completes, the slice timer starts and COST is measured. -/
  | contextRestoreComplete (core slot : Nat)
  /-- NBAR_MULTICAST_DOWN (R171). The purlin switch's multicast that completes a pod-level NBAR group arrives and releases the waiting strands. -/
  | nbarMulticastDown (part group : Nat)
  /-- UNDEFINED_ENCODING (R208). A strand fetches an encoding that the map and the entries do not define, and it traps with ILLEGAL or LENGTH. -/
  | undefinedEncoding (length : Bool)
  /-- FETCH_FAULT (R202). The fetch of a strand's next instruction faults with ALIGN, with translation or permission faults, or with ILLEGAL at an entered offset 28. -/
  | fetchFault (cause : BitVec 8) (va : Word) (malformed : Bool)
  /-- TLB_WALK_DONE (R34). A page walk completes and installs its result in the requesting quads' TLBs. -/
  | tlbWalkDone (core : Nat) (asid : BitVec 8) (va : Word) (write : Bool)
  /-- ATS_TRANSLATION_COMPLETION (R41). An ATS Translation Completion reaches the port die and resumes HostResolve. -/
  | atsTranslationCompletion (fn : Nat) (pasid : BitVec 20) (ua ta : Word) (r w : Bool)
  /-- PAGE_REQUEST_RESPONSE (R41). A PRI Page Request Response arrives and retries or faults the host access. -/
  | pageRequestResponse (fn : Nat) (pasid : BitVec 20) (ua : Word) (resp : PageResponse)
  /-- HOST_READ_COMPLETION (R415). A host Memory Read completes, returning data or failing with BUS_ERROR. -/
  | hostReadCompletion (reader : HostReader) (index : Nat) (res : Completion)
  /-- HOST_ATOMIC_COMPLETION (R89). A host AtomicOp completion writes the old value or faults. -/
  | hostAtomicCompletion (core slot : Nat) (res : Completion)
  /-- INVALIDATE_REQUEST (R37). A host ATS Invalidate Request removes matching ATC entries and moves the generation. -/
  | invalidateRequest (fn : Nat) (pasid : Option (BitVec 20)) (ua : Word) (pages : Nat)
  /-- INVD_ONE_PAGE (R38). SWR of INVD with TYPE 00 starts a one-page internal shootdown. -/
  | invdOnePage (d : Word)
  /-- INVD_RANGE (R38). SWR of INVD with TYPE 01 shoots down 2^N pages. -/
  | invdRange (d : Word)
  /-- INVD_ASID (R38). SWR of INVD with TYPE 10 shoots down a whole ASID except G entries. -/
  | invdAsid (d : Word)
  /-- INVD_PARTITION (R38). SWR of INVD with TYPE 11 shoots down all ASIDs and G entries of the partition. -/
  | invdPartition (d : Word)
  /-- HASID_WRITE (R417). Supervisor writes HASID, changing the ASID of itself and of strands started later. -/
  | hasidWrite (v : Word)
  /-- HOME_READ_REQUEST (R72). A read or fill request arrives at the home slice and is served after needed recalls. -/
  | homeReadRequest (core line : Nat) (vtag : BitVec 8)
  /-- OWNERSHIP_REQUEST (R72). A request for ownership arrives at the home slice. -/
  | ownershipRequest (core line : Nat)
  /-- WRITE_THROUGH_AT_HOME (R46). A written-through store is performed at the home, invalidating other copies. -/
  | writeThroughAtHome (core pa : Nat) (size : Size) (x : BitVec 128)
  /-- UPDATE_ONLY_GRANT_REQUEST (R84). An L1 or RDC asks for a line in update-only state without data. -/
  | updateOnlyGrantRequest (core line : Nat) (op : RedOp) (size : Size)
  /-- WRITE_BACK_ARRIVAL (R73). A dirty-sector write-back or evicted U partial reaches the home or RDC and is combined. -/
  | writeBackArrival (core line : Nat)
  /-- INVALIDATION_AT_HOLDER (R73). An invalidation or recall reaches an L1 or RDC, which acknowledges. -/
  | invalidationAtHolder (rdc : Bool) (holder line : Nat)
  /-- RECALL_ACK (R72). The last acknowledgement of a recall reaches the home and the waiting request is granted. -/
  | recallAck (line : Nat)
  /-- DIRPTR_WRITE (R77). Supervisor reports one recorded sharer for a pending list request. -/
  | dirptrWrite (v : Word)
  /-- DIRDONE_LIST_COMPLETE (R75). DIRDONE with RESULT 00 lets the home send its invalidations or recalls. -/
  | dirdoneListComplete (v : Word)
  /-- DIRDONE_BROADCAST (R76). DIRDONE with RESULT 01 sets BCAST on the line. -/
  | dirdoneBroadcast (v : Word)
  /-- LSLK_WRITE (R168). Supervisor sets or releases a local-store lock. -/
  | lslkWrite (v : Word)
  /-- TQPOP_WRITE (R364). Supervisor removes the head trap record. -/
  | tqpopWrite (v : Word)
  /-- XKILL_WRITE (R368). Supervisor kills or fails a slot's strand. -/
  | xkillWrite (v : Word)
  /-- DSTOP_STOP (R380). DSTOP with S = 1 stops a slot's strand at its next boundary. -/
  | dstopStop (v : Word)
  /-- DSTOP_RESTART (R380). DSTOP with S = 0 restarts a stopped slot. -/
  | dstopRestart (v : Word)
  /-- XJNT_WRITE (R241). Supervisor sets the tag of a selected strand's register after a format check. -/
  | xjntWrite (v : Word)
  /-- SHOB_WRITE (R152). Supervisor writes the shadow overflow base when the area is disabled. -/
  | shobWrite (v : Word)
  /-- SHOS_WRITE (R152). Supervisor enables, disables or sizes the shadow overflow area. -/
  | shosWrite (v : Word)
  /-- SAVB_WRITE (R372). Supervisor sets the partition's save area base and enable. -/
  | savbWrite (v : Word)
  /-- REG_WRITE (R239). SWR to a state register without behaviour of its own stores the checked value. -/
  | regWrite (num : BitVec 12) (v : Word)
  /-- APERTURE_WRITE (R382). A posted host write stores into the function's frame buffer or is discarded. -/
  | apertureWrite (fn offset bytes : Nat) (x : Word)
  /-- APERTURE_READ (R382). A read of the call aperture returns all ones. -/
  | apertureRead (fn offset bytes : Nat)
  /-- DOORBELL (R383). An 8-byte doorbell write submits the frame after port-die checks. -/
  | doorbell (fn : Nat) (x : Word)
  /-- PURLIN_FRAME (R388). A peer's call frame arrives in purlin flits and is handled as a submission. -/
  | purlinFrame (port : PurlinPort) (frame : List Byte) (x : Word)
  /-- IDENT (R386). Returns device identity and the certificate address. -/
  | ident (fn frame : Nat)
  /-- ATTEST (R386). Writes a signed measurement report. -/
  | attest (fn frame : Nat)
  /-- FWLOAD (R386). Loads and verifies a firmware image. -/
  | fwload (fn frame : Nat)
  /-- STATUS (R386). Reports start-up stage, discarded writes and corrected errors. -/
  | status (fn frame : Nat)
  /-- LAUNCH (R386). Queues a launch from a host call and replies when it is reported. -/
  | launch (fn frame : Nat)
  /-- LABORT (R386). Aborts the launch of a LAUNCH call's TAG. -/
  | labort (fn frame : Nat)
  /-- REVOKE (R42). Adds a revoked host range to the partition's revocation table. -/
  | revoke (fn frame : Nat)
  /-- UNREVOKE (R42). Removes revocation entries wholly within a range. -/
  | unrevoke (fn frame : Nat)
  /-- PRIEN (R386). Re-enables page requests for a virtual function. -/
  | prien (fn frame : Nat)
  /-- EMUREPLY (R410). Host answers an atomic emulation request with the old value. -/
  | emureply (fn frame : Nat)
  /-- FAULTAREA (R387). Sets a function's fault-record area. -/
  | faultarea (fn frame : Nat)
  /-- SPDM (R390). Carries one SPDM request and returns its response. -/
  | spdm (fn frame : Nat)
  /-- RESIZE (R361). Resizes a partition at the next framing phases. -/
  | resize (fn frame : Nat)
  /-- SAVE (R376). Orders a tenant save of a VCN. -/
  | save (fn frame : Nat)
  /-- RESTORE (R406). Restores a saved VCN onto an empty target core. -/
  | restore (fn frame : Nat)
  /-- SUPRST (R365). Restarts a supervisor slot stopped by a double fault. -/
  | suprst (fn frame : Nat)
  /-- TRACE (R392). Sets the partition's trace ring. -/
  | trace (fn frame : Nat)
  /-- REPLAY (R393). Starts record or replay of the partition's nondeterministic inputs. -/
  | replay (fn frame : Nat)
  /-- CALLR_WRITE (R385). Supervisor sends a call reply and MSI-X and frees the frame slot. -/
  | callrWrite (v : Word)
  /-- CALLPOP_WRITE (R384). Supervisor retires the head call frame. -/
  | callpopWrite (v : Word)
  /-- FREC_WRITE (R387). Supervisor posts a fault record to the function's fault-record area. -/
  | frecWrite (v : Word)
  /-- POWER_ON (R391). Power reaches all dies and start-up stage 0 begins. -/
  | powerOn
  /-- CORE_RESET_RELEASE (R391). A core leaves reset when its die's start-up brings it up. -/
  | coreResetRelease (core : Nat)
  /-- STARTUP_STAGE_COMPLETE (R391). A start-up stage completes or fails. -/
  | startupStageComplete (ok : Bool)
  /-- SOFT_ERROR (R394). A corrected error is counted, or an uncorrected one faults and posts a record. -/
  | softError (corrected : Bool) (core slot : Nat) (atCore virtual : Bool) (addr : Word)
  /-- COMPLETION_TIMEOUT (R415). A host Memory Read or AtomicOp receives no completion in time and its access faults with BUS_ERROR or its command suspends. -/
  | completionTimeout (engine : Bool) (unit index : Nat)
  /-- VF_ENABLE (R387). The operator enables a virtual function on a port, and its fault-record SEQ starts at 0. -/
  | vfEnable (fn port : Nat)
  /-- L1_VTAG_DROP (R157). A core drops, in the background, the L1 lines whose VTAG names a tag that is no longer live, so that the tag can become free. -/
  | l1VtagDrop (core : Nat) (tag : BitVec 8)
  deriving DecidableEq, Repr

end Sys2Proof
end

