-- ==== Sys2Proof/WellFormed.lean ====
section
/-! DEFINITION. Which instructions have an encoding: the operand limits that the encoding check of R208 step 2 applies
beyond the field codes, which Syntax.lean's types already exclude. An instruction that fails one traps with ILLEGAL. -/

namespace Sys2Proof

/-- Bytes of an access size (Table 9.7). -/
def Size.bytes : Size → Nat
  | .b => 1 | .h => 2 | .w => 4 | .d => 8 | .q => 16

/-- Bytes of an element (Table 10.1). -/
def ElemType.bytes : ElemType → Nat
  | .i8 => 1 | .i16 => 2 | .i32 => 4 | .f32 => 4 | .bf16 => 2 | .f16 => 2 | .e4m3 => 1 | .e5m2 => 1

/-- The integer element types. -/
def ElemType.isInt : ElemType → Bool
  | .i8 | .i16 | .i32 => true
  | _ => false

/-- The types VFOP, VFMA admit (Table 14.1). -/
def ElemType.isArith : ElemType → Bool
  | .f32 | .bf16 | .f16 => true
  | _ => false

/-- A register field of size q names an even register (R248). -/
def pairOk (size : Size) (r : GReg) : Bool := size != .q || !(r.getLsbD 0)

/-- The zx rule for loads: zx must be 0 for sizes d and q (R248). -/
def MForm.loadExt (m : MForm) : Bool := !m.zx || (m.size != .d && m.size != .q)

/-- The order codes of loads and stores (Table 4.2). -/
def Order.okLoad : Order → Bool
  | .rlx | .acq => true
  | _ => false
/-- Order codes of stores and of RED (Table 4.2, R83). -/
def Order.okStore : Order → Bool
  | .rlx | .rel => true
  | _ => false

/-- The rows of Table 12.1 marked "b only" with order rlx. -/
def MForm.plain (m : MForm) : Bool := m.size == .b && m.order == .rlx

/-- Sizes of AMO by operation (Table 3.6). -/
def AmoOp.sizeOk (op : AmoOp) (size : Size) : Bool :=
  match op with
  | .faddF32 => size == .w
  | _ => size == .w || size == .d

/-- Sizes of RED by operation (Table 3.6). -/
def RedOp.sizeOk (op : RedOp) (size : Size) : Bool :=
  match op with
  | .faddF32 => size == .w
  | .faddBf16 => size == .h
  | _ => size == .w || size == .d

/-- The element description of BLD and BST (Table 12.2). -/
def bitDescOk (store : Bool) (disp : BitVec 20) : Bool :=
  let mode := disp.extractLsb' 18 2
  let p1 := disp.extractLsb' 5 5
  disp.extractLsb' 10 8 == 0 && ((mode == 0 && p1 == 0) || (mode == 1 && !store))

/-- When BV = 0, BOFF and BPH must be zero (R203). -/
def CForm.barrierOk (c : CForm) : Bool := c.bv || (c.boff == 0 && c.bph == 0)

/-- No barrier (Table 9.8, rows ISUB, OSUB, TASKR). -/
def CForm.noBarrier (c : CForm) : Bool := !c.bv && c.boff == 0 && c.bph == 0

/-- An instruction that does not round or saturate requires sat = 0 (R309). -/
def VForm.noSat (v : VForm) : Bool := !v.sat

/-- aux and imm16 unused (R309). -/
def VForm.noImm (v : VForm) : Bool := v.imm == 0 && v.aux == 0

/-- VLD, VST from memory: aux[3] = 0 and the other aux bits unused (Table 14.1). -/
def VForm.memOk (v : VForm) : Bool := v.aux == 0 && !v.sat

/-- VLD, VST on a ring: aux is 0b1000, imm16[15:8] zero (Table 9.4). -/
def VForm.ringOk (v : VForm) : Bool := v.aux == 8 && v.imm.extractLsb' 8 8 == 0 && !v.sat

/-- VLDG, VSTS: aux[1:0] is the scale (R314). -/
def VForm.gatherOk (v : VForm) : Bool := v.aux.extractLsb' 2 2 == 0 && !v.sat

/-- VIOP (R316): integer types; the immediate form has fb = 0, the register form imm16 = 0; sat on fns 0 to 2 only. -/
def VForm.viopOk (v : VForm) (vb : VReg) (maySat : Bool) : Bool :=
  v.type.isInt && (maySat || !v.sat) && ((v.aux == 0 && v.imm == 0) || (v.aux == 1 && vb == 0))


/-- The lane-moving instructions take i32 only, with no immediate (R320). -/
def VForm.moveOk (v : VForm) : Bool := v.type == .i32 && v.noImm && !v.sat

/-- Source type code of VCVT in aux (R318). -/
def auxType (aux : BitVec 4) : Option ElemType :=
  match aux.toNat with
  | 0 => some .i8 | 1 => some .i16 | 2 => some .i32
  | 8 => some .f32 | 9 => some .bf16 | 10 => some .f16 | 11 => some .e4m3 | 12 => some .e5m2
  | _ => none

/-- VMVG requires mask field 0, type i32, imm16[15:5] zero and the direction in aux[0] (R321). -/
def VForm.vmvgOk (v : VForm) (dir : BitVec 4) : Bool :=
  v.type == .i32 && v.mask == 0 && v.aux == dir && v.imm.extractLsb' 5 11 == 0 && !v.sat

/-- Fields of format T that LSTA leaves zero (Table 14.4): tb, row0, count12[11:4]. -/
def TForm.lstaOk (t : TForm) : Bool := t.tb == 0 && t.row0 == 0 && t.count.extractLsb' 4 8 == 0

/-- The integer or f32, bf16, f16 types of VRED; bitwise operations and sat = 1 limits (R322). -/
def vredOk (op : VredOp) (v : VForm) : Bool :=
  (v.type.isInt || v.type.isArith) && v.noImm && !v.sat &&
    (match op with
     | .and | .or | .xor => v.type.isInt
     | _ => true)

/-- The encoding limits of one instruction. Events have no encoding and are not limited here. -/
def Instr.wf : Instr → Bool
  | .ext _ _ _ _ w1 lo => lo.toNat + (w1.toNat + 1) ≤ 64
  | .ins _ _ _ w1 lo => lo.toNat + (w1.toNat + 1) ≤ 64
  | .shli _ _ _ imm => imm.extractLsb' 6 26 == 0
  | .shri _ _ _ imm => imm.extractLsb' 6 26 == 0
  | .sari _ _ _ imm => imm.extractLsb' 6 26 == 0
  | .rori _ _ _ imm => imm.extractLsb' 6 26 == 0
  | .ld _ rd _ m => m.loadExt && m.order.okLoad && pairOk m.size rd
  | .st _ _ rc m => !m.zx && m.order.okStore && pairOk m.size rc
  | .ldx _ rd _ _ m => m.loadExt && m.order.okLoad && pairOk m.size rd
  | .stx _ _ _ rc m => !m.zx && m.order.okStore && pairOk m.size rc
  | .bld _ _ _ _ m => m.size == .b && m.order.okLoad && bitDescOk false m.disp
  | .bst _ _ _ _ m => m.size == .b && !m.zx && m.order.okStore && bitDescOk true m.disp
  | .pf _ m => m.plain
  | .cwb _ m => m.plain
  | .cinv _ m => m.plain
  | .amo _ op _ _ _ m => op.sizeOk m.size && m.loadExt
  | .cas _ rd _ rb rc m =>
      (m.size == .w || m.size == .d || m.size == .q) && !m.zx && pairOk m.size rd && pairOk m.size rb && pairOk m.size rc
  | .red _ op _ _ m => op.sizeOk m.size && !m.zx && m.order.okStore
  | .binit _ _ m => m.plain
  | .barr _ _ m => m.plain
  | .bexp _ _ m => m.plain
  | .bwait _ _ _ m => m.plain
  | .btest _ _ _ m => m.plain
  | .arm _ _ _ m => m.plain
  | .nbar _ level _ => level == .quad || level == .die || level == .pkg || level == .pod
  | .cpy _ _ _ _ c => c.barrierOk && c.xf == 0 && c.yf == 0 && c.dstr == 0 && c.sstr == 0
  | .cpy2 _ _ _ _ c => c.barrierOk && c.xf == 0 && c.yf != 0
  | .cpym _ _ _ _ c => c.barrierOk && c.xf != 0 && c.yf == 0 && c.dstr == 0 && c.sstr == 0
  | .cpyq _ _ _ _ c => c.barrierOk && c.xf == 0 && c.yf == 0 && c.dstr == 0 && c.sstr == 0
  | .isub _ _ _ _ c =>
      c.noBarrier && c.xf != 0 && c.yf != 0 && c.dstr.extractLsb' 11 5 == 0 && c.sstr.extractLsb' 6 10 == 0
  | .osub _ _ _ _ c =>
      c.noBarrier && c.xf != 0 && c.yf != 0 && c.dstr.extractLsb' 11 5 == 0 && c.sstr.extractLsb' 6 10 == 0
  | .join _ m => m.plain && !m.zx
  | .jdec _ m => m.plain && !m.zx
  | .taskr _ _ _ _ c => c.noBarrier && c.dstr == 0 && c.sstr == 0
  | .chan rd _ rb _ _ => rd != rb
  | .snd rd ra _ => rd != ra
  | .sndb rd ra _ => rd != ra
  | .sndj rd ra _ => rd != ra
  | .rcv rd ra rb _ => rd != ra && rd != rb && ra != rb
  | .trcv rd ra rb _ => rd != ra && rd != rb && ra != rb
  | .vld _ _ _ v => v.memOk
  | .vldRing _ _ _ v => v.ringOk
  | .vst _ _ v => v.memOk
  | .vstRing _ _ v => v.ringOk
  | .vldg _ _ _ _ v => v.gatherOk
  | .vsts _ _ _ v => v.gatherOk
  | .vadd _ _ vb v => v.viopOk vb true
  | .vsub _ _ vb v => v.viopOk vb true
  | .vmul _ _ vb v => v.viopOk vb true
  | .vand _ _ vb v => v.viopOk vb false
  | .vor _ _ vb v => v.viopOk vb false
  | .vxor _ _ vb v => v.viopOk vb false
  | .vshl _ _ vb v => v.viopOk vb false
  | .vshr _ _ vb v => v.viopOk vb false
  | .vsar _ _ vb v => v.viopOk vb false
  | .vmin _ _ vb v => v.viopOk vb false
  | .vmax _ _ vb v => v.viopOk vb false
  | .vminN _ _ vb v => v.viopOk vb false
  | .vmaxN _ _ vb v => v.viopOk vb false
  | .vfadd _ _ _ v => v.type.isArith && v.noImm
  | .vfsub _ _ _ v => v.type.isArith && v.noImm
  | .vfmul _ _ _ v => v.type.isArith && v.noImm
  | .vfmin _ _ _ v => v.type.isArith && v.noImm
  | .vfmax _ _ _ v => v.type.isArith && v.noImm
  | .vfdiv _ _ _ v => v.type.isArith && v.noImm
  | .vfsqrt _ _ v => v.type.isArith && v.noImm
  | .vfrcp _ _ v => v.type.isArith && v.noImm
  | .vfrsq _ _ v => v.type.isArith && v.noImm
  | .vfma _ _ _ _ v => v.type.isArith && v.noImm
  | .vfms _ _ _ _ v => v.type.isArith && v.noImm
  | .vfnma _ _ _ _ v => v.type.isArith && v.noImm
  | .vcvt _ _ v => (auxType v.aux).isSome && v.imm == 0
  | .vcmpCc cc _ _ _ v => v.noImm && !v.sat && (v.type.isInt || (cc != .ltN && cc != .geN))
  | .vsel _ _ _ _ v => v.moveOk
  | .vperm _ _ _ v => v.moveOk
  | .vbc _ _ v => v.moveOk
  | .vmvgToG _ _ _ v => v.vmvgOk 0
  | .vmvgToV _ _ _ v => v.vmvgOk 1
  | .vred _ op _ _ v => vredOk op v
  | .vhad _ _ _ _ v => (v.type == .f32 || v.type == .bf16) && v.imm == 0 && v.aux.extractLsb' 1 3 == 0
  | .qnt _ _ _ v =>
      v.imm == 0 && !v.sat && ((v.aux == 0 && (v.type == .e4m3 || v.type == .e5m2 || v.type == .i8)) || (v.aux == 1 && v.type == .i8))
  | .dfrom _ _ vb v => v.type == .f32 && !v.sat && ((v.aux == 0 && vb == 0) || v.aux == 1)
  | .dld _ _ _ _ v => v.type == .f32 && v.aux == 0 && !v.sat
  | .dst _ _ v => v.type == .f32 && v.aux == 0 && !v.sat
  | .dmom _ _ _ v => v.type == .f32 && v.mask == 0 && v.imm == 0 && !v.sat && (v.aux == 1 || v.aux == 2 || v.aux == 3)
  | .dqnt _ _ _ v => v.type == .f32 && v.mask == 0 && v.aux == 0 && !v.sat && v.imm.toNat ≤ 0x8000
  | .lsta _ t => t.lstaOk
  | .mstrm _ t => t.tb == 0
  | .mstrmRing _ _ t => t.tb == 0 && t.noff == 0
  | .mout _ _ t => t.tb == 0
  | .moutRing _ _ _ t => t.tb == 0 && t.noff == 0
  | .mzero _ t => t.tb == 0 && t.ta == 0 && t.koff == 0 && t.noff == 0
  | _ => true

end Sys2Proof
end

