-- ==== Sys2Proof/Machine/Bits.lean ====
section
/-! DEFINITION. Bit fields, byte order and sign extension (R8, R200, R223). -/

namespace Sys2Proof.Machine

/-- Bits [lo + len - 1 : lo] of a word, as a number. -/
def field {n : Nat} (x : BitVec n) (lo len : Nat) : Nat := x.toNat / 2 ^ lo % 2 ^ len

/-- Bit `i` of a word. -/
def bit {n : Nat} (x : BitVec n) (i : Nat) : Bool := x.getLsbD i

/-- `x` with bits [lo + len - 1 : lo] replaced by the low bits of `v`. -/
def setField {n : Nat} (x : BitVec n) (lo len v : Nat) : BitVec n :=
  BitVec.ofNat n (x.toNat / 2 ^ (lo + len) * 2 ^ (lo + len) + v % 2 ^ len * 2 ^ lo + x.toNat % 2 ^ lo)

/-- `x` with bit `i` set to `b`. -/
def setBit {n : Nat} (x : BitVec n) (i : Nat) (b : Bool) : BitVec n := setField x i 1 b.toNat

/-- The numbers 0 to n - 1 for which the bit of `x` is set, ascending. -/
def setBits {n : Nat} (x : BitVec n) : List Nat := (List.range n).filter (fun i => x.getLsbD i)

/-- The number of set bits. -/
def popCount {n : Nat} (x : BitVec n) : Nat := (setBits x).length

/-- The number that little-endian bytes stand for. -/
def ofBytes : List Byte → Nat
  | [] => 0
  | b :: rest => b.toNat + 256 * ofBytes rest

/-- The low `n` bytes of a number, little-endian. -/
def toBytes : (n : Nat) → (x : Nat) → List Byte
  | 0, _ => []
  | n + 1, x => BitVec.ofNat 8 x :: toBytes n (x / 256)

/-- A signed field extended to 64 bits: the low `n` bits of `x`. -/
def sxNat (n x : Nat) : Word := BitVec.ofInt 64 (BitVec.ofNat n x).toInt

/-- Whether a sequence or move number is later than another, modulo 2^32 (R127). -/
def later (a b : BitVec 32) : Bool := decide (1 ≤ (a - b).toNat ∧ (a - b).toNat < 2 ^ 31)

/-- The later of two sequence numbers. -/
def latest (a b : BitVec 32) : BitVec 32 := if later a b then a else b

end Sys2Proof.Machine
end

