-- ==== Sys2Proof/Machine/State.lean ====
section
/-! DEFINITION. The machine's state as plain data (INVENTORY.md, State), its reasons to stop, and the state after reset. Fixed
sets of like things with few live members are maps: lists of (index, value) with a default for an index not listed. -/

namespace Sys2Proof.Machine

/-- Why a step can stop. -/
inductive Fault where
  /-- A state without the strand it names. Raised by no definition: every step answers a next state. Safe. -/
  | malformedState
  deriving DecidableEq, Repr

/-- Why an instruction has no meaning. -/
inductive Refusal where
  /-- Raised by a dispatch arm whose instruction has no meaning yet. Safe. -/
  | notModelled (mnemonic : String)
  deriving DecidableEq, Repr

/-- A sparse map from numbers: the first entry with the key counts. -/
abbrev Map (α : Type) := List (Nat × α)

/-- The value at a key, or the default. -/
def Map.get {α : Type} (m : Map α) (dflt : α) (k : Nat) : α :=
  match m with
  | [] => dflt
  | (k', a) :: rest => if k' = k then a else Map.get rest dflt k

/-- The value at a key, if listed. -/
def Map.find {α : Type} (m : Map α) (k : Nat) : Option α :=
  match m with
  | [] => none
  | (k', a) :: rest => if k' = k then some a else Map.find rest k

/-- Sets a key, keeping the keys ascending. -/
def Map.set {α : Type} (m : Map α) (k : Nat) (a : α) : Map α :=
  match m with
  | [] => [(k, a)]
  | (k', a') :: rest =>
    if k' = k then (k, a) :: rest
    else if k < k' then (k, a) :: (k', a') :: rest
    else (k', a') :: Map.set rest k a

/-- Removes a key. -/
def Map.erase {α : Type} (m : Map α) (k : Nat) : Map α := m.filter (fun e => e.1 != k)

/-- What an occupied strand is waiting for (Table 7.4). -/
inductive Wait | none | memory | message
  deriving DecidableEq, Repr, Inhabited

/-- A distribution register: lane image and lineage (R219). -/
structure DistReg where
  image   : BitVec 6144
  lineage : BitVec 16
  deriving DecidableEq, Repr

/-- A posted elect result (R170): the register it names and its value. -/
inductive PostedValue
  | done
  | g    (r : GReg) (x : Word)
  | pair (r : GReg) (lo hi : Word)
  | v    (r : VReg) (x : BitVec 1024)
  | m    (r : MReg) (x : BitVec 32)
  | d    (r : DReg) (x : DistReg)
  deriving DecidableEq, Repr

/-- An entry of a member's elect queue (R170): the ordinal of the elect instruction and its result. -/
structure Posted where
  n     : Nat
  value : PostedValue
  deriving DecidableEq, Repr

/-- An entry of a port die's address translation cache (R40). -/
structure AtcEntry where
  pasid : BitVec 20
  ua    : Word
  ta    : Word
  r     : Bool
  w     : Bool
  deriving DecidableEq, Repr

/-- The generation counters of a unit that issues translated requests (R35): the requests of the current and of the previous
generation, and the number of the current one. -/
structure GenCount where
  now    : Nat
  before : Nat
  no     : Nat
  deriving DecidableEq, Repr

/-- Counters of a unit that has issued nothing. -/
def GenCount.zero : GenCount := { now := 0, before := 0, no := 0 }

/-- A request is issued with a translation (R35). -/
def GenCount.issue (g : GenCount) : GenCount := { g with now := g.now + 1 }

/-- A request of generation `n` completes or is aborted (R35). -/
def GenCount.done (g : GenCount) (n : Nat) : GenCount :=
  if n = g.no then { g with now := g.now - 1 } else { g with before := g.before - 1 }

/-- The current count becomes the previous one, and a new one starts at zero (R37). -/
def GenCount.advance (g : GenCount) : GenCount := { now := 0, before := g.before + g.now, no := g.no + 1 }

/-- An AtomicOp sent to the host (Table 3.9): the AMO, or none for a CAS, with its operand and what a CAS compares with. -/
structure HostAtomic where
  op  : Option AmoOp
  x   : Nat
  cmp : Nat
  deriving DecidableEq, Repr

/-- An access to the host in progress (R41, R89, R400, R415). Of its request in progress: the PASID it is tagged with, its addresses and
bytes, what it needs, the page requests made, whether a translation request or a page request of its own is outstanding, the fault that a
refused page request leaves, whether it has been sent, where to, the AtomicOp if it is one, the generations in which its core or engine and
the port die count it, and a failure that has come back. `index` says which piece of its access the request is. -/
structure HostAccess where
  pasid   : BitVec 20
  ua      : Word
  va      : Word
  n       : Nat
  write   : Bool
  read    : Bool
  tries   : Nat
  asked   : Bool
  paging  : Bool
  refused : Option (BitVec 8)
  sent    : Bool
  ta      : Nat
  amo     : Option HostAtomic
  gen     : Nat
  atcGen  : Nat
  answer  : Option Completion
  index   : Nat
  deriving DecidableEq, Repr

/-- How far an access of several pieces, which have no atomicity between them (R28, R106, R315), has come: what the pieces that are read have
brought, and how many are written. -/
structure Progress where
  got    : Map (List Byte)
  stored : Nat
  deriving DecidableEq, Repr

/-- An access that has not begun. -/
def Progress.none : Progress := { got := [], stored := 0 }

/-- A request a strand has made and waits for (an INVD, NBAR, MSWAP, MCMD, CALLR): not made, made, or answered. -/
inductive OpWait
  | idle
  | waiting
  | done (x : Word)
  deriving DecidableEq, Repr

/-- One slot of a core (R162 to R166, R240, R307 to R309). `sid` is the model's own serial number of the strand, by which an
engine knows whether the strand that awaits its token still occupies the slot (R368). -/
structure Slot where
  occupied : Bool
  sid      : Nat
  trapped  : Bool
  stopped  : Bool
  wait     : Wait
  g        : Vector Word 16
  tags     : BitVec 16
  pend     : BitVec 16
  pc       : Word
  entered  : Bool
  slotPos  : Nat
  status   : BitVec 32
  jb       : Word
  lnum     : BitVec 16
  member   : Bool
  asid     : BitVec 8
  pin      : Bool
  osc      : BitVec 16
  v        : Vector (BitVec 1024) 16
  m        : Vector (BitVec 32) 8
  d        : Vector DistReg 4
  dstat    : Word
  xstat    : Word
  xcause   : Word
  xvalue   : Word
  xpc      : Word
  xtgt     : Word
  reps     : Word
  repa     : Word
  block    : List Instr
  aheadN   : Nat
  captured : Bool
  repHold  : Bool
  electN   : Nat
  electQ   : List Posted
  lossI    : Word
  lossM    : Word
  lossG    : Word
  lossV    : Word
  traceI   : Word
  traceM   : Word
  traceG   : Word
  traceV   : Word
  slice    : Nat
  expired  : Bool
  switchAt : Option Nat
  sleep    : Option Nat
  host     : Option HostAccess
  prog     : Progress
  op       : OpWait
  yielded  : Nat
  kill     : Option Bool
  stopReq  : Bool
  swapWait : Bool
  restoring : Bool
  issuedInWindow : Bool
  deriving DecidableEq, Repr

/-- The 384-bit lane of eight points of value +0.0 and weight 0x1000 (R219, R326). -/
def releasedLane : BitVec 384 := BitVec.ofNat 384 (0x10001000100010001000100010001000 * 2 ^ 256)

/-- Sixteen copies of a lane, lane n at bit 384 n. -/
def lanesOf (lane : BitVec 384) : Nat → Nat
  | 0 => 0
  | n + 1 => lane.toNat + 2 ^ 384 * lanesOf lane n

/-- The state of a d register that a started strand and VREL find (R326). -/
def DistReg.released : DistReg := { image := BitVec.ofNat 6144 (lanesOf releasedLane 16), lineage := 0 }

/-- A slot without a strand, every register at its reset value (log 4, 5). -/
def Slot.vacant : Slot where
  occupied := false
  sid := 0
  trapped := false
  stopped := false
  wait := .none
  g := Vector.replicate 16 0
  tags := 0
  pend := 0
  pc := 0
  entered := true
  slotPos := 0
  status := 0
  jb := 0
  lnum := 0
  member := false
  asid := 0
  pin := false
  osc := 0
  v := Vector.replicate 16 0
  m := Vector.replicate 8 0
  d := Vector.replicate 4 DistReg.released
  dstat := 0
  xstat := 0
  xcause := 0
  xvalue := 0
  xpc := 0
  xtgt := 0
  reps := 0
  repa := 0
  block := []
  aheadN := 0
  captured := false
  repHold := false
  electN := 0
  electQ := []
  lossI := 0
  lossM := 0
  lossG := 0
  lossV := 0
  traceI := 0
  traceM := 0
  traceG := 0
  traceV := 0
  slice := 0
  expired := false
  switchAt := none
  sleep := none
  host := none
  prog := Progress.none
  op := .idle
  yielded := 0
  kill := none
  stopReq := false
  swapWait := false
  restoring := false
  issuedInWindow := false

/-- A record of the trap queue (Table 16.1): its two words. -/
structure TrapRecord where
  w0 : Word
  w1 : Word
  deriving DecidableEq, Repr

/-- Who a deferred completion of a barrier delivery, an armed action or a pushed record belongs to: the partition, the launch
(R414), and the address space (R417). -/
structure Owner where
  part   : Nat
  core   : Nat
  slot   : Nat
  sid    : Nat
  lnum   : BitVec 16
  member : Bool
  asid   : BitVec 8
  super  : Bool
  deriving DecidableEq, Repr

/-- An armed entry (R182, R264). -/
structure Armed where
  off    : Nat
  phase  : BitVec 12
  action : BitVec 2
  arg    : Word
  owner  : Owner
  deriving DecidableEq, Repr

/-- The state of an L1 or RDC line (Table 2.2). -/
inductive LineState | shared | exclusive | modified | updateOnly
  deriving DecidableEq, Repr

/-- A line of an L1 or of the RDC (R45, R58, R85, R147). `uo` marks an unregistered line of a UO page, whose bytes are held
here; the bytes of a coherent line are held at its home (log 8). `sharers` are the die-local L1s that the RDC tracks, at most four, and
`bcast` says that there may be others (R58); `way` is the way of an RDC line (R57). -/
structure CacheLine where
  state   : LineState
  uo      : Bool
  vtag    : BitVec 8
  valid   : BitVec 4
  dirty   : BitVec 4
  data    : BitVec 512
  op      : RedOp
  size    : Size
  touch   : BitVec 32
  part    : BitVec 512
  sharers : List Nat
  bcast   : Bool
  way     : Nat
  deriving DecidableEq, Repr

/-- A cached translation (R33): its tag and the leaf entry it was made from. -/
structure TlbEntry where
  asid  : BitVec 8
  part  : Nat
  page  : Nat
  log2  : Nat
  leaf  : BitVec 64
  deriving DecidableEq, Repr

/-- A pointer entry in a die's walk cache (R33): the address space and partition it was read for, its level, the part of the virtual
address that selects it, and the table it names. -/
structure PointerEntry where
  asid  : BitVec 8
  part  : Nat
  level : Nat
  page  : Nat
  table : Nat
  deriving DecidableEq, Repr

/-- A channel record of the tenon side (Table 5.5) or of the mortise side (Table 5.6), as read from the channel area; a field of the
other side is zero. The fields have the names of the tables; `next` and `cons` count sequences, `target` is a core, or a VCN when
`targetVcn`; `marks` are the joint marks of its elements (R295), `drops` the joints that it owes a drop (R133), `part` its partition. -/
structure ChanRec where
  side    : Side
  state   : RecState
  held    : Bool
  claimed : Bool
  number  : BitVec 24
  inc     : BitVec 32
  ldepth  : BitVec 4
  esize   : BitVec 3
  next    : BitVec 32
  ackd    : BitVec 32
  route   : Nat
  move    : BitVec 32
  tmove   : BitVec 32
  target  : Nat
  targetVcn : Bool
  ha      : Bool
  hp      : Bool
  hb      : Bool
  recv    : BitVec 32
  dn      : BitVec 32
  dnv     : Bool
  newt    : BitVec 32
  upp     : Bool
  upr     : BitVec 32
  upn     : BitVec 32
  fwdn    : BitVec 32
  bytes   : BitVec 32
  base    : BitVec 19
  cons    : BitVec 32
  pres    : BitVec 256
  marks   : BitVec 128
  endv    : Bool
  endseq  : BitVec 32
  endCarried : Bool
  tloc    : Nat
  tsent   : BitVec 32
  hn      : Bool
  df      : BitVec 32
  dnew    : BitVec 32
  dfin    : Bool
  dtm     : BitVec 32
  link    : BitVec 8
  drops   : List (List Byte)
  part    : Nat
  deriving DecidableEq, Repr

/-- A column of 64 weights as a load brings it (R340): its format, codes and eight scales. -/
structure LoadedColumn where
  fmt    : BitVec 4
  codes  : List Nat
  scales : List Nat
  deriving DecidableEq, Repr

/-- A plane of the truss (R337, R374): 64 x 128 cells of 16 bits, eight rows of 512 scales, the plane record, and the columns that a load
not yet finished has brought, which stand beside the old ones (R340). -/
structure Plane where
  cols   : Map LoadedColumn
  cells  : BitVec 131072
  scales : BitVec 65536
  wfmt   : BitVec 4
  width  : BitVec 2
  had    : Bool
  seed   : BitVec 64
  koff   : BitVec 16
  deriving DecidableEq, Repr

/-- A plane of zeros with WFMT BF16 (R337): the code of BF16 in Table 10.1 is 0x9. -/
def Plane.reset : Plane where
  cols := []
  cells := 0
  scales := 0
  wfmt := 9
  width := 0
  had := false
  seed := 0
  koff := 0

/-- Where a command's completion goes (R265, R264): a token register of the owner's strand, the completion word of a fired
command at a core's local-store offset, or of a dependence-table entry's copy. -/
inductive TokenDest
  | reg (r : GReg)
  | word (core off : Nat)
  deriving DecidableEq, Repr

/-- A truss command or an accepted swap (R338, R418); `instr` is the command, `issuer` the strand that waits for its token,
`home` the core whose supervisor serves it. -/
structure TrussCmd where
  instr   : Instr
  swap    : Bool
  stream  : Nat
  owner   : Owner
  token   : GReg
  started : Bool
  offset  : Nat
  susp    : Option (BitVec 8)
  ta      : BitVec 512
  tb      : BitVec 512
  remote  : Bool
  deriving DecidableEq, Repr

/-- A copy command (R265 to R271); `dtask` names the dependence-table entry a released image
retires (R291), 256 times its quad plus its number; `buf` holds a chunk that has been read and not yet written; `store` is the core whose local
store the command's own-store operands name, and `targets` the cores of a CPYM's, which a swap may have moved away from its strand (R360). -/
structure CopyCmd where
  index   : Nat
  instr   : Instr
  a       : Word
  b       : Word
  c       : Word
  owner   : Owner
  token   : TokenDest
  done    : Nat
  dropped : Bool
  susp    : Option (BitVec 8)
  quiesced : Bool
  dtask   : Option Nat
  waiting : Bool
  buf     : Option (List Byte)
  store   : Nat
  targets : List Nat
  deriving DecidableEq, Repr

/-- A feed subscription (R64 to R66, R275); `ringCore` holds the ring, `n` is the next tile. -/
structure FeedSub where
  index    : Nat
  inward   : Bool
  ringCore : Nat
  ring     : QReg
  desc     : BitVec 512
  tr       : Nat
  tc       : Nat
  first    : Nat
  count    : Nat
  n        : Nat
  owner    : Owner
  token    : GReg
  scope    : Scope
  unsub    : Bool
  susp     : Option (BitVec 8)
  deriving DecidableEq, Repr

/-- A dependence-table entry (R287 to R292). -/
inductive DepState | free | waiting | released | retired
  deriving DecidableEq, Repr

/-- A dependence-table entry (R287 to R292): `hold` awaits an armed release, `waits` are the entries it waits for. -/
structure DepEntry where
  state   : DepState
  order   : Nat
  image   : Bool
  off     : Nat
  hold    : Bool
  waits   : List Nat
  name    : Word
  rbase   : Nat
  rlen    : Nat
  wbase   : Nat
  wlen    : Nat
  x       : BitVec 8
  y       : BitVec 8
  scope   : Scope
  owner   : Owner
  deriving DecidableEq, Repr

/-- A context on its way or saved (R162, R164, Table 16.4): the strand's whole slot. -/
structure Migrant where
  slot  : Slot
  part  : Nat
  deriving DecidableEq, Repr

/-- What a strand in a context entry keeps hidden: its serial number, whether its PC has been entered (R202), and where it stands among the
delay slots of a transfer (R207), and how many instructions have run ahead of its block (R246). -/
structure Kept where
  entry   : Nat
  sid     : Nat
  entered : Bool
  slotPos : Nat
  ahead   : Nat
  deriving DecidableEq, Repr

/-- A core (R166 and the tables that INVENTORY.md lists). -/
structure Core where
  up       : Bool
  slots    : Map Slot
  cycle    : Word
  hasid    : BitVec 8
  xvec     : Word
  xsel     : BitVec 4
  inva     : Word
  raised   : Bool
  sliceLen : BitVec 32
  cost     : Nat
  histSel  : BitVec 5
  hist     : Map (BitVec 48)
  histSent : Map (BitVec 48)
  fper     : BitVec 5
  lslk     : Word
  dqt      : BitVec 32
  dqb      : BitVec 32
  spb      : Word
  popN     : BitVec 6
  batches  : Nat
  stealSib : Nat
  stealAt  : Nat
  deqWait  : List (BitVec 256)
  trapQ    : List TrapRecord
  held     : List TrapRecord
  inTrap   : Bool
  halted   : Bool
  seals    : Map Unit
  owed     : Map (List (List Byte))
  stubPart : Map Nat
  descs    : Map (BitVec 512)
  grants   : Map (BitVec 32 × BitVec 2)
  armed    : List Armed
  active   : Plane
  shadow   : Plane
  newPlane : Bool
  plate    : Map (BitVec 32)
  truss    : List TrussCmd
  l1tlb    : List TlbEntry
  gen      : GenCount
  trussGen : GenCount
  l1       : Map CacheLine
  icache   : Map (BitVec 256)
  vcn      : Option Nat
  framing  : Nat
  arrived  : Bool
  lateArr  : Bool
  arriving : Bool
  cooldown : Nat
  winOps   : Nat
  winBytes : Nat
  winClass : BitVec 2
  saving   : Option (BitVec 8)
  restVcn  : Option Nat
  restored : Option Nat
  frozen   : Bool
  ctxRestored : Bool
  kept     : List Kept
  lossDropped : BitVec 64
  traceLost : Nat
  deriving DecidableEq, Repr

/-- A core in reset (log 4, 5; FPER default 20 by R183; XSEL 0xF by Table 11.11). -/
def Core.off : Core where
  up := false
  slots := []
  cycle := 0
  hasid := 0
  xvec := 0
  xsel := 0xF
  inva := 0
  raised := false
  sliceLen := 0
  cost := 0
  histSel := 0
  hist := []
  histSent := []
  fper := 20
  lslk := 0
  dqt := 0
  dqb := 0
  spb := 0
  popN := 0
  batches := 0
  stealSib := 0
  stealAt := 0
  deqWait := []
  trapQ := []
  held := []
  inTrap := false
  halted := false
  seals := []
  owed := []
  stubPart := []
  descs := []
  grants := []
  armed := []
  active := Plane.reset
  shadow := Plane.reset
  newPlane := false
  plate := []
  truss := []
  l1tlb := []
  gen := GenCount.zero
  trussGen := GenCount.zero
  l1 := []
  icache := []
  vcn := none
  framing := 0
  arrived := false
  lateArr := false
  arriving := false
  cooldown := 0
  winOps := 0
  winBytes := 0
  winClass := 0
  saving := none
  restVcn := none
  restored := none
  frozen := false
  ctxRestored := false
  kept := []
  lossDropped := 0
  traceLost := 0

/-- A packet held at a router's injection (R185): its budget key, its flits and the occurrence it brings about. -/
structure Packet where
  key   : Nat
  flits : Nat
  event : Instr
  deriving DecidableEq, Repr

/-- A quad: its copy engine with its generation counters, dependence table, landing queue, second-level TLB, and its router's budgets, those of the next
window, counts and held packets (R265, R35, R287, R179, R33, R185); `gate` holds the requests that wait for a budget, in order of arrival: the
budget's key and the requester. -/
structure Quad where
  copyGen : GenCount
  copies  : List CopyCmd
  dep     : Map DepEntry
  stencil : Bool
  depNext : Nat
  landing : List Migrant
  l2tlb   : List TlbEntry
  budget  : Map (BitVec 20)
  budgetNew : Map (BitVec 20)
  flits   : Map Nat
  packets : List Packet
  gate    : List (Nat × Nat × Nat)
  traces  : List (Nat × List Byte)
  deriving DecidableEq, Repr

/-- A quad with nothing in it. -/
def Quad.empty : Quad where
  copyGen := GenCount.zero
  copies := []
  dep := []
  stencil := false
  depNext := 0
  landing := []
  l2tlb := []
  budget := []
  budgetNew := []
  flits := []
  packets := []
  gate := []
  traces := []

/-- The conflict fields of a granule's base tag (Table 6.4). -/
structure Ver where
  wt : BitVec 8
  rt : Vector (BitVec 8) 4
  ro : Bool
  deriving DecidableEq, Repr

/-- A granule tag that names no launch. -/
def Ver.none : Ver := { wt := 0, rt := Vector.replicate 4 0, ro := false }

/-- An L2 granule tag (Table 2.5): the granule by its physical number, the partition that last used it, the lines that hold data, the
sectors that differ from HBM, the conflict fields, and the pseudo-channel that holds the granule (R56, R59). The DIR field is `Die.dir`;
the LRU order of a set is the order of `Die.tags`, most recent first. The memory of the state is what the home serves; `hbm` keeps what HBM
itself still holds of the sectors that have been written since their last write-back. -/
structure L2Tag where
  gran    : Nat
  part    : Nat
  pres    : BitVec 32
  dirty   : BitVec 128
  hbm     : Map (BitVec 128)
  ver     : Ver
  channel : Nat
  deriving DecidableEq, Repr

/-- A shadow line: its written sectors and its 64 bytes (R148). -/
structure ShadowLine where
  dirty : BitVec 4
  data  : BitVec 512
  deriving DecidableEq, Repr

/-- A shadow way of a granule (R148): its writer tag and its lines. -/
structure ShadowWay where
  gran  : Nat
  tag   : BitVec 8
  part  : Nat
  lines : Map ShadowLine
  deriving DecidableEq, Repr

/-- A line that its home works on until the handler's list is complete (R72, R75): the sharers reported so far, whether the list is
complete and whether it has been acted on, and the requests that wait, in order of arrival: a strand's as 32 times its core plus its slot
with its serial number, any other's as its unit from 2^20 on. -/
structure ListRequest where
  line   : Nat
  ptrs   : List (BitVec 12)
  ready  : Bool
  acted  : Bool
  queue  : List (Nat × Nat)
  deriving DecidableEq, Repr

/-- A pair of cores in a placement swap (R359, R360): the phase reached, and the cycle of `p` at which prepare began. -/
structure SwapPair where
  p        : Nat
  q        : Nat
  since    : Nat
  exchange : Bool
  copied   : Bool
  deriving DecidableEq, Repr

/-- A die: region table, placement control words, framing phase, remote data cache, feeds, walk cache, the generation counters of its infeed,
its outfeed and its walker pool (R35), L2 tags and home state (Tables 2.5, 2.6, 15.1). -/
structure Die where
  regions  : Map (BitVec 256)
  placement : Map Word
  fphase   : BitVec 32
  rdc      : Map CacheLine
  feeds    : List FeedSub
  dir      : Map (BitVec 64)
  lists    : List ListRequest
  tags     : List L2Tag
  walkCache : List PointerEntry
  infeedGen : GenCount
  outfeedGen : GenCount
  walkGen  : GenCount
  shadows  : List ShadowWay
  swaps    : List SwapPair
  deriving DecidableEq, Repr

/-- A die at its start-up. -/
def Die.empty : Die where
  regions := []
  placement := []
  fphase := 0
  rdc := []
  feeds := []
  dir := []
  lists := []
  tags := []
  walkCache := []
  infeedGen := GenCount.zero
  outfeedGen := GenCount.zero
  walkGen := GenCount.zero
  shadows := []
  swaps := []

/-- A launch, queued, live or over but not yet reported (R141, R156, R160, R303 to R306). -/
inductive LaunchPhase | queued | live | over
  deriving DecidableEq, Repr

/-- A launch (R303 to R306, R348 to R351): its block's fields, ticket, join counter and outcome. `call` is, for a
host LAUNCH, the frame slot that a reply is owed to, and the frame's TAG. -/
structure Launch where
  phase    : LaunchPhase
  ticket   : Nat
  ticketed : Bool
  prio     : Nat
  block    : Word
  entry    : Word
  cores    : Nat
  slots    : Nat
  tolerant : Bool
  mflag    : Bool
  asid     : BitVec 8
  parent   : Option (BitVec 16)
  lnum     : BitVec 16
  numbered : Bool
  tag      : BitVec 8
  pending  : Nat
  failed   : BitVec 16
  outcome  : Option (BitVec 8)
  vcns     : List Nat
  placed   : Nat
  ops      : Nat
  bytes    : Nat
  call     : Option (Option Nat × Nat)
  deriving DecidableEq, Repr

/-- A shootdown in the sequencer (R38, R39): the INVD value, INVA, the strand that waits, and what remains to drain. -/
structure Shootdown where
  d     : Word
  inva  : Word
  core  : Nat
  slot  : Nat
  begun : Bool
  deriving DecidableEq, Repr

/-- An ATS Invalidate Request at a port die (R37, R39): the function it names, its PASID, if any, and its range; `begun` once its entries are
removed and the generation has moved. -/
structure Invalidation where
  fn    : Nat
  pasid : Option (BitVec 20)
  ua    : Word
  pages : Nat
  begun : Bool
  deriving DecidableEq, Repr

/-- A frame slot of a call area (R384): the frame and what is still owed to it. -/
structure Frame where
  bytes   : List Byte
  popped  : Bool
  replied : Bool
  peer    : Option Nat
  deriving DecidableEq, Repr

/-- One network barrier group instance (R263): arrivals expected, arrivals so far, phases completed. -/
structure NbarGroup where
  expect : Nat
  came   : Nat
  phases : BitVec 32
  waiters : List (Nat × Nat)
  deriving DecidableEq, Repr

/-- One logged choice of a replay log (R393): what was chosen, at which framing phase, by which core, and its value. -/
inductive ReplayKind | steal | landing | placement | atomicOrder | cycle
  deriving DecidableEq, Repr

/-- An entry of the replay log (R393). -/
structure ReplayEntry where
  kind   : ReplayKind
  fphase : BitVec 32
  core   : Nat
  value  : List Nat
  deriving DecidableEq, Repr

/-- Replay off, recording or forcing (R393). -/
inductive ReplayMode | off | record | replay
  deriving DecidableEq, Repr

/-- What a tenant save keeps beside the save region's bytes (log 7): the slots that its channel records have taken where it is restored,
the drops that they owe by their slots in the image, the core
they came from, what its strands keep hidden by context index (0 to 15 slots, 16 + e cache entries), the batches of
its spill segment, its waiting pushes, its saved copies, armed entries and truss commands in order, and the columns that unfinished loads have brought
to its planes. -/
structure SavedTenant where
  built   : List Nat
  owed    : Map (List (List Byte))
  from_   : Nat
  kept    : List Kept
  batches : Nat
  waits   : List (BitVec 256)
  copies  : List CopyCmd
  armed   : List Armed
  truss   : List TrussCmd
  active  : Map LoadedColumn
  shadow  : Map LoadedColumn
  deriving DecidableEq, Repr

/-- The lstore section of a program as its loader has placed it with a launch block (R192): the block's address and space, and the bytes
from offset 0 of a local store. -/
structure StoreImage where
  asid  : BitVec 8
  block : Word
  bytes : List Byte
  deriving DecidableEq, Repr

/-- An entry of a resize: the quad that leaves, the quad that enters, and whether the move has begun (R361). -/
abbrev ResizeStep := Option Nat × Option Nat × Bool

/-- A bounce window of a sealed partition (R390): its untranslated base, its pages, and the use counts of its pages. -/
structure BounceWindow where
  base  : Nat
  pages : Nat
  uses  : Map Nat
  deriving DecidableEq, Repr

/-- A partition (Table 1.7 and the rules INVENTORY.md lists). `sectors` holds, by the unit of a truss command, the 16-byte sectors that it has read
of its source in a local store, by their addresses (R347). -/
structure Part where
  exists_  : Bool
  quads    : List Nat
  vcnMap   : Map Nat
  sealed   : Bool
  created  : BitVec 56
  nextLnum : BitVec 16
  lastTag  : BitVec 8
  vst      : Map (BitVec 32)
  launches : List Launch
  nextTicket : BitVec 32
  shob     : Word
  shos     : Word
  spills   : List ShadowWay
  savb     : Word
  chdisc   : Word
  shoots   : List Shootdown
  revoked  : List (Nat × Nat)
  priStop  : Bool
  atc      : List AtcEntry
  engineHost : Map HostAccess
  engineProg : Map Progress
  sectors  : Map (Map (BitVec 128))
  calb     : Word
  frames   : Map Frame
  callQ    : List Nat
  trb      : Word
  trSize   : Word
  trOn     : Bool
  trPos    : Nat
  trl      : Word
  replay   : ReplayMode
  log      : List ReplayEntry
  replayWait : Option Nat
  replayCall : Option Nat
  nbars    : Map NbarGroup
  classes  : List (Word × BitVec 2)
  resize   : List ResizeStep
  session  : Nat
  bounceIn : List BounceWindow
  bounceOut : List BounceWindow
  emuAsked : List (BitVec 32)
  emub     : Word
  saved    : Map SavedTenant
  rdcWays  : Map (BitVec 16)
  images   : List StoreImage
  stoppedReplay : Bool
  deriving DecidableEq, Repr

/-- A partition that does not exist; one that is created starts from this (R118, R141, R152, R372). -/
def Part.none : Part where
  exists_ := false
  quads := []
  vcnMap := []
  sealed := false
  created := 0
  nextLnum := 0
  lastTag := 0
  vst := []
  launches := []
  nextTicket := 0
  shob := 0
  shos := 0
  spills := []
  savb := 0
  chdisc := 0
  shoots := []
  revoked := []
  priStop := false
  atc := []
  engineHost := []
  engineProg := []
  sectors := []
  calb := 0
  frames := []
  callQ := []
  trb := 0
  trSize := 0
  trOn := false
  trPos := 0
  trl := 0
  replay := .off
  log := []
  replayWait := Option.none
  replayCall := Option.none
  nbars := []
  classes := []
  resize := []
  session := 0
  bounceIn := []
  bounceOut := []
  emuAsked := []
  emub := 0
  saved := []
  rdcWays := []
  images := []
  stoppedReplay := false

/-- A PCI Express function (R382, R387, R389): 0 is PF0, n is VFn. `host` are its writes that wait in HostResolve (R41, R385), by their PASID and
address; `owed` the replies of the port die that wait for the host, each with its frame (R383), and `records` the fault records that do. -/
structure Fn where
  enabled   : Bool
  port      : Nat
  buffer    : Map Byte
  discarded : BitVec 32
  areaSet   : Bool
  areaBase  : Word
  areaN     : Nat
  areaVec   : BitVec 16
  areaPasid : BitVec 32
  index     : Nat
  seq       : BitVec 16
  msix      : List (BitVec 16)
  invalDone : List Invalidation
  host      : Map HostAccess
  owed      : List (List Byte × List Byte)
  returned  : List (List Byte)
  records   : List (List Byte)
  calls     : Map Frame
  callQ     : List Nat
  deriving DecidableEq, Repr

/-- A function that is not enabled. -/
def Fn.off : Fn where
  enabled := false
  port := 0
  buffer := []
  discarded := 0
  areaSet := false
  areaBase := 0
  areaN := 0
  areaVec := 0
  areaPasid := 0
  index := 0
  seq := 0
  msix := []
  invalDone := []
  host := []
  owed := []
  returned := []
  records := []
  calls := []
  callQ := []

/-- What the operator's firmware has ordered and the machine has not yet taken up (R29 to R32, R56, R57, R184, R263, R353, R391): an entry of a die's
region table, a budget of a router, the RDC ways of a partition on a die, an address-space table entry, a partition with its quads in order,
its call area, the base of its version-state table, the base of its emulation area, the pod node of the package, the placement control word of a partition on a die, the arrivals that a network group expects. -/
inductive OperatorChange
  | region (die index : Nat) (entry : BitVec 256)
  | budget (quad key : Nat) (flits : BitVec 20)
  | rdcWays (part die : Nat) (ways : BitVec 16)
  | space (asid : BitVec 8) (entry : BitVec 128)
  | partition (part : Nat) (quads : List Nat) (sealed : Bool)
  | callArea (part : Nat) (pa : Word)
  | vstb (part : Nat) (base : Word)
  | emub (part : Nat) (base : Word)
  | node (n : Nat)
  | control (die part : Nat) (w : Word)
  | group (part key expect : Nat)
  deriving DecidableEq, Repr

/-- A purlin write to a peer and the completion flit that follows it (R388): the link that carries it, of
18, nine on each port die (R1), the peer's address and the bytes. -/
structure PurlinWrite where
  link  : Nat
  addr  : Word
  bytes : List Byte
  deriving DecidableEq, Repr

/-- A message, end marker or acknowledgement on its way, as FENCE c follows it (Table 4.4): the serial number of the strand that sent
it, its channel, whether it is an acknowledgement, and its sequence or CONS. `landed` says that the element stands in a buffer where the
mortise resides; `held` that a tenon stub holds the acknowledgement. -/
structure Transit where
  sid    : Nat
  part   : Nat
  number : BitVec 24
  inc    : BitVec 32
  ack    : Bool
  value  : BitVec 32
  landed : Bool
  held   : Bool
  deriving DecidableEq, Repr

/-- A port die's address translation cache as a unit (R35, R39): its generation counters, and the host invalidations in order of arrival. The
entries are held with their partitions. -/
structure Port where
  atcGen : GenCount
  invals : List Invalidation
  deriving DecidableEq, Repr

/-- A port that has issued nothing. -/
def Port.empty : Port := { atcGen := GenCount.zero, invals := [] }

/-- The package: the address-space table (Table 1.3) and its base, the version-state tables' bases (R143), start-up (R391), the
pod node (R388). -/
structure Sys where
  ast       : Map (BitVec 128)
  astb      : Word
  vstb      : Map Word
  powered   : Bool
  stage     : Nat
  failed    : Bool
  corrected : Word
  firmware  : Bool
  ports     : Map Port
  node      : Nat
  operator  : List OperatorChange
  purlin    : List PurlinWrite
  transit   : List Transit
  deriving DecidableEq, Repr

/-- The state before power (log 4, 5). -/
def Sys.off : Sys where
  ast := []
  astb := 0
  vstb := []
  powered := false
  stage := 0
  failed := false
  corrected := 0
  firmware := false
  ports := []
  node := 0
  operator := []
  purlin := []
  transit := []

/-- The whole machine. `core` and `slot` name the strand that the step issues for; `events` are the
occurrences that are due; `tick` counts steps and `serial` names strands. Memory is one list of bytes: physical memory at its address, the local store of core c at
2^52 + 2^19 c, host memory at 2^64 + its translated address. -/
structure State where
  tick   : Nat
  serial : Nat
  core   : Nat
  slot   : Nat
  events : List Instr
  mem    : List Host.Cell
  cores  : Map Core
  quads  : Map Quad
  dies   : Map Die
  parts  : Map Part
  fns    : Map Fn
  sys    : Sys
  deriving DecidableEq, Repr

/-- The machine right after reset: power has not reached the dies' start-up, nothing runs (R391, log 4). -/
def State.reset : State where
  tick := 0
  serial := 1
  core := 0
  slot := 0
  events := []
  mem := []
  cores := []
  quads := []
  dies := []
  parts := []
  fns := []
  sys := Sys.off

end Sys2Proof.Machine
end

