-- ==== Sys2Proof/Machine/Memory.lean ====
section
/-! DEFINITION. Memory as one canonical list of bytes: addresses strictly rising, no entry equal to what an unlisted address
reads as, which is zero (log 3). Wider accesses are built from bytes here, little-endian (R8). -/

namespace Sys2Proof.Machine

/-- What an address that is not listed reads as (log 3). -/
def Memory.unlisted : Byte := 0

/-- The byte at an address. -/
def Memory.read (m : List Host.Cell) (k : Nat) : Byte :=
  match m with
  | [] => Memory.unlisted
  | (k', b) :: rest => if k' = k then b else Memory.read rest k

/-- Writes one byte, keeping the canonical form. -/
def Memory.write (m : List Host.Cell) (k : Nat) (b : Byte) : List Host.Cell :=
  match m with
  | [] => if b = Memory.unlisted then [] else [(k, b)]
  | (k', b') :: rest =>
    if k' = k then (if b = Memory.unlisted then rest else (k, b) :: rest)
    else if k < k' then (if b = Memory.unlisted then (k', b') :: rest else (k, b) :: (k', b') :: rest)
    else (k', b') :: Memory.write rest k b

/-- The canonical form, given a bound that every address must exceed. -/
def Memory.wfAbove (lo : Option Nat) (m : List Host.Cell) : Bool :=
  match m with
  | [] => true
  | (k, b) :: rest =>
    (match lo with
     | none => true
     | some l => decide (l < k)) && decide (b ≠ Memory.unlisted) && Memory.wfAbove (some k) rest

/-- The canonical form: addresses strictly rising, no listed byte equal to the unlisted one. -/
def Memory.wf (m : List Host.Cell) : Bool := Memory.wfAbove none m

/-- The `n` bytes from an address upward. -/
def Memory.readList (m : List Host.Cell) (k : Nat) : (n : Nat) → List Byte
  | 0 => []
  | n + 1 => Memory.read m k :: Memory.readList m (k + 1) n

/-- Writes bytes from an address upward. -/
def Memory.writeList (m : List Host.Cell) (k : Nat) : List Byte → List Host.Cell
  | [] => m
  | b :: rest => Memory.writeList (Memory.write m k b) (k + 1) rest

/-- The key of a local-store byte of core `c` (R48). -/
def lsKey (c off : Nat) : Nat := 2 ^ 52 + c * 2 ^ 19 + off

/-- The key of a byte of host memory at a translated address (R40). -/
def hostKey (ta : Nat) : Nat := 2 ^ 64 + ta

/-- A little-endian value of `n` bytes. -/
def State.load (s : State) (k n : Nat) : Nat := ofBytes (Memory.readList s.mem k n)

/-- Stores `n` bytes of a value, little-endian. -/
def State.store (s : State) (k n x : Nat) : State := { s with mem := Memory.writeList s.mem k (toBytes n x) }

/-- Stores bytes. -/
def State.storeBytes (s : State) (k : Nat) (bs : List Byte) : State := { s with mem := Memory.writeList s.mem k bs }

end Sys2Proof.Machine
end

