-- ==== Sys2Proof/Machine/Ops.lean ====
section
/-! DEFINITION. The named operations every meaning is built from: access to cores, slots and registers, taking a trap and
returning from it (R362 to R365, R238), the move to the next instruction (R206), the elect step (R170), and the ways an
instruction issues, waits or traps. -/

namespace Sys2Proof.Machine

/-! ### Access to the parts of the state -/

/-- A core of the package by its physical number (R30). -/
def State.coreAt (s : State) (c : Nat) : Core := s.cores.get Core.off c

/-- Replaces a core. -/
def State.setCore (s : State) (c : Nat) (x : Core) : State := { s with cores := s.cores.set c x }

/-- Changes a core. -/
def State.modCore (s : State) (c : Nat) (f : Core → Core) : State := s.setCore c (f (s.coreAt c))

/-- A slot of a core. -/
def State.slotAt (s : State) (c k : Nat) : Slot := (s.coreAt c).slots.get Slot.vacant k

/-- Replaces a slot. -/
def State.setSlot (s : State) (c k : Nat) (x : Slot) : State :=
  s.modCore c fun co => { co with slots := co.slots.set k x }

/-- Changes a slot. -/
def State.modSlot (s : State) (c k : Nat) (f : Slot → Slot) : State := s.setSlot c k (f (s.slotAt c k))

/-- A quad by its number: core / 4 (R30). -/
def State.quadAt (s : State) (q : Nat) : Quad := s.quads.get Quad.empty q

/-- Changes a quad. -/
def State.modQuad (s : State) (q : Nat) (f : Quad → Quad) : State :=
  { s with quads := s.quads.set q (f (s.quadAt q)) }

/-- A die. -/
def State.dieAt (s : State) (d : Nat) : Die := s.dies.get Die.empty d

/-- Changes a die. -/
def State.modDie (s : State) (d : Nat) (f : Die → Die) : State := { s with dies := s.dies.set d (f (s.dieAt d)) }

/-- A partition. -/
def State.partAt (s : State) (p : Nat) : Part := s.parts.get Part.none p

/-- Changes a partition. -/
def State.modPart (s : State) (p : Nat) (f : Part → Part) : State := { s with parts := s.parts.set p (f (s.partAt p)) }

/-- A PCI Express function: 0 is PF0, n is VFn. -/
def State.fnAt (s : State) (f : Nat) : Fn := s.fns.get Fn.off f

/-- Changes a function. -/
def State.modFn (s : State) (f : Nat) (g : Fn → Fn) : State := { s with fns := s.fns.set f (g (s.fnAt f)) }

/-- The slot of the strand that issues. -/
def State.cur (s : State) : Slot := s.slotAt s.core s.slot

/-- Changes the slot of the strand that issues. -/
def State.modCur (s : State) (f : Slot → Slot) : State := s.modSlot s.core s.slot f

/-- Adds a due occurrence. -/
def State.post (s : State) (e : Instr) : State := { s with events := s.events ++ [e] }

/-- No partition. -/
def noPart : Nat := 32

/-- The partition that owns a quad, if any (R29). -/
def partOfQuad (ps : Map Part) (q : Nat) : Nat :=
  match ps with
  | [] => noPart
  | (p, x) :: rest => if x.exists_ && x.quads.contains q then p else partOfQuad rest q

/-- The partition of a core (R29). -/
def State.partOf (s : State) (c : Nat) : Nat := partOfQuad s.parts (c / 4)

/-- The partition of the strand that issues. -/
def State.myPart (s : State) : Nat := s.partOf s.core

/-- The core that holds a VCN of a partition (R26, R30). -/
def State.vcnCore (s : State) (p v : Nat) : Option Nat := (s.partAt p).vcnMap.find v

/-- The VCN of a core: the tenant's number it holds (R30). -/
def State.vcnOf (s : State) (c : Nat) : Nat := ((s.coreAt c).vcn).getD 0

/-- The root core of a partition holds VCN 0 (R31). -/
def State.rootCore (s : State) (p : Nat) : Nat := (s.vcnCore p 0).getD 0

/-! ### Status word fields (Table 7.2) -/

/-- DS. -/
def Slot.ds (x : Slot) : Nat := field x.status 2 2
/-- G. -/
def Slot.isGang (x : Slot) : Bool := bit x.status 15
/-- NB. -/
def Slot.isNb (x : Slot) : Bool := bit x.status 14
/-- M. -/
def Slot.isMig (x : Slot) : Bool := bit x.status 13
/-- A. -/
def Slot.anchored (x : Slot) : Bool := bit x.status 0
/-- LIVE. -/
def Slot.live (x : Slot) : BitVec 4 := BitVec.ofNat 4 (field x.status 16 4)
/-- RM. -/
def Slot.rm (x : Slot) : Nat := field x.status 9 3
/-- Sets DS. -/
def Slot.setDs (x : Slot) (n : Nat) : Slot := { x with status := setField x.status 2 2 n }
/-- Sets A (R169). -/
def Slot.anchor (x : Slot) : Slot := { x with status := setBit x.status 0 true }
/-- Accumulates FLAGS: invalid, divide-by-zero, overflow, underflow, inexact at [8:4] (R163). -/
def Slot.orFlags (x : Slot) (f : BitVec 5) : Slot :=
  { x with status := setField x.status 4 5 (field x.status 4 5 ||| f.toNat) }
/-- Whether a REP block is in progress: REPS.V, but not while the supervisor slot handles a trap that the block took (R247). -/
def Slot.inRep (x : Slot) : Bool := bit x.reps 63 && ! x.repHold

/-- Whether a request of the strand is on its way to the host. -/
def Slot.inHost (x : Slot) : Bool :=
  match x.host with
  | some h => h.sent
  | none => false

/-- The slot after its strand has gone, or before a new one: what belongs to the slot is kept (Table 11.8). -/
def Slot.fresh (x : Slot) : Slot :=
  { Slot.vacant with
    lossI := x.lossI, lossM := x.lossM, lossG := x.lossG, lossV := x.lossV
    traceI := x.traceI, traceM := x.traceM, traceG := x.traceG, traceV := x.traceV
    issuedInWindow := x.issuedInWindow }

/-! ### Requests in flight and host invalidations (R35 to R39) -/

/-- Whether two ranges of pages meet. -/
def pagesMeet (a n b m : Nat) : Bool := decide (a < b + m ∧ b < a + n)

/-- Whether a cached host translation overlaps a range of pages (R37). -/
def AtcEntry.overlaps (e : AtcEntry) (pasid : BitVec 20) (ua : Word) (pages : Nat) : Bool :=
  e.pasid == pasid && pagesMeet (e.ua.toNat / 4096) 1 (ua.toNat / 4096) pages

/-- The function of a partition: VFn is partition n - 1, and PF0 stands for no partition (Table 7.3). -/
def partFn (p : Nat) : Nat := if p = noPart then 0 else p + 1

/-- A port die's address translation cache. -/
def State.portAt (s : State) (k : Nat) : Port := s.sys.ports.get Port.empty k

/-- Changes a port die's address translation cache. -/
def State.modPort (s : State) (k : Nat) (f : Port → Port) : State :=
  { s with sys := { s.sys with ports := s.sys.ports.set k (f (s.portAt k)) } }

/-- The port that carries a partition's host traffic (R389). -/
def State.portOf (s : State) (part : Nat) : Nat := (s.fnAt (partFn part)).port

/-- The matching entries of every function of a port leave its address translation cache (R37). -/
def State.dropTranslations (s : State) (k : Nat) (v : Invalidation) : State :=
  match v.pasid with
  | none => s
  | some id =>
    { s with parts := s.parts.map fun (p : Nat × Part) =>
        (p.1, if s.portOf p.1 = k then { p.2 with atc := p.2.atc.filter fun e => ! e.overlaps id v.ua v.pages } else p.2) }

/-- A host invalidation at a port begins: the matching entries leave, and the generation moves (R37). -/
def State.beginInvalidation (s : State) (k : Nat) (v : Invalidation) (rest : List Invalidation) : State :=
  (s.dropTranslations k v).modPort k fun p => { atcGen := p.atcGen.advance, invals := { v with begun := true } :: rest }

/-- The host invalidations of a port run one at a time in arrival order: one whose requests of the previous generation have all completed is
answered by an Invalidation Completion, and the next begins (R37, R39). -/
def State.runInvalidations (s : State) (k : Nat) : (fuel : Nat) → State
  | 0 => s
  | fuel + 1 =>
    match (s.portAt k).invals with
    | [] => s
    | v :: rest =>
      let s := if v.begun then s else s.beginInvalidation k v rest
      if (s.portAt k).atcGen.before ≠ 0 then s
      else
        let s := s.modFn v.fn fun f => { f with invalDone := f.invalDone ++ [{ v with begun := true }] }
        (s.modPort k fun p => { p with invals := rest }).runInvalidations k fuel

/-- Runs the host invalidations of a port as far as they go. -/
def State.settleInvalidations (s : State) (k : Nat) : State := s.runInvalidations k ((s.portAt k).invals.length + 1)

/-- Commands of the trusses have the units from here on, eight to a core; those below are copies, 65,536 to a quad. -/
def trussUnit : Nat := 2 ^ 40

/-- Feeds have the units from here on, 65,536 to a die. -/
def feedUnit : Nat := 2 ^ 41

/-- Changes the generation counters of the unit that issues requests: a core, its quad's copy engine, or its truss (R35). A feed sends none to
the host, and the port die alone counts those of a call. -/
def State.modGen (s : State) (engine : Bool) (unit core : Nat) (f : GenCount → GenCount) : State :=
  if ! engine then s.modCore core fun c => { c with gen := f c.gen }
  else if unit < trussUnit then s.modQuad (unit / 65536) fun q => { q with copyGen := f q.copyGen }
  else if unit < feedUnit then s.modCore ((unit - trussUnit) / 8) fun c => { c with trussGen := f c.trussGen }
  else s

/-- A request that had been sent to the host is uncounted by its unit and by the port die: it has been answered, or its access is aborted
(R35, R89). -/
def State.uncountHost (s : State) (engine : Bool) (unit core part : Nat) (h : HostAccess) : State :=
  if h.sent ∧ h.answer.isNone then
    ((s.modGen engine unit core fun g => g.done h.gen).modPort (s.portOf part) fun p =>
      { p with atcGen := p.atcGen.done h.atcGen }).settleInvalidations (s.portOf part)
  else s

/-- A strand's access to the host ends: what is in flight is uncounted, and the slot holds none. -/
def State.dropHost (s : State) (c k : Nat) : State :=
  match (s.slotAt c k).host with
  | some h => (s.uncountHost false 0 c (s.partOf c) h).modSlot c k fun x => { x with host := none }
  | none => s

/-- A command's access ends in the same way, however far it has come. -/
def State.dropEngineHost (s : State) (part unit : Nat) : State :=
  let s := if ((s.partAt part).engineProg.find unit).isSome then
      s.modPart part fun p => { p with engineProg := Map.erase p.engineProg unit }
    else s
  match (s.partAt part).engineHost.find unit with
  | some h => (s.uncountHost true unit 0 part h).modPart part fun p => { p with engineHost := Map.erase p.engineHost unit }
  | none => s

/-! ### HostResolve (R40 to R42) -/

/-- The port die's cached translation of an untranslated address (R40). -/
def State.atcFind (s : State) (part : Nat) (pasid : BitVec 20) (ua : Word) : Option AtcEntry :=
  (s.partAt part).atc.find? fun e => e.pasid == pasid && e.ua.toNat / 4096 == ua.toNat / 4096

/-- Whether a revocation range covers an address (R42). -/
def State.isRevoked (s : State) (part : Nat) (ua : Word) : Bool :=
  (s.partAt part).revoked.any fun r => decide (r.1 ≤ ua.toNat ∧ ua.toNat < r.1 + r.2 * 4096)

/-- A request to the host as it begins. -/
def HostAccess.start (pasid : BitVec 20) (ua va : Word) (n index : Nat) (read write : Bool) : HostAccess where
  pasid := pasid
  ua := ua
  va := va
  n := n
  write := write
  read := read
  tries := 0
  asked := false
  paging := false
  refused := none
  sent := false
  ta := 0
  amo := none
  gen := 0
  atcGen := 0
  answer := none
  index := index

/-- The page requests of a partition's function that are outstanding. -/
def State.pagesOut (s : State) (part : Nat) : Nat :=
  let slots := s.cores.map fun (c : Nat × Core) =>
    if s.partOf c.1 = part then
      (c.2.slots.filter fun k => match k.2.host with
        | some h => h.paging
        | none => false).length
    else 0
  slots.foldl (· + ·) 0 + ((s.partAt part).engineHost.filter fun e => e.2.paging).length
    + ((s.fnAt (partFn part)).host.filter fun e => e.2.paging).length

/-- HostResolve's answer for one request (R41): the translated address, a fault, or a wait for the host, with what is outstanding. -/
inductive HostAnswer
  | ta (a : Nat)
  | fault (cause : BitVec 8)
  | wait (h : HostAccess)
  deriving DecidableEq, Repr

/-- One look of HostResolve (R41). A request whose own answer is outstanding waits for that answer, whatever the cache or the revocation table
hold meanwhile; page requests beyond the 64 of a function wait to be made (R389). -/
def State.hostLook (s : State) (part : Nat) (h : HostAccess) : HostAnswer :=
  if h.asked || h.paging then .wait h
  else
    match h.refused with
    | some c => .fault c
    | none =>
      match s.atcFind part h.pasid h.ua with
      | none => .wait { h with asked := true }
      | some e =>
        if (! h.read || e.r) && (! h.write || e.w) then .ta (e.ta.toNat / 4096 * 4096 + h.ua.toNat % 4096)
        else if s.isRevoked part h.ua then .fault 0x0D
        else if h.tries = 4 ∨ (s.partAt part).priStop then .fault 0x0C
        else if 64 ≤ s.pagesOut part then .wait h
        else .wait { h with paging := true }

/-- What an access to a host address by a function comes to: it goes to a translated address, is refused, or waits for the host. -/
inductive HostWrite
  | sendTo (s : State) (ta : Nat)
  | refused (s : State)
  | held (s : State)

/-- A function's access to the host, a write or a read: untranslated, or, with PV = 1, resolved in the frame's PASID by HostResolve (R385,
R41). -/
def State.hostReach (s : State) (f : Nat) (pasid : BitVec 32) (ua n : Nat) (write : Bool) : HostWrite :=
  if ! bit pasid 31 then .sendTo s ua
  else
    let id := BitVec.ofNat 20 (field pasid 0 20)
    let key := (field pasid 0 20 * 2 + write.toNat) * 2 ^ 64 + ua
    let h := ((s.fnAt f).host.find key).getD (HostAccess.start id (BitVec.ofNat 64 ua) (BitVec.ofNat 64 ua) n 0 (! write) write)
    let ended := s.modFn f fun x => { x with host := Map.erase x.host key }
    match s.hostLook (if f = 0 then noPart else f - 1) h with
    | .ta a => .sendTo ended a
    | .fault _ => .refused ended
    | .wait h => .held (s.modFn f fun x => { x with host := x.host.set key h })

/-- A function's host write. -/
def State.hostWrite (s : State) (f : Nat) (pasid : BitVec 32) (ua n : Nat) : HostWrite := s.hostReach f pasid ua n true

/-! ### The trap queue (R363, R364) -/

/-- Puts a new strand into a slot under a serial number of its own. -/
def State.seat (s : State) (c k : Nat) (x : Slot) : State :=
  { (s.setSlot c k { x with sid := s.serial, occupied := true }) with serial := s.serial + 1 }

/-- Starts the supervisor slot of a core at XVEC.ENTRY with every g register zero (R364, R365). ENTRY counts as entered: a block tail
there is ILLEGAL, since no instruction was fetched before it (R202; DEDUCED, log 67). -/
def State.startSupervisor (s : State) (c : Nat) : State :=
  s.seat c 15 { (s.slotAt c 15).fresh with pc := (s.coreAt c).xvec, entered := true, asid := (s.coreAt c).hasid }

/-- A record enters the trap queue of a core, or waits at its source while the queue holds 16 (R364); entering an empty queue
starts a vacant supervisor slot. -/
def State.pushTrap (s : State) (c : Nat) (r : TrapRecord) : State :=
  let co := s.coreAt c
  if co.trapQ.length < 16 ∧ co.held = [] then
    let s' := s.setCore c { co with trapQ := co.trapQ ++ [r] }
    if co.trapQ = [] ∧ (s.slotAt c 15).occupied = false ∧ co.halted = false then s'.startSupervisor c else s'
  else s.setCore c { co with held := co.held ++ [r] }

/-- Whether a record is the strand trap of a slot. -/
def TrapRecord.ofSlot (r : TrapRecord) (slot : Nat) : Bool := field r.w0 60 3 == 0 && field r.w0 16 4 == slot

/-- A strand trap that has found the queue full stays in its suspended slot (R364): it goes with the strand that leaves the slot. -/
def State.dropHeld (s : State) (core slot : Nat) : State :=
  if (s.coreAt core).held.any (·.ofSlot slot) then
    s.modCore core fun c => { c with held := c.held.filter fun r => ! r.ofSlot slot }
  else s

/-- Word 0 of a trap record (Table 16.1). -/
def trapWord0 (kind : Nat) (handle : BitVec 16) (slot : Nat) (mal : Bool) (cause : BitVec 8) : Word :=
  BitVec.ofNat 64 (2 ^ 63 + kind * 2 ^ 60 + handle.toNat * 2 ^ 32 + slot * 2 ^ 16 + mal.toNat * 256 + cause.toNat)

/-- Posts an event to the supervisor of a core (KIND 010, R363). -/
def State.postEvent (s : State) (c : Nat) (code : BitVec 8) (value : Word) : State :=
  s.pushTrap c { w0 := trapWord0 2 0 0 false code, w1 := value }

/-- Posts an engine suspension (KIND 001, R43, R267); a malformed entry's mark stands in MAL (R19). -/
def State.postSuspend (s : State) (c : Nat) (slot : Nat) (handle : BitVec 16) (cause : BitVec 8) (mal : Bool) (offset : Nat) : State :=
  s.pushTrap c { w0 := trapWord0 1 handle slot mal cause, w1 := BitVec.ofNat 64 offset }

/-! ### Router budgets (R185) -/

/-- The key of a budget entry or count of a router: partition and class, 0 demand, 1 copy and feed, 2 channel, 3 swap, 4 trace. -/
def budgetKey (part cls : Nat) : Nat := part * 8 + cls

/-- The flits that a core's router allows a key per window; 0 is no limit. -/
def State.budgetAt (s : State) (core key : Nat) : Nat := ((s.quadAt (core / 4)).budget.get 0 key).toNat

/-- Whether a core's router admits a packet: its count in this window is below the budget. -/
def State.admits (s : State) (core key : Nat) : Bool :=
  s.budgetAt core key == 0 || decide ((s.quadAt (core / 4)).flits.get 0 key < s.budgetAt core key)

/-- Counts the flits of a packet that a core's router injects; without a budget the count decides nothing. -/
def State.countFlits (s : State) (core key flits : Nat) : State :=
  if s.budgetAt core key = 0 then s
  else s.modQuad (core / 4) fun q => { q with flits := q.flits.set key (q.flits.get 0 key + flits) }

/-- Counts the packets of an exchange between the routers of two cores that passes with what it belongs to: `a` flits from the one, `b` from
the other (log 37). -/
def State.countPair (s : State) (core home a b : Nat) : State :=
  let key := budgetKey (partOfQuad s.parts (core / 4)) 0
  (s.countFlits core key a).countFlits (4 * home) key b

/-- A packet that brings about an occurrence: it is injected behind the packets held there before it, or is held itself. -/
def State.emit (s : State) (core key flits : Nat) (e : Instr) : State :=
  if s.budgetAt core key = 0 ∨ (s.admits core key ∧ ! (s.quadAt (core / 4)).packets.any fun p => p.key == key) then
    (s.countFlits core key flits).post e
  else s.modQuad (core / 4) fun q => { q with packets := q.packets ++ [{ key := key, flits := flits, event := e }] }

/-! ### Trace records (R392) -/

/-- Writes one 64-byte trace record of a core into its partition's ring, or counts it as dropped when the ring is full. A core's first
record that fits after a loss is preceded by a KIND 15 record with its count. TRL counts the partition's losses since the last KIND 15
record (Table 17.6). -/
def State.putTrace (s : State) (p core : Nat) (img : List Byte) : State :=
  let pt := s.partAt p
  let lost := (s.coreAt core).traceLost
  if ! pt.trOn then s
  else
    let slots := pt.trSize.toNat / 64
    let need := if lost = 0 then 1 else 2
    if slots < pt.trPos + need then
      (s.modCore core fun c => { c with traceLost := c.traceLost + 1 }).modPart p fun x => { x with trl := x.trl + 1 }
    else
      let s := if lost = 0 then s
        else
          ((s.storeBytes (pt.trb.toNat + 64 * pt.trPos)
            (((toBytes 1 15 ++ (img.take 24).drop 1 ++ toBytes 8 lost) ++ List.replicate 40 0).take 64)).modCore core
            fun c => { c with traceLost := 0 }).modPart p fun x => { x with trl := 0, trPos := x.trPos + 1 }
      let pos := (s.partAt p).trPos
      (s.storeBytes (pt.trb.toNat + 64 * pos) img).modPart p fun x => { x with trPos := x.trPos + 1 }

/-- A trace record, one flit of the trace class, leaves a core's router or is held there (R185). -/
def State.sendTrace (s : State) (p core : Nat) (img : List Byte) : State :=
  let key := budgetKey p 4
  if s.budgetAt core key = 0 ∨ (s.admits core key ∧ ! (s.quadAt (core / 4)).traces.any fun t => t.1 == p) then
    (s.countFlits core key 1).putTrace p (ofBytes ((img.drop 2).take 2)) img
  else s.modQuad (core / 4) fun q => { q with traces := q.traces ++ [(p, img)] }

/-- A source makes a trace record of a partition. -/
def State.trace (s : State) (p : Nat) (kind slot pcore : Nat) (pc : Word) (payload : List Byte) : State :=
  if ! (s.partAt p).trOn then s
  else
    s.sendTrace p pcore
      ((toBytes 1 kind ++ toBytes 1 slot ++ toBytes 2 pcore ++ toBytes 4 (s.dieAt (pcore / 256)).fphase.toNat
        ++ toBytes 8 pc.toNat ++ toBytes 8 (s.coreAt pcore).cycle.toNat ++ payload ++ List.replicate 40 0).take 64)

/-! ### Fault records (R387) -/

/-- Writes the records of a function that wait, in order, at the write index of its area, each followed by the area's MSI-X vector; the area is
resolved as REPLY is, under the PV and PASID of the FAULTAREA frame. A record that the host refuses is lost (log 23). -/
def State.sendRecords (s : State) (f : Nat) : List (List Byte) → State
  | [] => s.modFn f fun x => { x with records := [] }
  | img :: rest =>
    let x := s.fnAt f
    match s.hostWrite f x.areaPasid (x.areaBase.toNat + 64 * (x.index % 2 ^ x.areaN)) 64 with
    | .held t => t.modFn f fun x => { x with records := img :: rest }
    | .refused t => t.sendRecords f rest
    | .sendTo t ta =>
      ((t.storeBytes (hostKey ta) img).modFn f fun x =>
        { x with index := (x.index + 1) % 2 ^ x.areaN, msix := x.msix ++ [x.areaVec] }).sendRecords f rest

/-- Posts a fault record to a function's area (R387). SEQ advances whether or not an area is set. `body` holds bytes 4 to 63. -/
def State.postFault (s : State) (f : Nat) (type func : Nat) (body : List Byte) : State :=
  let x := s.fnAt f
  let s := s.modFn f fun x => { x with seq := x.seq + 1 }
  if ! x.areaSet then s
  else
    let img := (toBytes 1 type ++ toBytes 1 func ++ toBytes 2 x.seq.toNat ++ body ++ List.replicate 60 0).take 64
    s.sendRecords f (x.records ++ [img])

/-- The fault record of a partition access fault (type 1, Table 17.8), to PF0 with FUNC the partition's function (R32). -/
def State.postAccessFault (s : State) (p c : Nat) (write engine : Bool) (pa : Nat) (va : Word) : State :=
  s.postFault 0 1 (p + 1)
    (toBytes 4 (c + 2 ^ 16 * write.toNat + 2 ^ 17 * engine.toNat) ++ toBytes 8 pa ++ toBytes 8 va.toNat)

/-! ### Taking a trap and returning from one -/

/-- A trap of a user strand (R362): the saved registers are set, the strand is suspended, and a record goes to the supervisor
of its core. XTGT and REPS stand as they are (R207, R247). -/
def State.takeUserTrap (s : State) (c k : Nat) (cause : BitVec 8) (value : Word) (mal : Bool) : State :=
  let s := s.dropHost c k
  let x := s.slotAt c k
  let s := s.setSlot c k
    { x with
      xstat := zx64 x.status, xcause := BitVec.ofNat 64 (mal.toNat * 256 + cause.toNat), xvalue := value, xpc := x.pc
      trapped := true, wait := .none, sleep := none, host := none, prog := Progress.none, op := .idle }
  let s := s.pushTrap c { w0 := trapWord0 0 0 k mal cause, w1 := value }
  s.trace (s.partOf c) 3 k c x.pc (toBytes 8 (trapWord0 0 0 k mal cause).toNat ++ toBytes 8 value.toNat)

/-- A trap of the supervisor slot (R365): its record goes to the trace alone (R392); it continues at XVEC.ENTRY, which counts as entered (R202; DEDUCED, log 67), and a block in
progress holds until its TRET (R247); a second one before its TRET is a double fault, which stops the slot, posts a fault record to PF0,
and kills every user strand of the core with F = 1. -/
def State.takeSupervisorTrap (s : State) (c : Nat) (cause : BitVec 8) (value : Word) (mal : Bool) : State :=
  let s := s.dropHost c 15
  let co := s.coreAt c
  let x := s.slotAt c 15
  let s := s.trace (s.partOf c) 3 15 c x.pc (toBytes 8 (trapWord0 0 0 15 mal cause).toNat ++ toBytes 8 value.toNat)
  let s := s.setSlot c 15
    ({ x with
      xstat := zx64 x.status, xcause := BitVec.ofNat 64 (mal.toNat * 256 + cause.toNat), xvalue := value, xpc := x.pc
      wait := .none, sleep := none, host := none, prog := Progress.none, op := .idle, pc := co.xvec, entered := true, slotPos := 0
      repHold := x.repHold || bit x.reps 63 }.setDs 0)
  if co.inTrap then
    let s := s.modCore c fun co =>
      { co with
        halted := true
        slots := co.slots.map fun e => if e.1 < 15 ∧ e.2.occupied = true then (e.1, { e.2 with kill := some true }) else e }
    s.postFault 0 2 (partFn (s.partOf c)) (toBytes 4 c ++ toBytes 8 (mal.toNat * 256 + cause.toNat) ++ toBytes 8 value.toNat
      ++ toBytes 8 x.pc.toNat)
  else s.modCore c fun co => { co with inTrap := true }

/-- Taking a trap: of a user strand or of the supervisor slot. -/
def State.takeTrap (s : State) (c k : Nat) (cause : BitVec 8) (value : Word) (mal : Bool) : State :=
  if k = 15 then s.takeSupervisorTrap c cause value mal else s.takeUserTrap c k cause value mal

/-- Whether TRET finds the slot suspended by a trap (R238): the supervisor slot is, between its trap and its TRET. -/
def State.suspendedByTrap (s : State) (c k : Nat) : Bool :=
  if k = 15 then (s.coreAt c).inTrap else (s.slotAt c k).occupied && (s.slotAt c k).trapped

/-- The return from a trap (R238): pc from XPC; DS, RM, FLAGS, NB and M from XSTAT; A, G and LIVE keep their live values. The
slot rule is then checked only while DS is not 0 (R207). -/
def Slot.restoreTrap (x : Slot) : Slot :=
  let t := x.xstat
  let st := setField x.status 2 2 (field t 2 2)
  let st := setField st 9 3 (field t 9 3)
  let st := setField st 4 5 (field t 4 5)
  let st := setBit st 14 (bit t 14)
  let st := setBit st 13 (bit t 13)
  { x with pc := x.xpc, entered := true, status := st, trapped := false, slotPos := field t 2 2, wait := .none, repHold := false }

/-- TRET on slot `k` of core `c` (R238). -/
def State.returnFromTrap (s : State) (c k : Nat) : State :=
  if s.suspendedByTrap c k then
    let s := s.modSlot c k Slot.restoreTrap
    if k = 15 then s.modCore c fun co => { co with inTrap := false } else s
  else s

/-! ### How an instruction ends -/

/-- What keeps an instruction from completing: a trap, which discards what it did; a trap that keeps
what the walker or the router has done on the way (A bits, cached translations, fault records: R23, R32); a wait, which keeps the state given; or
`quit`, an end whose state is already complete. -/
inductive Stop
  | trap (cause : BitVec 8) (value : Word) (mal : Bool)
  | trapIn (s : State) (cause : BitVec 8) (value : Word) (mal : Bool)
  | wait (w : Wait) (s : State)
  | quit (s : State)

/-- A computation over the machine that may stop. -/
abbrev Exec (α : Type) := StateT State (Except Stop) α

/-- Cause codes (Table 16.2). -/
def Cause.illegal : BitVec 8 := 0x01
def Cause.length : BitVec 8 := 0x02
def Cause.delaySlot : BitVec 8 := 0x03
def Cause.privilege : BitVec 8 := 0x04
def Cause.elect : BitVec 8 := 0x05
def Cause.brk : BitVec 8 := 0x06
def Cause.syscall : BitVec 8 := 0x07
def Cause.align : BitVec 8 := 0x08
def Cause.notPresent : BitVec 8 := 0x09
def Cause.protect : BitVec 8 := 0x0A
def Cause.pageKind : BitVec 8 := 0x0B
def Cause.hostPage : BitVec 8 := 0x0C
def Cause.hostRevoked : BitVec 8 := 0x0D
def Cause.hostAtomic : BitVec 8 := 0x0E
def Cause.bus : BitVec 8 := 0x0F
def Cause.jointTag : BitVec 8 := 0x10
def Cause.jointClobber : BitVec 8 := 0x11
def Cause.jointStore : BitVec 8 := 0x12
def Cause.chanKind : BitVec 8 := 0x13
def Cause.chanSize : BitVec 8 := 0x14
def Cause.grant : BitVec 8 := 0x15
def Cause.anchor : BitVec 8 := 0x16
def Cause.ring : BitVec 8 := 0x17
def Cause.tensor : BitVec 8 := 0x18
def Cause.barrier : BitVec 8 := 0x19
def Cause.rep : BitVec 8 := 0x1A
def Cause.spill : BitVec 8 := 0x1B
def Cause.launch : BitVec 8 := 0x1C
/-- Event codes (Table 16.2). -/
def Cause.dirOverflow : BitVec 8 := 0x30
def Cause.preempt : BitVec 8 := 0x31
def Cause.debugStop : BitVec 8 := 0x32
def Cause.barrierOverrun : BitVec 8 := 0x33
def Cause.swap : BitVec 8 := 0x34

/-- Takes a trap; the instruction has no effect (R208). -/
def trap {α : Type} (cause : BitVec 8) (value : Word) (mal : Bool := false) : Exec α :=
  fun _ => .error (.trap cause value mal)

/-- Takes a trap, keeping what the walker or the router has done. -/
def trapIn {α : Type} (cause : BitVec 8) (value : Word) (mal : Bool := false) : Exec α :=
  fun s => .error (.trapIn s cause value mal)

/-- The strand is not ready; what the instruction has done so far stays. -/
def stall {α : Type} (w : Wait) : Exec α := fun s => .error (.wait w s)

/-- The instruction is complete and the strand does not advance past it. -/
def quit {α : Type} : Exec α := fun s => .error (.quit s)

/-- The slot of the issuing strand. -/
def cur : Exec Slot := fun s => .ok (s.cur, s)

/-- Changes the slot of the issuing strand. -/
def modCur (f : Slot → Slot) : Exec Unit := fun s => .ok ((), s.modCur f)

/-- Changes the state. -/
def upd (f : State → State) : Exec Unit := fun s => .ok ((), f s)

/-- The core of the issuing strand. -/
def myCore : Exec Core := fun s => .ok (s.coreAt s.core, s)

/-- A register field as an XVALUE (R119). -/
def regValue (r : GReg) : Word := r.zeroExtend 64

/-- The raw bits of a general register. -/
def rawG (r : GReg) : Exec Word := fun s => .ok (s.cur.g[r.toNat]!, s)

/-- A source register: one that holds a joint faults with JOINT_TAG (R223). -/
def srcG (r : GReg) : Exec Word := fun s =>
  if s.cur.tags.getLsbD r.toNat then .error (.trap Cause.jointTag (regValue r) false) else .ok (s.cur.g[r.toNat]!, s)

/-- A data register of a store or atomic: one that holds a joint faults with JOINT_STORE (R119). -/
def srcStore (r : GReg) : Exec Word := fun s =>
  if s.cur.tags.getLsbD r.toNat then .error (.trap Cause.jointStore (regValue r) false) else .ok (s.cur.g[r.toNat]!, s)

/-- A destination register must not hold a joint (R223). -/
def checkDest (r : GReg) : Exec Unit := fun s =>
  if s.cur.tags.getLsbD r.toNat then .error (.trap Cause.jointClobber (regValue r) false) else .ok ((), s)

/-- A general register written, its tag clear. -/
def Slot.setG (x : Slot) (r : GReg) (v : Word) : Slot :=
  { x with g := x.g.set! r.toNat v, tags := setBit x.tags r.toNat false }

/-- A general register written with a joint. -/
def Slot.setJoint (x : Slot) (r : GReg) (v : Word) : Slot :=
  { x with g := x.g.set! r.toNat v, tags := setBit x.tags r.toNat true }

/-- Writes a general register. -/
def writeG (r : GReg) (v : Word) : Exec Unit := modCur fun x => x.setG r v

/-- Waits until the registers named are written: a pending token register holds its readers and writers (R265). -/
def scoreboard (rs : List GReg) : Exec Unit := fun s =>
  if rs.any (fun r => s.cur.pend.getLsbD r.toNat) then .error (.wait .memory s) else .ok ((), s)

/-- The move to the next instruction of one that is no taken transfer (R206). -/
def Slot.advance (x : Slot) (len : Nat) : Slot :=
  let seq := x.pc + BitVec.ofNat 64 len
  let x := { x with slotPos := x.slotPos - 1 }
  if x.ds = 0 then { x with pc := seq, entered := false }
  else if x.ds = 1 then { x.setDs 0 with pc := x.xtgt, entered := true }
  else { x.setDs (x.ds - 1) with pc := seq, entered := false }

/-- The move past a control transfer, taken to a target or not (R206). Both open two delay slots (R207). -/
def Slot.transfer (x : Slot) (len : Nat) (target : Option Word) : Slot :=
  let x := { x with pc := x.pc + BitVec.ofNat 64 len, entered := false, slotPos := 2 }
  match target with
  | some t => { x.setDs 2 with xtgt := t }
  | none => x.setDs 0

/-- The delay-slot rule of an instruction that may not stand in a slot (R207). -/
def noDelaySlot : Exec Unit := fun s =>
  if s.cur.slotPos ≠ 0 ∨ s.cur.ds ≠ 0 then .error (.trap Cause.delaySlot s.cur.pc false) else .ok ((), s)

/-! ### REP: what the stream may do while a block is in progress (R246) -/

/-- The g registers a captured vector instruction reads (R245, R246): those its entry in Table 14.1 names
as sources. -/
def blockReads : List Instr → List GReg
  | [] => []
  | i :: rest =>
    (match i with
     | .vld _ _ ra _ => [ra]
     | .vst ra _ _ => [ra]
     | .vldg _ _ ra _ _ => [ra]
     | .vsts ra _ _ _ => [ra]
     | .vbc _ ra _ => [ra]
     | .vhad _ _ rb rc _ => [rb, rc]
     | .mset _ ra => [ra]
     | _ => []) ++ blockReads rest

/-- While a block is in progress, an instruction of the integer family, a NOP or a transfer may run ahead of it, at most 16
past the block and not over a register the block reads; every other instruction waits (R246), as all do until a block that a restore or a
supervisor's write has left is captured again. -/
def repGate (ahead : Bool) (dests : List GReg) : Exec Unit := fun s =>
  if s.cur.inRep ∧ ! (ahead ∧ s.cur.block ≠ [] ∧ s.cur.aheadN < 16 ∧ dests.all (fun r => ! (blockReads s.cur.block).contains r)) then
    .error (.wait .memory s)
  else .ok ((), s)

/-- An instruction that has issued ahead of a block counts among the 16 (R246). -/
def Slot.ranAhead (x : Slot) : Slot := if x.inRep then { x with aheadN := x.aheadN + 1 } else x

/-! ### The elect step (R170) -/

/-- The cores of the quad of a core. -/
def quadCores (c : Nat) : List Nat := [c / 4 * 4, c / 4 * 4 + 1, c / 4 * 4 + 2, c / 4 * 4 + 3]

/-- Writes a posted value into the same register (R170, R310). -/
def Slot.takePosted (x : Slot) (v : PostedValue) : Slot :=
  match v with
  | .done => x
  | .g r w => x.setG r w
  | .pair r lo hi => (x.setG r lo).setG (r + 1) hi
  | .v r w => { x.anchor with v := x.v.set! r.toNat w }
  | .m r w => { x.anchor with m := if r = 0 then x.m else x.m.set! r.toNat w }
  | .d r w => { x.anchor with d := x.d.set! r.toNat w }

/-- The g registers that a posted value writes. -/
def PostedValue.dests : PostedValue → List GReg
  | .g r _ => [r]
  | .pair r _ _ => [r, r + 1]
  | _ => []

/-- Posts a result to the other live members (R170). -/
def State.postElect (s : State) (n : Nat) (v : PostedValue) : State :=
  (quadCores s.core).foldl
    (fun t c =>
      if c ≠ s.core ∧ s.cur.live.getLsbD (c % 4) then
        t.modSlot c s.slot fun x => { x with electQ := x.electQ ++ [{ n := n, value := v }] }
      else t)
    s

/-- Whether a live member's elect queue is full. -/
def State.electFull (s : State) : Bool :=
  (quadCores s.core).any fun c =>
    s.cur.live.getLsbD (c % 4) && decide (4 ≤ (s.slotAt c s.slot).electQ.length)

/-- The lowest live member's position in the quad. -/
def lowestLive (l : BitVec 4) : Nat := if l.getLsbD 0 then 0 else if l.getLsbD 1 then 1 else if l.getLsbD 2 then 2 else 3

/-- The destinations named must hold no joint, in order (R119). -/
def checkDests : List GReg → Exec Unit
  | [] => pure ()
  | r :: rest => do
    checkDest r
    checkDests rest

/-- ElectStep: the lowest live member executes and posts its result; the others take it and have no other effect. A member whose
destination holds a joint faults with JOINT_CLOBBER, as for any instruction that would write it (R119; DEDUCED, log 68). -/
def electStep (body : Exec PostedValue) : Exec Unit := do
  let x ← cur
  if ! x.isGang then trap Cause.elect 0
  noDelaySlot
  match x.electQ.find? (fun p => p.n == x.electN) with
  | some p => do
    checkDests p.value.dests
    modCur fun x => { (x.takePosted p.value) with electN := x.electN + 1, electQ := x.electQ.filter fun q => q.n != x.electN }
  | none =>
    if lowestLive x.live ≠ (← get).core % 4 then stall .message
    if (← get).electFull then stall .message
    let v ← body
    upd fun s => s.postElect x.electN v
    modCur fun x => { x with electN := x.electN + 1 }

/-! ### The ways an instruction issues -/

/-- An instruction of `len` bytes that reads and writes the g registers named, may carry the elect prefix, and advances. -/
def issue (len : Nat) (e ahead : Bool) (regs dests : List GReg) (body : Exec PostedValue) : Exec Unit := do
  scoreboard (regs ++ dests)
  repGate ahead dests
  if e then electStep body else (do let _ ← body)
  modCur fun x => x.ranAhead.advance len

/-- An instruction that defines no elect form and advances. -/
def issuePlain (len : Nat) (regs dests : List GReg) (body : Exec Unit) : Exec Unit :=
  issue len false false regs dests (do body; return .done)

/-- A control transfer: `decide` computes its target, or none when it is not taken (R233). -/
def issueTransfer (len : Nat) (regs dests : List GReg) (target : Exec (Option Word)) : Exec Unit := do
  scoreboard (regs ++ dests)
  repGate true dests
  noDelaySlot
  let t ← target
  modCur fun x => x.ranAhead.transfer len t

/-- Marks what the strand waits for. -/
def State.setWait (s : State) (w : Wait) : State := s.modCur fun x => { x with wait := w }

/-- Runs the instruction of the issuing strand. A trap discards its effects and is taken; an instruction that runs ahead of a
REP block holds its trap until the block has ended (R247). -/
def runStrand (m : Exec Unit) (s : State) : Host.Outcome State Fault Refusal :=
  match m (s.setWait .none) with
  | .ok ((), t) => .next t
  | .error (.quit t) => .next t
  | .error (.wait w t) => .next (t.modSlot s.core s.slot fun x => { x with wait := w })
  | .error (.trap c v mal) => .next (s.takeTrap s.core s.slot c v mal)
  | .error (.trapIn t c v mal) => .next (t.takeTrap s.core s.slot c v mal)

/-- Runs an instruction of the stream that may run ahead of a block: its trap waits for the end of the block (R247). -/
def runAhead (m : Exec Unit) (s : State) : Host.Outcome State Fault Refusal :=
  match m (s.setWait .none) with
  | .ok ((), t) => .next t
  | .error (.quit t) => .next t
  | .error (.wait w t) => .next (t.modSlot s.core s.slot fun x => { x with wait := w })
  | .error (.trapIn t c v mal) => .next (if s.cur.inRep then s.setWait .memory else t.takeTrap s.core s.slot c v mal)
  | .error (.trap c v mal) => .next (if s.cur.inRep then s.setWait .memory else s.takeTrap s.core s.slot c v mal)

/-- Runs an occurrence that is no strand's instruction: one that is not enabled leaves the state as it is. -/
def runEvent (m : Exec Unit) (s : State) : Host.Outcome State Fault Refusal :=
  match m s with
  | .ok ((), t) => .next t
  | .error (.quit t) => .next t
  | .error (.wait _ t) => .next t
  | .error (.trap _ _ _) => .next s
  | .error (.trapIn t _ _ _) => .next t

end Sys2Proof.Machine
end

