-- ==== Sys2Proof/Machine/ChanArea.lean ====
section
/-! DEFINITION. The channel area of a local store (R122 to R125, R295): record slots, route table and joint marks, as bytes at
0x7_4000 to 0x7_7FFF. Where a field of a record stands in its slot the spec does not say: the fields follow one another from bit 0
in the order of their table (log 7). -/

namespace Sys2Proof.Machine

/-! ### Packed fields -/

/-- Fields of the given widths, from bit 0 upward. -/
def packFields : List (Nat × Nat) → Nat
  | [] => 0
  | (w, x) :: rest => x % 2 ^ w + 2 ^ w * packFields rest

/-- The fields of the given widths of a number, from bit 0 upward. -/
def unpackFields : (widths : List Nat) → (x : Nat) → List Nat
  | [], _ => []
  | w :: rest, x => x % 2 ^ w :: unpackFields rest (x / 2 ^ w)

/-! ### Records (Tables 5.5 and 5.6) -/

/-- A record with no field set. -/
def ChanRec.blank (side : Side) (number : BitVec 24) (inc : BitVec 32) : ChanRec where
  side := side
  state := .openS
  held := true
  claimed := false
  number := number
  inc := inc
  ldepth := 0
  esize := 0
  next := 0
  ackd := 0
  route := 0
  move := 0
  tmove := 0
  target := 0
  targetVcn := false
  ha := false
  hp := false
  hb := false
  recv := 0
  dn := 0
  dnv := false
  newt := 0
  upp := false
  upr := 0
  upn := 0
  fwdn := 0
  bytes := 0
  base := 0
  cons := 0
  pres := 0
  marks := 0
  endv := false
  endseq := 0
  endCarried := false
  tloc := 0
  tsent := 0
  hn := false
  df := 0
  dnew := 0
  dfin := false
  dtm := 0
  link := 0xFF
  drops := []
  part := 0

/-- Whether a record is a stub. -/
def ChanRec.isStub (r : ChanRec) : Bool := r.state == .tstub || r.state == .mstub

/-- The code of a record's state (Tables 5.5 and 5.6). -/
def recCode : RecState → Nat
  | .openS => 0
  | .tail => 1
  | .endSeen => 1
  | .broken => 2
  | .shut => 2
  | .tstub => 3
  | .mstub => 3

/-- The state of a code of a side; a code that the tables do not name is taken by its low two bits (log 7). -/
def recState (side : Side) (code : Nat) : RecState :=
  match side, code % 4 with
  | _, 0 => .openS
  | .tenon, 1 => .tail
  | .tenon, 2 => .broken
  | .tenon, _ => .tstub
  | .mortise, 1 => .endSeen
  | .mortise, 2 => .shut
  | .mortise, _ => .mstub

/-- The fields of a record in their order, with their widths. -/
def ChanRec.fields (r : ChanRec) : List (Nat × Nat) :=
  let head := [(4, recCode r.state), (1, r.held.toNat), (1, r.claimed.toNat), (24, r.number.toNat), (32, r.inc.toNat), (4, r.ldepth.toNat),
    (3, r.esize.toNat)]
  match r.side with
  | .tenon =>
    head ++ [(32, r.next.toNat), (32, r.ackd.toNat), (11, r.route), (32, r.move.toNat), (32, r.tmove.toNat), (11, r.target),
      (1, r.ha.toNat), (1, r.hp.toNat), (1, r.hb.toNat), (32, r.recv.toNat), (32, r.dn.toNat), (1, r.dnv.toNat), (32, r.newt.toNat),
      (1, r.upp.toNat), (32, r.upr.toNat), (32, r.upn.toNat), (32, r.fwdn.toNat), (32, r.bytes.toNat), (8, r.link.toNat),
      (1, r.targetVcn.toNat)]
  | .mortise =>
    head ++ [(19, r.base.toNat), (32, r.move.toNat), (11, r.target), (32, r.cons.toNat), (256, r.pres.toNat), (1, r.endv.toNat),
      (32, r.endseq.toNat), (11, r.tloc), (32, r.tmove.toNat), (1, r.hn.toNat), (32, r.tsent.toNat), (1, r.upp.toNat),
      (32, r.df.toNat), (32, r.dnew.toNat), (1, r.dfin.toNat), (32, r.dtm.toNat), (8, r.link.toNat), (1, r.targetVcn.toNat),
      (1, r.endCarried.toNat)]

/-- The record of a side that stands in the bits of its slot or slots. -/
def recOfBits (side : Side) (x : Nat) : ChanRec :=
  let b (n : Nat) : Bool := n == 1
  let w (n : Nat) : BitVec 32 := BitVec.ofNat 32 n
  match side with
  | .tenon =>
    match unpackFields ((ChanRec.blank .tenon 0 0).fields.map (·.1)) x with
    | [st, held, cl, num, inc, ld, es, next, ackd, route, move, tmove, target, ha, hp, hb, recv, dn, dnv, newt, upp, upr, upn, fwdn,
        bytes, link, tv] =>
      { ChanRec.blank .tenon (BitVec.ofNat 24 num) (w inc) with
        state := recState .tenon st, held := b held, claimed := b cl, ldepth := BitVec.ofNat 4 ld, esize := BitVec.ofNat 3 es
        next := w next, ackd := w ackd, route := route, move := w move, tmove := w tmove, target := target
        ha := b ha, hp := b hp, hb := b hb, recv := w recv, dn := w dn, dnv := b dnv, newt := w newt, upp := b upp, upr := w upr
        upn := w upn, fwdn := w fwdn, bytes := w bytes, link := BitVec.ofNat 8 link, targetVcn := b tv }
    | _ => ChanRec.blank .tenon 0 0
  | .mortise =>
    match unpackFields ((ChanRec.blank .mortise 0 0).fields.map (·.1)) x with
    | [st, held, cl, num, inc, ld, es, base, move, target, cons, pres, endv, endseq, tloc, tmove, hn, tsent, upp, df, dnew, dfin, dtm,
        link, tv, ec] =>
      { ChanRec.blank .mortise (BitVec.ofNat 24 num) (w inc) with
        state := recState .mortise st, held := b held, claimed := b cl, ldepth := BitVec.ofNat 4 ld, esize := BitVec.ofNat 3 es
        base := BitVec.ofNat 19 base, move := w move, target := target, cons := w cons, pres := BitVec.ofNat 256 pres, endv := b endv
        endseq := w endseq, tloc := tloc, tmove := w tmove, hn := b hn, tsent := w tsent, upp := b upp, df := w df, dnew := w dnew
        dfin := b dfin, dtm := w dtm, link := BitVec.ofNat 8 link, targetVcn := b tv, endCarried := b ec }
    | _ => ChanRec.blank .mortise 0 0

/-- The key of a record slot (Table 5.3). -/
def recKey (core slot : Nat) : Nat := lsKey core (0x74000 + 64 * slot)

/-- The bytes of a record of a side: one slot, or two (R122). -/
def recLen (side : Side) : Nat := if side = .tenon then 64 else 128

/-- The key of the joint marks of the record in slots 2k and 2k + 1 (R295). -/
def markKey (core slot : Nat) : Nat := lsKey core (0x77800 + 16 * (slot / 2))

/-- The record of a side in a slot, with its joint marks, the drops it owes and its partition: a stub's is the one it was left for. -/
def State.readRec (s : State) (core : Nat) (side : Side) (slot : Nat) : ChanRec :=
  let c := s.coreAt core
  let r := { recOfBits side (s.load (recKey core slot) (recLen side)) with part := c.stubPart.get (s.partOf core) slot }
  if side = .tenon then r
  else { r with marks := BitVec.ofNat 128 (s.load (markKey core slot) 16), drops := c.owed.get [] slot }

/-- Writes a record into its slot or slots, with its joint marks, the drops it owes and a stub's partition. -/
def State.setRec (s : State) (core slot : Nat) (r : ChanRec) : State :=
  let s := s.store (recKey core slot) (recLen r.side) (packFields r.fields)
  let s := if r.side = .tenon then s else s.store (markKey core slot) 16 r.marks.toNat
  s.modCore core fun c =>
    { c with
      owed := if r.drops.isEmpty then c.owed.erase slot else c.owed.set slot r.drops
      stubPart := if r.isStub then c.stubPart.set slot r.part else c.stubPart.erase slot }

/-! ### The route table (R123, Table 5.4) -/

/-- The code of a side in SIDE. -/
def sideCode : Side → Nat
  | .tenon => 1
  | .mortise => 2

/-- The key of an entry of the route table. -/
def routeKey (core i : Nat) : Nat := lsKey core (0x77000 + 8 * i)

/-- An entry of the route table. -/
def State.routeAt (s : State) (core i : Nat) : BitVec 64 := BitVec.ofNat 64 (s.load (routeKey core i) 8)

/-- SIDE of an entry: 0 empty, 1 tenon side, 2 mortise side, 3 deleted. -/
def routeSide (e : BitVec 64) : Nat := field e 38 2

/-- SLOT of an entry. -/
def routeSlot (e : BitVec 64) : Nat := field e 30 8

/-- Writes an entry for a channel and side. -/
def State.setRoute (s : State) (core i : Nat) (side : Side) (number : BitVec 24) (slot : Nat) : State :=
  s.store (routeKey core i) 8 (number.toNat * 2 ^ 40 + sideCode side * 2 ^ 38 + slot * 2 ^ 30)

/-- The entries in probe order from a channel's own. -/
def routePath (number : BitVec 24) : List Nat :=
  let h := field number 0 8 ^^^ field number 8 8 ^^^ field number 16 8
  (List.range 256).map fun i => (h + i) % 256

/-- The entry of a channel and side along a path; an empty entry ends the lookup. -/
def State.routeOn (s : State) (core : Nat) (side : Side) (number : BitVec 24) : List Nat → Option Nat
  | [] => none
  | i :: rest =>
    let e := s.routeAt core i
    if routeSide e = 0 then none
    else if routeSide e = sideCode side ∧ field e 40 24 = number.toNat then some i
    else s.routeOn core side number rest

/-- The entry of a channel and side. -/
def State.routeFind (s : State) (core : Nat) (side : Side) (number : BitVec 24) : Option Nat :=
  s.routeOn core side number (routePath number)

/-- The records from a slot along LINK, newest first. -/
def State.chainFrom (s : State) (core : Nat) (side : Side) : (fuel slot : Nat) → List (Nat × ChanRec)
  | 0, _ => []
  | n + 1, slot =>
    if 192 ≤ slot then []
    else
      let r := s.readRec core side slot
      (slot, r) :: s.chainFrom core side n r.link.toNat

/-- The chain of a channel and side on a core, newest first. -/
def State.chain (s : State) (core : Nat) (side : Side) (number : BitVec 24) : List (Nat × ChanRec) :=
  match s.routeFind core side number with
  | none => []
  | some i => s.chainFrom core side 192 (routeSlot (s.routeAt core i))

/-- The records that the route table of a core leads to, by slot. -/
def State.recsAt (s : State) (core : Nat) : Map ChanRec :=
  (List.range 256).foldl
    (fun m i =>
      let e := s.routeAt core i
      let add (side : Side) : Map ChanRec :=
        (s.chainFrom core side 192 (routeSlot e)).foldl (fun m (e : Nat × ChanRec) => m.set e.1 e.2) m
      if routeSide e = 1 then add .tenon else if routeSide e = 2 then add .mortise else m)
    []

/-- A record becomes the newest of its chain: it joins the chain of its entry, or takes the first empty or deleted entry on the
lookup path. -/
def State.putRec (s : State) (core slot : Nat) (r : ChanRec) : State :=
  match s.routeFind core r.side r.number with
  | some i =>
    (s.setRec core slot { r with link := BitVec.ofNat 8 (routeSlot (s.routeAt core i)) }).setRoute core i r.side r.number slot
  | none =>
    match (routePath r.number).find? fun i => [0, 3].contains (routeSide (s.routeAt core i)) with
    | some i => (s.setRec core slot { r with link := 0xFF }).setRoute core i r.side r.number slot
    | none => s

/-- A deleted entry whose successor in probe order is empty becomes empty, and so do those before it. -/
def State.cleanRoute (s : State) (core : Nat) : (fuel i : Nat) → State
  | 0, _ => s
  | n + 1, i =>
    if routeSide (s.routeAt core i) = 3 ∧ routeSide (s.routeAt core ((i + 1) % 256)) = 0 then
      (s.store (routeKey core i) 8 0).cleanRoute core n ((i + 255) % 256)
    else s

/-- Unlinks a record from its chain; an entry whose chain is empty becomes deleted. -/
def State.unlinkRec (s : State) (core slot : Nat) (r : ChanRec) : State :=
  match s.routeFind core r.side r.number with
  | none => s
  | some i =>
    if routeSlot (s.routeAt core i) = slot then
      if r.link.toNat < 192 then s.setRoute core i r.side r.number r.link.toNat
      else (s.store (routeKey core i) 8 (3 * 2 ^ 38)).cleanRoute core 256 i
    else
      match (s.chain core r.side r.number).find? fun e => e.2.link.toNat = slot with
      | some (k, x) => s.setRec core k { x with link := r.link }
      | none => s

/-- Changes a record in place. -/
def State.modRec (s : State) (core slot : Nat) (f : ChanRec → ChanRec) : State :=
  match (s.recsAt core).find slot with
  | some r => s.setRec core slot (f r)
  | none => s

/-- Removes a record. -/
def State.delRec (s : State) (core slot : Nat) : State :=
  match (s.recsAt core).find slot with
  | some r => s.unlinkRec core slot r
  | none => s

/-- The record slots that records use: two for a mortise-side record (R122). -/
def slotsUsed (m : Map ChanRec) : List Nat :=
  m.flatMap fun e => if e.2.side = .mortise then [e.1, e.1 + 1] else [e.1]

/-- The slot that a new record of a side takes. R122 asks for a free one, even for a mortise-side record; that it is the lowest is the
model's choice (DESIGN CHOICE, log 77). -/
def freeSlot (m : Map ChanRec) (side : Side) : Option Nat :=
  let used := slotsUsed m
  (List.range 192).find? fun k =>
    if side = .mortise then k % 2 == 0 && ! used.contains k && ! used.contains (k + 1) else ! used.contains k

/-! ### Sealed sectors (R298) -/

/-- Bytes of a channel element (R124). -/
def elemBytes (esize : BitVec 3) : Nat := 4 * 2 ^ esize.toNat

/-- The local-store offset of an element of the mortise buffer. -/
def ChanRec.elemOff (r : ChanRec) (k : Nat) : Nat := r.base.toNat + k * elemBytes r.esize

/-- The sectors that hold bytes of an element. -/
def ChanRec.elemSectors (r : ChanRec) (k : Nat) : List Nat :=
  let a := r.elemOff k
  (List.range ((a + elemBytes r.esize - 1) / 16 + 1 - a / 16)).map (· + a / 16)

/-- The sectors that hold bytes of a marked element of a record. -/
def ChanRec.sealedSectors (r : ChanRec) : List Nat :=
  if r.side = .mortise then (setBits r.marks).flatMap r.elemSectors else []

/-- Seals sectors of a core's local store. -/
def State.seal (s : State) (core : Nat) (secs : List Nat) : State :=
  s.modCore core fun c => { c with seals := secs.foldl (fun m k => m.set k ()) c.seals }

/-- The seals of sectors are cleared where no marked element of a record remains. -/
def State.unseal (s : State) (core : Nat) (secs : List Nat) : State :=
  if secs.isEmpty then s
  else
    let kept := (s.recsAt core).flatMap fun e => e.2.sealedSectors
    s.modCore core fun c => { c with seals := secs.foldl (fun m k => if kept.contains k then m else m.erase k) c.seals }

/-- The seals of a local store that has been written whole are made anew from the joint marks. -/
def State.rebuildSeals (s : State) (core : Nat) : State :=
  (s.modCore core fun c => { c with seals := [] }).seal core ((s.recsAt core).flatMap fun e => e.2.sealedSectors)

end Sys2Proof.Machine
end

