-- ==== Sys2Proof/Decode.lean ====
section
/-! DEFINITION. Decoding (R200 to R209): words to an instruction or a named refusal, and after it the encoder written from the
same tables, and the reading of one opcode-table word for the host. -/

namespace Sys2Proof

/-- Why a list of words is no instruction. Every reason traps with ILLEGAL, but `length`, which traps with LENGTH (R200). -/
inductive DecodeErr where
  | length        -- len = 11
  | truncated     -- fewer words than len says
  | opcode        -- an op the map leaves blank
  | wrongLen      -- a len that is not the op's length
  | badFn         -- an fn the map does not assign
  | reservedCode  -- a refused field code
  | mustBeZero    -- a must-be-zero bit, or an unused register field, that is not zero
  | registerClass -- a register field too large for its class
  | electBit      -- e = 1 where the entry defines no such encoding
  | illFormed     -- an operand limit of WellFormed.lean
  deriving DecidableEq, Repr, Inhabited

/-- Word 0 (Table 9.1). -/
structure W0 where
  fc  : BitVec 4
  fb  : BitVec 4
  fa  : BitVec 4
  fd  : BitVec 4
  fn  : BitVec 5
  e   : Bool
  op  : BitVec 8
  len : BitVec 2
  deriving DecidableEq, Repr, Inhabited

def W0.unpack (w : BitVec 32) : W0 where
  fc := w.extractLsb' 28 4
  fb := w.extractLsb' 24 4
  fa := w.extractLsb' 20 4
  fd := w.extractLsb' 16 4
  fn := w.extractLsb' 11 5
  e := w.getLsbD 10
  op := w.extractLsb' 2 8
  len := w.extractLsb' 0 2

/-- Size codes (Table 9.7). -/
def Size.ofCode (c : BitVec 3) : Option Size :=
  match c.toNat with
  | 0 => some .b | 1 => some .h | 2 => some .w | 3 => some .d | 4 => some .q | _ => none

/-- Order codes (Table 9.7). -/
def Order.ofCode (c : BitVec 2) : Order :=
  match c.toNat with
  | 0 => .rlx | 1 => .acq | 2 => .rel | _ => .ar

/-- Scope codes (Table 4.1); 110 and 111 are refused (R204). -/
def Scope.ofCode (c : BitVec 3) : Option Scope :=
  match c.toNat with
  | 0 => some .core | 1 => some .quad | 2 => some .die | 3 => some .pkg | 4 => some .pod | 5 => some .sys | _ => none

/-- Rounding codes (Table 9.7); 101 and 110 are refused. -/
def Rnd.ofCode (c : BitVec 3) : Option Rnd :=
  match c.toNat with
  | 0 => some .rne | 1 => some .rtz | 2 => some .rdn | 3 => some .rup | 4 => some .rna | 7 => some .dyn | _ => none

/-- Element type codes (Table 9.7). -/
def ElemType.ofCode (c : BitVec 4) : Option ElemType := auxType c

/-- Conditions by fn (Table 11.2). -/
def Cond.ofCode (c : BitVec 5) : Option Cond :=
  match c.toNat with
  | 0 => some .eq | 1 => some .ne | 2 => some .lt | 3 => some .ge | 4 => some .ltN | 5 => some .geN | _ => none

/-- AMO operations by fn (Table 9.12). -/
def AmoOp.ofCode (c : BitVec 5) : Option AmoOp :=
  match c.toNat with
  | 0 => some .add | 1 => some .and | 2 => some .or | 3 => some .xor | 4 => some .min | 5 => some .max
  | 6 => some .minN | 7 => some .maxN | 8 => some .swap | 9 => some .faddF32 | _ => none

/-- RED operations by fn (Table 9.12). -/
def RedOp.ofCode (c : BitVec 5) : Option RedOp :=
  match c.toNat with
  | 0 => some .add | 1 => some .and | 2 => some .or | 3 => some .xor | 4 => some .min | 5 => some .max
  | 6 => some .minN | 7 => some .maxN | 8 => some .faddF32 | 9 => some .faddBf16 | _ => none

/-- VRED operations by fn (Table 9.16). -/
def VredOp.ofCode (c : BitVec 5) : Option VredOp :=
  match c.toNat with
  | 0 => some .add | 1 => some .min | 2 => some .max | 3 => some .and | 4 => some .or | 5 => some .xor | _ => none

/-- Word 1 of format M (Table 9.3). -/
def MForm.unpack (w : BitVec 32) : Except DecodeErr MForm :=
  if w.extractLsb' 29 3 != 0 then .error .mustBeZero
  else
    match Size.ofCode (w.extractLsb' 25 3), Scope.ofCode (w.extractLsb' 20 3) with
    | some size, some scope =>
        .ok (MForm.mk (w.getLsbD 28) size (Order.ofCode (w.extractLsb' 23 2)) scope (w.extractLsb' 0 20))
    | _, _ => .error .reservedCode

/-- Word 1 of format V (Table 9.4). -/
def VForm.unpack (w : BitVec 32) : Except DecodeErr VForm :=
  if w.getLsbD 3 then .error .mustBeZero
  else
    match Rnd.ofCode (w.extractLsb' 8 3), ElemType.ofCode (w.extractLsb' 4 4) with
    | some rnd, some type =>
        .ok (VForm.mk (w.extractLsb' 16 16) (w.extractLsb' 12 4) (w.getLsbD 11) rnd type (w.extractLsb' 0 3))
    | _, _ => .error .reservedCode

/-- Words 1 and 2 of format T (Table 9.5). -/
def TForm.unpack (w1 w2 : BitVec 32) : TForm where
  noff := w2.extractLsb' 16 16
  koff := w2.extractLsb' 0 16
  count := w1.extractLsb' 20 12
  row0 := w1.extractLsb' 12 8
  tb := w1.extractLsb' 6 6
  ta := w1.extractLsb' 0 6

/-- Words 1 to 3 of format C (Table 9.6). -/
def CForm.unpack (w1 w2 w3 : BitVec 32) : Except DecodeErr CForm :=
  if w1.getLsbD 31 then .error .mustBeZero
  else
    match Scope.ofCode (w1.extractLsb' 28 3) with
    | some scope =>
        .ok (CForm.mk (w3.extractLsb' 16 16) (w3.extractLsb' 0 16) (w2.extractLsb' 16 16) (w2.extractLsb' 0 16) scope
          (w1.extractLsb' 16 12) (w1.getLsbD 15) (w1.extractLsb' 0 15))
    | none => .error .reservedCode

/-- The words that an op's format gives it (R209): 2, 3 or 4; none for an op the map leaves blank. -/
def opWords (op : Nat) : Option Nat :=
  if op = 0x07 ∨ op = 0x2A ∨ op = 0x8A ∨ op = 0x9A ∨ op = 0xD2 ∨ op = 0xD4 ∨ op = 0xD5 ∨ op = 0xD6 then some 3
  else if (0x70 ≤ op ∧ op ≤ 0x73) ∨ op = 0x78 ∨ op = 0x79 ∨ op = 0x89 then some 4
  else if (0x01 ≤ op ∧ op ≤ 0x10) ∨ (0x20 ≤ op ∧ op ≤ 0x2C) ∨ (0x40 ≤ op ∧ op ≤ 0x4A) ∨ (0x60 ≤ op ∧ op ≤ 0x69)
      ∨ (0x74 ≤ op ∧ op ≤ 0x7B) ∨ (0x80 ≤ op ∧ op ≤ 0x8B) ∨ (0x90 ≤ op ∧ op ≤ 0x9D) ∨ (0xA0 ≤ op ∧ op ≤ 0xB1)
      ∨ (0xC0 ≤ op ∧ op ≤ 0xC7) ∨ (0xD0 ≤ op ∧ op ≤ 0xD7) then some 2
  else none

/-- A decoded instruction whose must-be-zero condition is `z`. -/
def zeroed (z : Bool) (i : Instr) : Except DecodeErr Instr := if z then .ok i else .error .mustBeZero

/-- An instruction that defines no encoding with e = 1. -/
def noElect (f : W0) (r : Except DecodeErr Instr) : Except DecodeErr Instr := if f.e then .error .electBit else r

/-- A register field of a class with 2^k members. -/
def classOk (k : Nat) (r : BitVec 4) (i : Except DecodeErr Instr) : Except DecodeErr Instr :=
  if r.toNat < 2 ^ k then i else .error .registerClass

def oneOf {α : Type} (o : Option α) (k : α → Except DecodeErr Instr) : Except DecodeErr Instr :=
  match o with
  | some a => k a
  | none => .error .badFn

def withM (w : BitVec 32) (k : MForm → Except DecodeErr Instr) : Except DecodeErr Instr :=
  match MForm.unpack w with
  | .ok m => k m
  | .error e => .error e

def withV (w : BitVec 32) (k : VForm → Except DecodeErr Instr) : Except DecodeErr Instr :=
  match VForm.unpack w with
  | .ok v => k v
  | .error e => .error e

def withC (w1 w2 w3 : BitVec 32) (k : CForm → Except DecodeErr Instr) : Except DecodeErr Instr :=
  match CForm.unpack w1 w2 w3 with
  | .ok c => k c
  | .error e => .error e

/-- The low k bits of a register field. -/
def reg3 (r : BitVec 4) : BitVec 3 := r.extractLsb' 0 3
def reg2 (r : BitVec 4) : BitVec 2 := r.extractLsb' 0 2

/-- An op that is not a family takes fn = 0 (R201). -/
def fn0 (f : W0) (r : Except DecodeErr Instr) : Except DecodeErr Instr := if f.fn == 0 then r else .error .badFn

/-- System and control (Table 9.9). -/
def decSystem (f : W0) (w1 w2 : BitVec 32) : Except DecodeErr Instr :=
  match f.op.toNat with
  | 0x01 => fn0 f (zeroed (w1 == 0 && f.fd == 0 && f.fa == 0 && f.fb == 0 && f.fc == 0) (.nop f.e))
  | 0x02 => fn0 f (noElect f (zeroed (f.fd == 0 && f.fa == 0 && f.fb == 0 && f.fc == 0) (.j w1)))
  | 0x03 => fn0 f (noElect f (zeroed (f.fa == 0 && f.fb == 0 && f.fc == 0) (.jl f.fd w1)))
  | 0x04 => fn0 f (noElect f (zeroed (w1 == 0 && f.fd == 0 && f.fb == 0 && f.fc == 0) (.jr f.fa)))
  | 0x05 => fn0 f (noElect f (zeroed (w1 == 0 && f.fb == 0 && f.fc == 0) (.jlr f.fd f.fa)))
  | 0x06 => oneOf (Cond.ofCode f.fn) fun cc => noElect f (zeroed (f.fd == 0 && f.fc == 0) (.bCc cc f.fa f.fb w1))
  | 0x07 => oneOf (Cond.ofCode f.fn) fun cc => noElect f (zeroed (f.fd == 0 && f.fb == 0 && f.fc == 0) (.biCc cc f.fa w2 w1))
  | 0x08 => fn0 f (noElect f (zeroed (f.fd == 0 && f.fa == 0 && f.fb == 0 && f.fc == 0) (.trap w1)))
  | 0x09 => fn0 f (noElect f (zeroed (w1 == 0 && f.fd == 0 && f.fa == 0 && f.fb == 0 && f.fc == 0) .tret))
  | 0x0A => fn0 f (noElect f (zeroed (f.fd == 0 && f.fa == 0 && f.fb == 0 && f.fc == 0) (.brk w1)))
  | 0x0B => fn0 f (zeroed (w1.extractLsb' 12 20 == 0 && f.fa == 0 && f.fb == 0 && f.fc == 0) (.srd f.e f.fd (w1.extractLsb' 0 12)))
  | 0x0C => fn0 f (zeroed (w1.extractLsb' 12 20 == 0 && f.fd == 0 && f.fb == 0 && f.fc == 0) (.swr f.e f.fa (w1.extractLsb' 0 12)))
  | 0x0D => fn0 f (noElect f (zeroed (w1 == 0 && f.fd == 0 && f.fa == 0 && f.fb == 0 && f.fc == 0) .ifence))
  | 0x0E => fn0 f (noElect f (zeroed (f.fa == 0 && f.fb == 0 && f.fc == 0) (.sleep f.fd w1)))
  | 0x0F => fn0 f (zeroed (w1.extractLsb' 20 12 == 0 && f.fb == 0 && f.fc == 0) (.xlat f.e f.fd f.fa (w1.extractLsb' 0 20)))
  | 0x10 => fn0 f (noElect f (zeroed (w1.extractLsb' 15 17 == 0 && f.fd == 0 && f.fa == 0 && f.fb == 0 && f.fc == 0) (.rep (w1.extractLsb' 0 3) (w1.extractLsb' 3 8) (w1.extractLsb' 11 4))))
  | _ => .error .opcode

/-- Integer (Table 9.10). -/
def decInteger (f : W0) (w1 w2 : BitVec 32) : Except DecodeErr Instr :=
  match f.op.toNat with
  | 0x20 => (
    match f.fn.toNat with
    | 0 => zeroed (w1 == 0 && f.fc == 0) (.add f.e f.fd f.fa f.fb)
    | 1 => zeroed (w1 == 0 && f.fc == 0) (.sub f.e f.fd f.fa f.fb)
    | 2 => zeroed (w1 == 0 && f.fc == 0) (.and f.e f.fd f.fa f.fb)
    | 3 => zeroed (w1 == 0 && f.fc == 0) (.or f.e f.fd f.fa f.fb)
    | 4 => zeroed (w1 == 0 && f.fc == 0) (.xor f.e f.fd f.fa f.fb)
    | 5 => zeroed (w1 == 0 && f.fc == 0) (.andn f.e f.fd f.fa f.fb)
    | 6 => zeroed (w1 == 0 && f.fc == 0) (.shl f.e f.fd f.fa f.fb)
    | 7 => zeroed (w1 == 0 && f.fc == 0) (.shr f.e f.fd f.fa f.fb)
    | 8 => zeroed (w1 == 0 && f.fc == 0) (.sar f.e f.fd f.fa f.fb)
    | 9 => zeroed (w1 == 0 && f.fc == 0) (.ror f.e f.fd f.fa f.fb)
    | 10 => zeroed (w1 == 0 && f.fc == 0) (.min f.e f.fd f.fa f.fb)
    | 11 => zeroed (w1 == 0 && f.fc == 0) (.max f.e f.fd f.fa f.fb)
    | 12 => zeroed (w1 == 0 && f.fc == 0) (.minN f.e f.fd f.fa f.fb)
    | 13 => zeroed (w1 == 0 && f.fc == 0) (.maxN f.e f.fd f.fa f.fb)
    | _ => .error .badFn)
  | 0x21 => (
    match f.fn.toNat with
    | 0 => zeroed (f.fb == 0 && f.fc == 0) (.addi f.e f.fd f.fa w1)
    | 1 => zeroed (f.fb == 0 && f.fc == 0) (.subi f.e f.fd f.fa w1)
    | 2 => zeroed (f.fb == 0 && f.fc == 0) (.andi f.e f.fd f.fa w1)
    | 3 => zeroed (f.fb == 0 && f.fc == 0) (.ori f.e f.fd f.fa w1)
    | 4 => zeroed (f.fb == 0 && f.fc == 0) (.xori f.e f.fd f.fa w1)
    | 5 => zeroed (f.fb == 0 && f.fc == 0) (.andni f.e f.fd f.fa w1)
    | 6 => zeroed (f.fb == 0 && f.fc == 0) (.shli f.e f.fd f.fa w1)
    | 7 => zeroed (f.fb == 0 && f.fc == 0) (.shri f.e f.fd f.fa w1)
    | 8 => zeroed (f.fb == 0 && f.fc == 0) (.sari f.e f.fd f.fa w1)
    | 9 => zeroed (f.fb == 0 && f.fc == 0) (.rori f.e f.fd f.fa w1)
    | 10 => zeroed (f.fb == 0 && f.fc == 0) (.mini f.e f.fd f.fa w1)
    | 11 => zeroed (f.fb == 0 && f.fc == 0) (.maxi f.e f.fd f.fa w1)
    | 12 => zeroed (f.fb == 0 && f.fc == 0) (.miniN f.e f.fd f.fa w1)
    | 13 => zeroed (f.fb == 0 && f.fc == 0) (.maxiN f.e f.fd f.fa w1)
    | _ => .error .badFn)
  | 0x22 => (
    match f.fn.toNat with
    | 0 => zeroed (w1 == 0 && f.fc == 0) (.mul f.e f.fd f.fa f.fb)
    | 1 => zeroed (w1 == 0 && f.fc == 0) (.mulh f.e f.fd f.fa f.fb)
    | 2 => zeroed (w1 == 0 && f.fc == 0) (.mulhN f.e f.fd f.fa f.fb)
    | 3 => zeroed (w1 == 0 && f.fc == 0) (.div f.e f.fd f.fa f.fb)
    | 4 => zeroed (w1 == 0 && f.fc == 0) (.divN f.e f.fd f.fa f.fb)
    | 5 => zeroed (w1 == 0 && f.fc == 0) (.rem f.e f.fd f.fa f.fb)
    | 6 => zeroed (w1 == 0 && f.fc == 0) (.remN f.e f.fd f.fa f.fb)
    | _ => .error .badFn)
  | 0x23 => fn0 f (zeroed (f.fb == 0 && f.fc == 0) (.muli f.e f.fd f.fa w1))
  | 0x24 => (
    match f.fn.toNat with
    | 0 => zeroed (w1 == 0 && f.fb == 0 && f.fc == 0) (.clz f.e f.fd f.fa)
    | 1 => zeroed (w1 == 0 && f.fb == 0 && f.fc == 0) (.ctz f.e f.fd f.fa)
    | 2 => zeroed (w1 == 0 && f.fb == 0 && f.fc == 0) (.popc f.e f.fd f.fa)
    | 3 => zeroed (w1 == 0 && f.fb == 0 && f.fc == 0) (.brev f.e f.fd f.fa)
    | 4 => zeroed (w1 == 0 && f.fb == 0 && f.fc == 0) (.bswap f.e f.fd f.fa)
    | _ => .error .badFn)
  | 0x25 => fn0 f (zeroed (w1.extractLsb' 13 19 == 0 && f.fb == 0 && f.fc == 0) (.ext f.e f.fd f.fa (w1.getLsbD 12) (w1.extractLsb' 6 6) (w1.extractLsb' 0 6)))
  | 0x26 => fn0 f (zeroed (w1.extractLsb' 12 20 == 0 && f.fb == 0 && f.fc == 0) (.ins f.e f.fd f.fa (w1.extractLsb' 6 6) (w1.extractLsb' 0 6)))
  | 0x27 => oneOf (Cond.ofCode f.fn) fun cc => zeroed (w1 == 0 && f.fc == 0) (.setCc f.e cc f.fd f.fa f.fb)
  | 0x28 => oneOf (Cond.ofCode f.fn) fun cc => zeroed (f.fb == 0 && f.fc == 0) (.setiCc f.e cc f.fd f.fa w1)
  | 0x29 => fn0 f (zeroed (w1 == 0) (.sel f.e f.fd f.fa f.fb f.fc))
  | 0x2A => fn0 f (zeroed (f.fa == 0 && f.fb == 0 && f.fc == 0) (.movi f.e f.fd (w2 ++ w1)))
  | 0x2B => fn0 f (zeroed (w1.extractLsb' 6 26 == 0 && f.fc == 0) (.addsh f.e f.fd f.fa f.fb (w1.extractLsb' 0 6)))
  | 0x2C => fn0 f (zeroed (f.fa == 0 && f.fb == 0 && f.fc == 0) (.addpc f.e f.fd w1))
  | _ => .error .opcode

/-- Memory, atomics and synchronization (Tables 9.11 and 9.12). -/
def decMemory (f : W0) (w1 : BitVec 32) : Except DecodeErr Instr :=
  match f.op.toNat with
  | 0x40 => fn0 f (withM w1 fun m => zeroed (f.fb == 0 && f.fc == 0) (.ld f.e f.fd f.fa m))
  | 0x41 => fn0 f (withM w1 fun m => zeroed (f.fd == 0 && f.fb == 0) (.st f.e f.fa f.fc m))
  | 0x42 => fn0 f (withM w1 fun m => zeroed (f.fc == 0) (.ldx f.e f.fd f.fa f.fb m))
  | 0x43 => fn0 f (withM w1 fun m => zeroed (f.fd == 0) (.stx f.e f.fa f.fb f.fc m))
  | 0x44 => fn0 f (withM w1 fun m => zeroed (f.fc == 0) (.bld f.e f.fd f.fa f.fb m))
  | 0x45 => fn0 f (withM w1 fun m => zeroed (f.fd == 0) (.bst f.e f.fa f.fb f.fc m))
  | 0x46 => fn0 f (noElect f (withM w1 fun m => zeroed (f.fd == 0 && f.fb == 0 && f.fc == 0) (.pf f.fa m)))
  | 0x47 => fn0 f (noElect f (withM w1 fun m => zeroed (f.fd == 0 && f.fb == 0 && f.fc == 0) (.cwb f.fa m)))
  | 0x48 => fn0 f (noElect f (withM w1 fun m => zeroed (f.fd == 0 && f.fb == 0 && f.fc == 0) (.cinv f.fa m)))
  | 0x49 => noElect f (withM w1 fun m => zeroed (!f.fn.getLsbD 4 && f.fd == 0 && f.fa == 0 && f.fb == 0 && f.fc == 0 && !m.zx && m.size == .b && m.order == .rlx && m.disp == 0) (.fence (f.fn.extractLsb' 0 4) m.scope))
  | 0x4A => fn0 f (noElect f (zeroed (w1 == 0 && f.fd == 0 && f.fa == 0 && f.fb == 0 && f.fc == 0) .wosc))
  | 0x60 => oneOf (AmoOp.ofCode f.fn) fun op => withM w1 fun m => zeroed (f.fb == 0) (.amo f.e op f.fd f.fa f.fc m)
  | 0x61 => fn0 f (withM w1 fun m => .ok (.cas f.e f.fd f.fa f.fb f.fc m))
  | 0x62 => oneOf (RedOp.ofCode f.fn) fun op => withM w1 fun m => zeroed (f.fd == 0 && f.fb == 0) (.red f.e op f.fa f.fc m)
  | 0x63 => fn0 f (noElect f (withM w1 fun m => zeroed (f.fd == 0 && f.fc == 0) (.binit f.fa f.fb m)))
  | 0x64 => fn0 f (noElect f (withM w1 fun m => zeroed (f.fb == 0 && f.fc == 0) (.barr f.fd f.fa m)))
  | 0x65 => fn0 f (noElect f (withM w1 fun m => zeroed (f.fd == 0 && f.fb == 0) (.bexp f.fa f.fc m)))
  | 0x66 => fn0 f (noElect f (withM w1 fun m => zeroed (f.fc == 0) (.bwait f.fd f.fa f.fb m)))
  | 0x67 => fn0 f (noElect f (withM w1 fun m => zeroed (f.fc == 0) (.btest f.fd f.fa f.fb m)))
  | 0x68 => fn0 f (noElect f (oneOf (Scope.ofCode (w1.extractLsb' 8 3)) fun level => zeroed (w1.extractLsb' 11 21 == 0 && f.fa == 0 && f.fb == 0 && f.fc == 0) (.nbar f.fd level (w1.extractLsb' 0 8))))
  | 0x69 => fn0 f (noElect f (withM w1 fun m => zeroed (f.fd == 0) (.arm f.fa f.fb f.fc m)))
  | _ => .error .opcode

/-- Copies, rings and feeds (Table 9.13). -/
def decCopy (f : W0) (w1 w2 w3 : BitVec 32) : Except DecodeErr Instr :=
  match f.op.toNat with
  | 0x70 => fn0 f (noElect f (withC w1 w2 w3 fun c => .ok (.cpy f.fd f.fa f.fb f.fc c)))
  | 0x71 => fn0 f (noElect f (withC w1 w2 w3 fun c => .ok (.cpy2 f.fd f.fa f.fb f.fc c)))
  | 0x72 => fn0 f (noElect f (withC w1 w2 w3 fun c => .ok (.cpym f.fd f.fa f.fb f.fc c)))
  | 0x73 => fn0 f (noElect f (classOk 3 f.fa (withC w1 w2 w3 fun c => .ok (.cpyq f.fd (reg3 f.fa) f.fb f.fc c))))
  | 0x74 => fn0 f (noElect f (classOk 3 f.fd (zeroed (w1 == 0 && f.fb == 0 && f.fc == 0) (.qcfg (reg3 f.fd) f.fa))))
  | 0x75 => fn0 f (noElect f (classOk 3 f.fd (zeroed (w1 == 0 && f.fb == 0 && f.fc == 0) (.qpush (reg3 f.fd) f.fa))))
  | 0x76 => fn0 f (noElect f (classOk 3 f.fd (zeroed (w1 == 0 && f.fb == 0 && f.fc == 0) (.qpop (reg3 f.fd) f.fa))))
  | 0x77 => fn0 f (noElect f (classOk 3 f.fa (zeroed (w1 == 0 && f.fb == 0 && f.fc == 0) (.qstat f.fd (reg3 f.fa)))))
  | 0x78 => fn0 f (noElect f (classOk 3 f.fc (withC w1 w2 w3 fun c => .ok (.isub f.fd f.fa f.fb (reg3 f.fc) c))))
  | 0x79 => fn0 f (noElect f (classOk 3 f.fc (withC w1 w2 w3 fun c => .ok (.osub f.fd f.fa f.fb (reg3 f.fc) c))))
  | 0x7A => fn0 f (noElect f (zeroed (w1 == 0 && f.fa == 0 && f.fb == 0 && f.fc == 0) (.unsub f.fd)))
  | 0x7B => fn0 f (noElect f (zeroed (w1 == 0 && f.fb == 0 && f.fc == 0) (.cpyres f.fd f.fa)))
  | _ => .error .opcode

/-- Strands, tasks, channels, grants and launches (Tables 9.14 and 9.15). -/
def decStrand (f : W0) (w1 w2 w3 : BitVec 32) : Except DecodeErr Instr :=
  match f.op.toNat with
  | 0x80 => fn0 f (noElect f (zeroed (f.fd == 0) (.fork f.fa f.fb f.fc w1)))
  | 0x81 => fn0 f (noElect f (zeroed (w1 == 0 && f.fd == 0 && f.fc == 0) (.spawn f.fa f.fb)))
  | 0x82 => fn0 f (noElect f (withM w1 fun m => zeroed (f.fd == 0 && f.fb == 0 && f.fc == 0) (.join f.fa m)))
  | 0x83 => fn0 f (noElect f (withM w1 fun m => zeroed (f.fd == 0 && f.fb == 0 && f.fc == 0) (.jdec f.fa m)))
  | 0x84 => fn0 f (noElect f (zeroed (w1 == 0 && f.fd == 0 && f.fa == 0 && f.fb == 0 && f.fc == 0) (.exit)))
  | 0x85 => fn0 f (noElect f (zeroed (w1 == 0 && f.fd == 0 && f.fa == 0 && f.fb == 0 && f.fc == 0) (.yield)))
  | 0x86 => fn0 f (noElect f (zeroed (w1 == 0 && f.fd == 0 && f.fb == 0 && f.fc == 0) (.migr f.fa)))
  | 0x87 => noElect f ((match f.fn.toNat with
    | 0 => zeroed (w1 == 0 && f.fd == 0 && f.fa == 0 && f.fb == 0 && f.fc == 0) .pin
    | 1 => zeroed (w1 == 0 && f.fd == 0 && f.fa == 0 && f.fb == 0 && f.fc == 0) .unpin
    | _ => .error .badFn))
  | 0x88 => fn0 f (noElect f (zeroed (w1 == 0 && f.fd == 0 && f.fb == 0 && f.fc == 0) (.gang f.fa)))
  | 0x89 => fn0 f (noElect f (withC w1 w2 w3 fun c => .ok (.taskr f.fd f.fa f.fb f.fc c)))
  | 0x8A => fn0 f (noElect f (zeroed (f.fc == 0 && w2 == 0 && w1.extractLsb' 16 16 == 0) ((.tasks f.fd f.fa f.fb (w1.extractLsb' 8 8) (w1.extractLsb' 0 8)))))
  | 0x8B => fn0 f (noElect f (zeroed (w1 == 0 && f.fd == 0 && f.fb == 0 && f.fc == 0) (.tdone f.fa)))
  | 0x90 => fn0 f (noElect f (zeroed (f.fc == 0 && w1.extractLsb' 7 25 == 0) ((.chan f.fd f.fa f.fb (w1.extractLsb' 4 3) (w1.extractLsb' 0 4)))))
  | 0x91 => noElect f ((match f.fn.toNat with
    | 0 => zeroed (w1 == 0 && f.fb == 0) (.snd f.fd f.fa f.fc)
    | 1 => zeroed (w1 == 0 && f.fb == 0) (.sndb f.fd f.fa f.fc)
    | 2 => zeroed (w1 == 0 && f.fb == 0) (.sndj f.fd f.fa f.fc)
    | _ => .error .badFn))
  | 0x92 => fn0 f (noElect f (zeroed (w1 == 0) (.rcv f.fd f.fa f.fb f.fc)))
  | 0x93 => fn0 f (noElect f (zeroed (w1 == 0) (.trcv f.fd f.fa f.fb f.fc)))
  | 0x94 => fn0 f (noElect f (zeroed (w1 == 0 && f.fd == 0 && f.fb == 0 && f.fc == 0) (.close f.fa)))
  | 0x95 => fn0 f (noElect f (zeroed (w1 == 0 && f.fd == 0 && f.fb == 0 && f.fc == 0) (.dropj f.fa)))
  | 0x96 => fn0 f (noElect f (zeroed (w1 == 0 && f.fb == 0 && f.fc == 0) (.movj f.fd f.fa)))
  | 0x97 => fn0 f (noElect f (zeroed (w1 == 0 && f.fb == 0 && f.fc == 0) (.jkind f.fd f.fa)))
  | 0x98 => fn0 f (noElect f (zeroed (f.fa == 0 && f.fb == 0 && f.fc == 0 && w1.extractLsb' 8 24 == 0) ((.grant f.fd (w1.extractLsb' 6 2) (w1.extractLsb' 0 6)))))
  | 0x99 => fn0 f (noElect f (zeroed (w1 == 0 && f.fb == 0 && f.fc == 0) (.gdup f.fd f.fa)))
  | 0x9A => fn0 f (noElect f (zeroed (f.fc == 0) (.mcmd f.fd f.fa f.fb (TForm.unpack w1 w2))))
  | 0x9B => fn0 f (noElect f (zeroed (f.fc == 0 && w1.extractLsb' 20 12 == 0) ((.lnch f.fd f.fa f.fb (w1.extractLsb' 0 20)))))
  | 0x9C => fn0 f (noElect f (zeroed (w1 == 0 && f.fb == 0 && f.fc == 0) (.lwait f.fd f.fa)))
  | 0x9D => fn0 f (noElect f (zeroed (w1 == 0 && f.fd == 0 && f.fb == 0 && f.fc == 0) (.labrt f.fa)))
  | _ => .error .opcode

/-- Vector (Table 9.16). -/
def decVector (f : W0) (w1 : BitVec 32) : Except DecodeErr Instr :=
  match f.op.toNat with
  | 0xA0 => fn0 f (withV w1 fun v => if v.aux.getLsbD 3 then classOk 3 f.fa (zeroed (f.fb == 0 && f.fc == 0) (.vldRing f.e f.fd (reg3 f.fa) v)) else zeroed (f.fb == 0 && f.fc == 0) (.vld f.e f.fd f.fa v))
  | 0xA1 => fn0 f (noElect f (withV w1 fun v => if v.aux.getLsbD 3 then classOk 3 f.fa (zeroed (f.fd == 0 && f.fb == 0) (.vstRing (reg3 f.fa) f.fc v)) else zeroed (f.fd == 0 && f.fb == 0) (.vst f.fa f.fc v)))
  | 0xA2 => fn0 f (withV w1 fun v => zeroed (f.fc == 0) (.vldg f.e f.fd f.fa f.fb v))
  | 0xA3 => fn0 f (noElect f (withV w1 fun v => zeroed (f.fd == 0) (.vsts f.fa f.fb f.fc v)))
  | 0xA4 => noElect f (withV w1 fun v => (match f.fn.toNat with
    | 0 => zeroed (f.fc == 0) (.vadd f.fd f.fa f.fb v)
    | 1 => zeroed (f.fc == 0) (.vsub f.fd f.fa f.fb v)
    | 2 => zeroed (f.fc == 0) (.vmul f.fd f.fa f.fb v)
    | 3 => zeroed (f.fc == 0) (.vand f.fd f.fa f.fb v)
    | 4 => zeroed (f.fc == 0) (.vor f.fd f.fa f.fb v)
    | 5 => zeroed (f.fc == 0) (.vxor f.fd f.fa f.fb v)
    | 6 => zeroed (f.fc == 0) (.vshl f.fd f.fa f.fb v)
    | 7 => zeroed (f.fc == 0) (.vshr f.fd f.fa f.fb v)
    | 8 => zeroed (f.fc == 0) (.vsar f.fd f.fa f.fb v)
    | 9 => zeroed (f.fc == 0) (.vmin f.fd f.fa f.fb v)
    | 10 => zeroed (f.fc == 0) (.vmax f.fd f.fa f.fb v)
    | 11 => zeroed (f.fc == 0) (.vminN f.fd f.fa f.fb v)
    | 12 => zeroed (f.fc == 0) (.vmaxN f.fd f.fa f.fb v)
    | _ => .error .badFn))
  | 0xA5 => noElect f (withV w1 fun v => (match f.fn.toNat with
    | 0 => zeroed (f.fc == 0) (.vfadd f.fd f.fa f.fb v)
    | 1 => zeroed (f.fc == 0) (.vfsub f.fd f.fa f.fb v)
    | 2 => zeroed (f.fc == 0) (.vfmul f.fd f.fa f.fb v)
    | 3 => zeroed (f.fc == 0) (.vfmin f.fd f.fa f.fb v)
    | 4 => zeroed (f.fc == 0) (.vfmax f.fd f.fa f.fb v)
    | 5 => zeroed (f.fc == 0) (.vfdiv f.fd f.fa f.fb v)
    | 6 => zeroed (f.fb == 0 && f.fc == 0) (.vfsqrt f.fd f.fa v)
    | 7 => zeroed (f.fb == 0 && f.fc == 0) (.vfrcp f.fd f.fa v)
    | 8 => zeroed (f.fb == 0 && f.fc == 0) (.vfrsq f.fd f.fa v)
    | _ => .error .badFn))
  | 0xA6 => noElect f (withV w1 fun v => (match f.fn.toNat with
    | 0 => .ok (.vfma f.fd f.fa f.fb f.fc v)
    | 1 => .ok (.vfms f.fd f.fa f.fb f.fc v)
    | 2 => .ok (.vfnma f.fd f.fa f.fb f.fc v)
    | _ => .error .badFn))
  | 0xA7 => fn0 f (noElect f (withV w1 fun v => zeroed (f.fb == 0 && f.fc == 0) (.vcvt f.fd f.fa v)))
  | 0xA8 => oneOf (Cond.ofCode f.fn) fun cc => noElect f (classOk 3 f.fd (withV w1 fun v => zeroed (f.fc == 0) (.vcmpCc cc (reg3 f.fd) f.fa f.fb v)))
  | 0xA9 => fn0 f (noElect f (classOk 3 f.fc (withV w1 fun v => .ok (.vsel f.fd f.fa f.fb (reg3 f.fc) v))))
  | 0xAA => oneOf (VredOp.ofCode f.fn) fun op => withV w1 fun v => zeroed (f.fb == 0 && f.fc == 0) (.vred f.e op f.fd f.fa v)
  | 0xAB => fn0 f (noElect f (withV w1 fun v => zeroed (f.fc == 0) (.vperm f.fd f.fa f.fb v)))
  | 0xAC => fn0 f (noElect f (withV w1 fun v => zeroed (f.fb == 0 && f.fc == 0) (.vbc f.fd f.fa v)))
  | 0xAD => fn0 f (withV w1 fun v => zeroed (f.fb == 0 && f.fc == 0) (if v.aux.getLsbD 0 then .vmvgToV f.e f.fd f.fa v else .vmvgToG f.e f.fd f.fa v))
  | 0xAE => fn0 f (noElect f (withV w1 fun v => zeroed (true) (.vhad f.fd f.fa f.fb f.fc v)))
  | 0xAF => fn0 f (noElect f (withV w1 fun v => zeroed (f.fc == 0) (.qnt f.fd f.fa f.fb v)))
  | 0xB0 => noElect f ((match f.fn.toNat with
    | 0 => classOk 3 f.fd (classOk 3 f.fa (classOk 3 f.fb (zeroed (w1 == 0 && f.fc == 0) (.mand (reg3 f.fd) (reg3 f.fa) (reg3 f.fb)))))
    | 1 => classOk 3 f.fd (classOk 3 f.fa (classOk 3 f.fb (zeroed (w1 == 0 && f.fc == 0) (.mor (reg3 f.fd) (reg3 f.fa) (reg3 f.fb)))))
    | 2 => classOk 3 f.fd (classOk 3 f.fa (classOk 3 f.fb (zeroed (w1 == 0 && f.fc == 0) (.mxor (reg3 f.fd) (reg3 f.fa) (reg3 f.fb)))))
    | 3 => classOk 3 f.fd (classOk 3 f.fa (zeroed (w1 == 0 && f.fb == 0 && f.fc == 0) (.mnot (reg3 f.fd) (reg3 f.fa))))
    | 4 => classOk 3 f.fa (zeroed (w1 == 0 && f.fb == 0 && f.fc == 0) (.mpop f.fd (reg3 f.fa)))
    | 5 => classOk 3 f.fd (zeroed (w1 == 0 && f.fb == 0 && f.fc == 0) (.mset (reg3 f.fd) f.fa))
    | _ => .error .badFn))
  | 0xB1 => fn0 f (noElect f (zeroed (w1 == 0 && f.fd == 0 && f.fa == 0 && f.fb == 0 && f.fc == 0) .vrel))
  | _ => .error .opcode

/-- Distribution, tensor and truss (Table 9.17). -/
def decTensor (f : W0) (w1 w2 : BitVec 32) : Except DecodeErr Instr :=
  match f.op.toNat with
  | 0xC0 => fn0 f (noElect f (classOk 2 f.fd (withV w1 fun v => zeroed (f.fc == 0) (.dfrom (reg2 f.fd) f.fa f.fb v))))
  | 0xC1 => fn0 f (classOk 2 f.fd (withV w1 fun v => zeroed (f.fc == 0) (.dld f.e (reg2 f.fd) f.fa f.fb v)))
  | 0xC2 => fn0 f (noElect f (classOk 2 f.fc (withV w1 fun v => zeroed (f.fd == 0 && f.fb == 0) (.dst f.fa (reg2 f.fc) v))))
  | 0xC3 => noElect f ((match f.fn.toNat with
    | 0 => classOk 2 f.fd (classOk 2 f.fa (classOk 2 f.fb (zeroed (w1 == 0 && f.fc == 0) (.dadd (reg2 f.fd) (reg2 f.fa) (reg2 f.fb)))))
    | 1 => classOk 2 f.fd (classOk 2 f.fa (classOk 2 f.fb (zeroed (w1 == 0 && f.fc == 0) (.dsub (reg2 f.fd) (reg2 f.fa) (reg2 f.fb)))))
    | 2 => classOk 2 f.fd (classOk 2 f.fa (classOk 2 f.fb (zeroed (w1 == 0 && f.fc == 0) (.dmul (reg2 f.fd) (reg2 f.fa) (reg2 f.fb)))))
    | 3 => classOk 2 f.fd (classOk 2 f.fa (classOk 2 f.fb (zeroed (w1 == 0 && f.fc == 0) (.dmax (reg2 f.fd) (reg2 f.fa) (reg2 f.fb)))))
    | 4 => classOk 2 f.fd (classOk 2 f.fa (classOk 2 f.fb (zeroed (w1 == 0 && f.fc == 0) (.dmin (reg2 f.fd) (reg2 f.fa) (reg2 f.fb)))))
    | _ => .error .badFn))
  | 0xC4 => fn0 f (noElect f (classOk 2 f.fd (classOk 2 f.fa (zeroed (w1 == 0 && f.fc == 0) (.daff (reg2 f.fd) (reg2 f.fa) f.fb)))))
  | 0xC5 => fn0 f (classOk 2 f.fa (withV w1 fun v => zeroed (f.fb == 0 && f.fc == 0) (.dmom f.e f.fd (reg2 f.fa) v)))
  | 0xC6 => fn0 f (classOk 2 f.fa (withV w1 fun v => zeroed (f.fb == 0 && f.fc == 0) (.dqnt f.e f.fd (reg2 f.fa) v)))
  | 0xC7 => fn0 f (noElect f (if w1.extractLsb' 17 15 != 0 then .error .mustBeZero else if w1.getLsbD 16 then classOk 2 f.fa (zeroed (f.fb == 0 && f.fc == 0 && w1.extractLsb' 0 16 == 0) (.dlinGet f.fd (reg2 f.fa))) else classOk 2 f.fd (zeroed (f.fa == 0 && f.fb == 0 && f.fc == 0) (.dlinSet (reg2 f.fd) (w1.extractLsb' 0 16)))))
  | 0xD0 => fn0 f (noElect f (zeroed (w1.extractLsb' 6 26 == 0 && f.fd == 0 && f.fb == 0 && f.fc == 0) (.tdset f.fa (w1.extractLsb' 0 6))))
  | 0xD1 => fn0 f (noElect f (zeroed (w1.extractLsb' 6 26 == 0 && f.fd == 0 && f.fb == 0 && f.fc == 0) (.tdget f.fa (w1.extractLsb' 0 6))))
  | 0xD2 => fn0 f (noElect f (zeroed (f.fa == 0 && f.fb == 0 && f.fc == 0) (.lsta f.fd (TForm.unpack w1 w2))))
  | 0xD3 => fn0 f (noElect f (zeroed (w1 == 0 && f.fd == 0 && f.fa == 0 && f.fb == 0 && f.fc == 0) .mswap))
  | 0xD4 => fn0 f (noElect f (zeroed (f.fa == 0 && f.fc == 0 && (f.fb.getLsbD 3 || f.fb == 0)) (if f.fb.getLsbD 3 then .mstrmRing f.fd (reg3 f.fb) (TForm.unpack w1 w2) else .mstrm f.fd (TForm.unpack w1 w2))))
  | 0xD5 => fn0 f (noElect f (zeroed (f.fa == 0 && f.fc.extractLsb' 1 3 == 0 && (f.fb.getLsbD 3 || f.fb == 0)) (if f.fb.getLsbD 3 then .moutRing f.fd (reg3 f.fb) (f.fc.getLsbD 0) (TForm.unpack w1 w2) else .mout f.fd (f.fc.getLsbD 0) (TForm.unpack w1 w2))))
  | 0xD6 => fn0 f (noElect f (zeroed (f.fa == 0 && f.fb == 0 && f.fc == 0) (.mzero f.fd (TForm.unpack w1 w2))))
  | 0xD7 => fn0 f (zeroed (w1 == 0 && f.fa == 0 && f.fb == 0 && f.fc == 0) (.mstat f.e f.fd))
  | _ => .error .opcode

/-- The instruction of a list of words, before the operand limits. -/
def decodeFields (w0 w1 w2 w3 : BitVec 32) : Except DecodeErr Instr :=
  let f := W0.unpack w0
  if f.op.toNat < 0x20 then decSystem f w1 w2
  else if f.op.toNat < 0x40 then decInteger f w1 w2
  else if f.op.toNat < 0x70 then decMemory f w1
  else if f.op.toNat < 0x80 then decCopy f w1 w2 w3
  else if f.op.toNat < 0xA0 then decStrand f w1 w2 w3
  else if f.op.toNat < 0xC0 then decVector f w1
  else decTensor f w1 w2

/-- The operand limits of an instruction's entry come last. -/
def limit (r : Except DecodeErr Instr) : Except DecodeErr Instr :=
  match r with
  | .ok i => if i.wf then .ok i else .error .illFormed
  | .error e => .error e

/-- Decode: the words of one instruction, exactly as many as word 0's len says (R200, R208). -/
def decode (ws : List (BitVec 32)) : Except DecodeErr Instr :=
  match ws with
  | [] => .error .truncated
  | w0 :: rest =>
    let f := W0.unpack w0
    if f.len == 3 then .error .length
    else
      match opWords f.op.toNat with
      | none => .error .opcode
      | some n =>
        if n ≠ f.len.toNat + 2 then .error .wrongLen
        else
          match n, rest with
          | 2, [w1] => limit (decodeFields w0 w1 0 0)
          | 3, [w1, w2] => limit (decodeFields w0 w1 w2 0)
          | 4, [w1, w2, w3] => limit (decodeFields w0 w1 w2 w3)
          | _, _ => .error .truncated

/-- Little-endian words of a byte list (R200); a tail shorter than a word is dropped. -/
def wordsOfBytes : List Byte → List (BitVec 32)
  | b0 :: b1 :: b2 :: b3 :: rest => (b3 ++ b2 ++ b1 ++ b0 : BitVec 32) :: wordsOfBytes rest
  | _ => []

/-- Decode the bytes of one instruction in address order. -/
def decodeBytes (bs : List Byte) : Except DecodeErr Instr := decode (wordsOfBytes bs)

/-- Bytes of the instruction whose word 0 is w (R200, R202); none for len = 11. -/
def lengthOf (w : BitVec 32) : Option Nat :=
  let len := (W0.unpack w).len
  if len == 3 then none else some (8 + 4 * len.toNat)

/-! The encoder, from the same tables. -/

def W0.pack (f : W0) : BitVec 32 :=
  f.fc ++ f.fb ++ f.fa ++ f.fd ++ f.fn ++ BitVec.ofBool f.e ++ f.op ++ f.len

def Size.code : Size → BitVec 3
  | .b => 0 | .h => 1 | .w => 2 | .d => 3 | .q => 4
def Order.code : Order → BitVec 2
  | .rlx => 0 | .acq => 1 | .rel => 2 | .ar => 3
def Scope.code : Scope → BitVec 3
  | .core => 0 | .quad => 1 | .die => 2 | .pkg => 3 | .pod => 4 | .sys => 5
def Rnd.code : Rnd → BitVec 3
  | .rne => 0 | .rtz => 1 | .rdn => 2 | .rup => 3 | .rna => 4 | .dyn => 7
def ElemType.code : ElemType → BitVec 4
  | .i8 => 0 | .i16 => 1 | .i32 => 2 | .f32 => 8 | .bf16 => 9 | .f16 => 10 | .e4m3 => 11 | .e5m2 => 12
def Cond.code : Cond → BitVec 5
  | .eq => 0 | .ne => 1 | .lt => 2 | .ge => 3 | .ltN => 4 | .geN => 5
def AmoOp.code : AmoOp → BitVec 5
  | .add => 0 | .and => 1 | .or => 2 | .xor => 3 | .min => 4 | .max => 5 | .minN => 6 | .maxN => 7 | .swap => 8 | .faddF32 => 9
def RedOp.code : RedOp → BitVec 5
  | .add => 0 | .and => 1 | .or => 2 | .xor => 3 | .min => 4 | .max => 5 | .minN => 6 | .maxN => 7 | .faddF32 => 8 | .faddBf16 => 9
def VredOp.code : VredOp → BitVec 5
  | .add => 0 | .min => 1 | .max => 2 | .and => 3 | .or => 4 | .xor => 5

def MForm.pack (m : MForm) : BitVec 32 :=
  (0 : BitVec 3) ++ BitVec.ofBool m.zx ++ m.size.code ++ m.order.code ++ m.scope.code ++ m.disp
def VForm.pack (v : VForm) : BitVec 32 :=
  v.imm ++ v.aux ++ BitVec.ofBool v.sat ++ v.rnd.code ++ v.type.code ++ (0 : BitVec 1) ++ v.mask
def TForm.pack1 (t : TForm) : BitVec 32 := t.count ++ t.row0 ++ t.tb ++ t.ta
def TForm.pack2 (t : TForm) : BitVec 32 := t.noff ++ t.koff
def CForm.pack1 (c : CForm) : BitVec 32 := (0 : BitVec 1) ++ c.scope.code ++ c.bph ++ BitVec.ofBool c.bv ++ c.boff
def CForm.pack2 (c : CForm) : BitVec 32 := c.yf ++ c.xf
def CForm.pack3 (c : CForm) : BitVec 32 := c.sstr ++ c.dstr

/-- A narrow register number in a 4-bit field. -/
def wide {k : Nat} (r : BitVec k) : BitVec 4 := r.zeroExtend 4

/-- Word 0 of an instruction. -/
def head (len : BitVec 2) (op : BitVec 8) (fn : BitVec 5) (e : Bool) (fd fa fb fc : BitVec 4) : BitVec 32 :=
  W0.pack (W0.mk fc fb fa fd fn e op len)

/-- The words of an encoded instruction (R200 to R205, R209); an event has none. -/
def encode : Instr → List (BitVec 32)
  | .nop e => [head 0 0x01 0 e 0 0 0 0, 0]
  | .j d => [head 0 0x02 0 false 0 0 0 0, d]
  | .jl rd d => [head 0 0x03 0 false rd 0 0 0, d]
  | .jr ra => [head 0 0x04 0 false 0 ra 0 0, 0]
  | .jlr rd ra => [head 0 0x05 0 false rd ra 0 0, 0]
  | .bCc cc ra rb d => [head 0 0x06 cc.code false 0 ra rb 0, d]
  | .biCc cc ra imm d => [head 1 0x07 cc.code false 0 ra 0 0, d, imm]
  | .trap i => [head 0 0x08 0 false 0 0 0 0, i]
  | .tret => [head 0 0x09 0 false 0 0 0 0, 0]
  | .brk i => [head 0 0x0A 0 false 0 0 0 0, i]
  | .srd e rd n => [head 0 0x0B 0 e rd 0 0 0, ((0 : BitVec 20) ++ n : BitVec 32)]
  | .swr e ra n => [head 0 0x0C 0 e 0 ra 0 0, ((0 : BitVec 20) ++ n : BitVec 32)]
  | .ifence => [head 0 0x0D 0 false 0 0 0 0, 0]
  | .sleep rd i => [head 0 0x0E 0 false rd 0 0 0, i]
  | .xlat e rd ra d => [head 0 0x0F 0 e rd ra 0 0, ((0 : BitVec 12) ++ d : BitVec 32)]
  | .rep n k st => [head 0 0x10 0 false 0 0 0 0, ((0 : BitVec 17) ++ st ++ k ++ n : BitVec 32)]
  | .add e rd ra rb => [head 0 0x20 0 e rd ra rb 0, 0]
  | .sub e rd ra rb => [head 0 0x20 1 e rd ra rb 0, 0]
  | .and e rd ra rb => [head 0 0x20 2 e rd ra rb 0, 0]
  | .or e rd ra rb => [head 0 0x20 3 e rd ra rb 0, 0]
  | .xor e rd ra rb => [head 0 0x20 4 e rd ra rb 0, 0]
  | .andn e rd ra rb => [head 0 0x20 5 e rd ra rb 0, 0]
  | .shl e rd ra rb => [head 0 0x20 6 e rd ra rb 0, 0]
  | .shr e rd ra rb => [head 0 0x20 7 e rd ra rb 0, 0]
  | .sar e rd ra rb => [head 0 0x20 8 e rd ra rb 0, 0]
  | .ror e rd ra rb => [head 0 0x20 9 e rd ra rb 0, 0]
  | .min e rd ra rb => [head 0 0x20 10 e rd ra rb 0, 0]
  | .max e rd ra rb => [head 0 0x20 11 e rd ra rb 0, 0]
  | .minN e rd ra rb => [head 0 0x20 12 e rd ra rb 0, 0]
  | .maxN e rd ra rb => [head 0 0x20 13 e rd ra rb 0, 0]
  | .addi e rd ra imm => [head 0 0x21 0 e rd ra 0 0, imm]
  | .subi e rd ra imm => [head 0 0x21 1 e rd ra 0 0, imm]
  | .andi e rd ra imm => [head 0 0x21 2 e rd ra 0 0, imm]
  | .ori e rd ra imm => [head 0 0x21 3 e rd ra 0 0, imm]
  | .xori e rd ra imm => [head 0 0x21 4 e rd ra 0 0, imm]
  | .andni e rd ra imm => [head 0 0x21 5 e rd ra 0 0, imm]
  | .shli e rd ra imm => [head 0 0x21 6 e rd ra 0 0, imm]
  | .shri e rd ra imm => [head 0 0x21 7 e rd ra 0 0, imm]
  | .sari e rd ra imm => [head 0 0x21 8 e rd ra 0 0, imm]
  | .rori e rd ra imm => [head 0 0x21 9 e rd ra 0 0, imm]
  | .mini e rd ra imm => [head 0 0x21 10 e rd ra 0 0, imm]
  | .maxi e rd ra imm => [head 0 0x21 11 e rd ra 0 0, imm]
  | .miniN e rd ra imm => [head 0 0x21 12 e rd ra 0 0, imm]
  | .maxiN e rd ra imm => [head 0 0x21 13 e rd ra 0 0, imm]
  | .mul e rd ra rb => [head 0 0x22 0 e rd ra rb 0, 0]
  | .mulh e rd ra rb => [head 0 0x22 1 e rd ra rb 0, 0]
  | .mulhN e rd ra rb => [head 0 0x22 2 e rd ra rb 0, 0]
  | .div e rd ra rb => [head 0 0x22 3 e rd ra rb 0, 0]
  | .divN e rd ra rb => [head 0 0x22 4 e rd ra rb 0, 0]
  | .rem e rd ra rb => [head 0 0x22 5 e rd ra rb 0, 0]
  | .remN e rd ra rb => [head 0 0x22 6 e rd ra rb 0, 0]
  | .muli e rd ra imm => [head 0 0x23 0 e rd ra 0 0, imm]
  | .clz e rd ra => [head 0 0x24 0 e rd ra 0 0, 0]
  | .ctz e rd ra => [head 0 0x24 1 e rd ra 0 0, 0]
  | .popc e rd ra => [head 0 0x24 2 e rd ra 0 0, 0]
  | .brev e rd ra => [head 0 0x24 3 e rd ra 0 0, 0]
  | .bswap e rd ra => [head 0 0x24 4 e rd ra 0 0, 0]
  | .ext e rd ra sg w1 lo => [head 0 0x25 0 e rd ra 0 0, ((0 : BitVec 19) ++ BitVec.ofBool sg ++ w1 ++ lo : BitVec 32)]
  | .ins e rd ra w1 lo => [head 0 0x26 0 e rd ra 0 0, ((0 : BitVec 20) ++ w1 ++ lo : BitVec 32)]
  | .setCc e cc rd ra rb => [head 0 0x27 cc.code e rd ra rb 0, 0]
  | .setiCc e cc rd ra imm => [head 0 0x28 cc.code e rd ra 0 0, imm]
  | .sel e rd ra rb rc => [head 0 0x29 0 e rd ra rb rc, 0]
  | .movi e rd imm => [head 1 0x2A 0 e rd 0 0 0, imm.extractLsb' 0 32, imm.extractLsb' 32 32]
  | .addsh e rd ra rb sh => [head 0 0x2B 0 e rd ra rb 0, ((0 : BitVec 26) ++ sh : BitVec 32)]
  | .addpc e rd imm => [head 0 0x2C 0 e rd 0 0 0, imm]
  | .ld e rd ra m => [head 0 0x40 0 e rd ra 0 0, m.pack]
  | .st e ra rc m => [head 0 0x41 0 e 0 ra 0 rc, m.pack]
  | .ldx e rd ra rb m => [head 0 0x42 0 e rd ra rb 0, m.pack]
  | .stx e ra rb rc m => [head 0 0x43 0 e 0 ra rb rc, m.pack]
  | .bld e rd ra rb m => [head 0 0x44 0 e rd ra rb 0, m.pack]
  | .bst e ra rb rc m => [head 0 0x45 0 e 0 ra rb rc, m.pack]
  | .pf ra m => [head 0 0x46 0 false 0 ra 0 0, m.pack]
  | .cwb ra m => [head 0 0x47 0 false 0 ra 0 0, m.pack]
  | .cinv ra m => [head 0 0x48 0 false 0 ra 0 0, m.pack]
  | .fence k sc => [head 0 0x49 ((0 : BitVec 1) ++ k) false 0 0 0 0, (MForm.pack (MForm.mk false .b .rlx sc 0))]
  | .wosc => [head 0 0x4A 0 false 0 0 0 0, 0]
  | .amo e op rd ra rc m => [head 0 0x60 op.code e rd ra 0 rc, m.pack]
  | .cas e rd ra rb rc m => [head 0 0x61 0 e rd ra rb rc, m.pack]
  | .red e op ra rc m => [head 0 0x62 op.code e 0 ra 0 rc, m.pack]
  | .binit ra rb m => [head 0 0x63 0 false 0 ra rb 0, m.pack]
  | .barr rd ra m => [head 0 0x64 0 false rd ra 0 0, m.pack]
  | .bexp ra rc m => [head 0 0x65 0 false 0 ra 0 rc, m.pack]
  | .bwait rd ra rb m => [head 0 0x66 0 false rd ra rb 0, m.pack]
  | .btest rd ra rb m => [head 0 0x67 0 false rd ra rb 0, m.pack]
  | .nbar rd lv gr => [head 0 0x68 0 false rd 0 0 0, ((0 : BitVec 21) ++ lv.code ++ gr : BitVec 32)]
  | .arm ra rb rc m => [head 0 0x69 0 false 0 ra rb rc, m.pack]
  | .cpy rd ra rb rc c => [head 2 0x70 0 false rd ra rb rc, c.pack1, c.pack2, c.pack3]
  | .cpy2 rd ra rb rc c => [head 2 0x71 0 false rd ra rb rc, c.pack1, c.pack2, c.pack3]
  | .cpym rd ra rb rc c => [head 2 0x72 0 false rd ra rb rc, c.pack1, c.pack2, c.pack3]
  | .cpyq rd q rb rc c => [head 2 0x73 0 false rd (wide q) rb rc, c.pack1, c.pack2, c.pack3]
  | .qcfg q ra => [head 0 0x74 0 false (wide q) ra 0 0, 0]
  | .qpush q ra => [head 0 0x75 0 false (wide q) ra 0 0, 0]
  | .qpop q ra => [head 0 0x76 0 false (wide q) ra 0 0, 0]
  | .qstat rd q => [head 0 0x77 0 false rd (wide q) 0 0, 0]
  | .isub rd ra rb q c => [head 2 0x78 0 false rd ra rb (wide q), c.pack1, c.pack2, c.pack3]
  | .osub rd ra rb q c => [head 2 0x79 0 false rd ra rb (wide q), c.pack1, c.pack2, c.pack3]
  | .unsub rd => [head 0 0x7A 0 false rd 0 0 0, 0]
  | .cpyres rd ra => [head 0 0x7B 0 false rd ra 0 0, 0]
  | .fork ra rb rc d => [head 0 0x80 0 false 0 ra rb rc, d]
  | .spawn ra rb => [head 0 0x81 0 false 0 ra rb 0, 0]
  | .join ra m => [head 0 0x82 0 false 0 ra 0 0, m.pack]
  | .jdec ra m => [head 0 0x83 0 false 0 ra 0 0, m.pack]
  | .exit => [head 0 0x84 0 false 0 0 0 0, 0]
  | .yield => [head 0 0x85 0 false 0 0 0 0, 0]
  | .migr ra => [head 0 0x86 0 false 0 ra 0 0, 0]
  | .pin => [head 0 0x87 0 false 0 0 0 0, 0]
  | .unpin => [head 0 0x87 1 false 0 0 0 0, 0]
  | .gang ra => [head 0 0x88 0 false 0 ra 0 0, 0]
  | .taskr rd ra rb rc c => [head 2 0x89 0 false rd ra rb rc, c.pack1, c.pack2, c.pack3]
  | .tasks rd ra rb y x => [head 1 0x8A 0 false rd ra rb 0, ((0 : BitVec 16) ++ y ++ x : BitVec 32), 0]
  | .tdone ra => [head 0 0x8B 0 false 0 ra 0 0, 0]
  | .chan rd ra rb es ld => [head 0 0x90 0 false rd ra rb 0, ((0 : BitVec 25) ++ es ++ ld : BitVec 32)]
  | .snd rd ra rc => [head 0 0x91 0 false rd ra 0 rc, 0]
  | .sndb rd ra rc => [head 0 0x91 1 false rd ra 0 rc, 0]
  | .sndj rd ra rc => [head 0 0x91 2 false rd ra 0 rc, 0]
  | .rcv rd ra rb rc => [head 0 0x92 0 false rd ra rb rc, 0]
  | .trcv rd ra rb rc => [head 0 0x93 0 false rd ra rb rc, 0]
  | .close ra => [head 0 0x94 0 false 0 ra 0 0, 0]
  | .dropj ra => [head 0 0x95 0 false 0 ra 0 0, 0]
  | .movj rd ra => [head 0 0x96 0 false rd ra 0 0, 0]
  | .jkind rd ra => [head 0 0x97 0 false rd ra 0 0, 0]
  | .grant rd st ix => [head 0 0x98 0 false rd 0 0 0, ((0 : BitVec 24) ++ st ++ ix : BitVec 32)]
  | .gdup rd ra => [head 0 0x99 0 false rd ra 0 0, 0]
  | .mcmd rd ra rb t => [head 1 0x9A 0 false rd ra rb 0, t.pack1, t.pack2]
  | .lnch rd ra rb d => [head 0 0x9B 0 false rd ra rb 0, ((0 : BitVec 12) ++ d : BitVec 32)]
  | .lwait rd ra => [head 0 0x9C 0 false rd ra 0 0, 0]
  | .labrt ra => [head 0 0x9D 0 false 0 ra 0 0, 0]
  | .vld e vd ra v => [head 0 0xA0 0 e vd ra 0 0, v.pack]
  | .vldRing e vd q v => [head 0 0xA0 0 e vd (wide q) 0 0, v.pack]
  | .vst ra vc v => [head 0 0xA1 0 false 0 ra 0 vc, v.pack]
  | .vstRing q vc v => [head 0 0xA1 0 false 0 (wide q) 0 vc, v.pack]
  | .vldg e vd ra vb v => [head 0 0xA2 0 e vd ra vb 0, v.pack]
  | .vsts ra vb vc v => [head 0 0xA3 0 false 0 ra vb vc, v.pack]
  | .vadd vd va vb v => [head 0 0xA4 0 false vd va vb 0, v.pack]
  | .vsub vd va vb v => [head 0 0xA4 1 false vd va vb 0, v.pack]
  | .vmul vd va vb v => [head 0 0xA4 2 false vd va vb 0, v.pack]
  | .vand vd va vb v => [head 0 0xA4 3 false vd va vb 0, v.pack]
  | .vor vd va vb v => [head 0 0xA4 4 false vd va vb 0, v.pack]
  | .vxor vd va vb v => [head 0 0xA4 5 false vd va vb 0, v.pack]
  | .vshl vd va vb v => [head 0 0xA4 6 false vd va vb 0, v.pack]
  | .vshr vd va vb v => [head 0 0xA4 7 false vd va vb 0, v.pack]
  | .vsar vd va vb v => [head 0 0xA4 8 false vd va vb 0, v.pack]
  | .vmin vd va vb v => [head 0 0xA4 9 false vd va vb 0, v.pack]
  | .vmax vd va vb v => [head 0 0xA4 10 false vd va vb 0, v.pack]
  | .vminN vd va vb v => [head 0 0xA4 11 false vd va vb 0, v.pack]
  | .vmaxN vd va vb v => [head 0 0xA4 12 false vd va vb 0, v.pack]
  | .vfadd vd va vb v => [head 0 0xA5 0 false vd va vb 0, v.pack]
  | .vfsub vd va vb v => [head 0 0xA5 1 false vd va vb 0, v.pack]
  | .vfmul vd va vb v => [head 0 0xA5 2 false vd va vb 0, v.pack]
  | .vfmin vd va vb v => [head 0 0xA5 3 false vd va vb 0, v.pack]
  | .vfmax vd va vb v => [head 0 0xA5 4 false vd va vb 0, v.pack]
  | .vfdiv vd va vb v => [head 0 0xA5 5 false vd va vb 0, v.pack]
  | .vfsqrt vd va v => [head 0 0xA5 6 false vd va 0 0, v.pack]
  | .vfrcp vd va v => [head 0 0xA5 7 false vd va 0 0, v.pack]
  | .vfrsq vd va v => [head 0 0xA5 8 false vd va 0 0, v.pack]
  | .vfma vd va vb vc v => [head 0 0xA6 0 false vd va vb vc, v.pack]
  | .vfms vd va vb vc v => [head 0 0xA6 1 false vd va vb vc, v.pack]
  | .vfnma vd va vb vc v => [head 0 0xA6 2 false vd va vb vc, v.pack]
  | .vcvt vd va v => [head 0 0xA7 0 false vd va 0 0, v.pack]
  | .vcmpCc cc md va vb v => [head 0 0xA8 cc.code false (wide md) va vb 0, v.pack]
  | .vsel vd va vb mc v => [head 0 0xA9 0 false vd va vb (wide mc), v.pack]
  | .vred e op vd va v => [head 0 0xAA op.code e vd va 0 0, v.pack]
  | .vperm vd va vb v => [head 0 0xAB 0 false vd va vb 0, v.pack]
  | .vbc vd ra v => [head 0 0xAC 0 false vd ra 0 0, v.pack]
  | .vmvgToG e rd va v => [head 0 0xAD 0 e rd va 0 0, v.pack]
  | .vmvgToV e vd ra v => [head 0 0xAD 0 e vd ra 0 0, v.pack]
  | .vhad vd va rb rc v => [head 0 0xAE 0 false vd va rb rc, v.pack]
  | .qnt vd va rb v => [head 0 0xAF 0 false vd va rb 0, v.pack]
  | .mand md ma mb => [head 0 0xB0 0 false (wide md) (wide ma) (wide mb) 0, 0]
  | .mor md ma mb => [head 0 0xB0 1 false (wide md) (wide ma) (wide mb) 0, 0]
  | .mxor md ma mb => [head 0 0xB0 2 false (wide md) (wide ma) (wide mb) 0, 0]
  | .mnot md ma => [head 0 0xB0 3 false (wide md) (wide ma) 0 0, 0]
  | .mpop rd ma => [head 0 0xB0 4 false rd (wide ma) 0 0, 0]
  | .mset md ra => [head 0 0xB0 5 false (wide md) ra 0 0, 0]
  | .vrel => [head 0 0xB1 0 false 0 0 0 0, 0]
  | .dfrom dd va vb v => [head 0 0xC0 0 false (wide dd) va vb 0, v.pack]
  | .dld e dd ra rb v => [head 0 0xC1 0 e (wide dd) ra rb 0, v.pack]
  | .dst ra dc v => [head 0 0xC2 0 false 0 ra 0 (wide dc), v.pack]
  | .dadd dd da db => [head 0 0xC3 0 false (wide dd) (wide da) (wide db) 0, 0]
  | .dsub dd da db => [head 0 0xC3 1 false (wide dd) (wide da) (wide db) 0, 0]
  | .dmul dd da db => [head 0 0xC3 2 false (wide dd) (wide da) (wide db) 0, 0]
  | .dmax dd da db => [head 0 0xC3 3 false (wide dd) (wide da) (wide db) 0, 0]
  | .dmin dd da db => [head 0 0xC3 4 false (wide dd) (wide da) (wide db) 0, 0]
  | .daff dd da rb => [head 0 0xC4 0 false (wide dd) (wide da) rb 0, 0]
  | .dmom e vd da v => [head 0 0xC5 0 e vd (wide da) 0 0, v.pack]
  | .dqnt e vd da v => [head 0 0xC6 0 e vd (wide da) 0 0, v.pack]
  | .dlinSet dd lin => [head 0 0xC7 0 false (wide dd) 0 0 0, ((0 : BitVec 16) ++ lin : BitVec 32)]
  | .dlinGet rd da => [head 0 0xC7 0 false rd (wide da) 0 0, 0x00010000]
  | .tdset ra t => [head 0 0xD0 0 false 0 ra 0 0, ((0 : BitVec 26) ++ t : BitVec 32)]
  | .tdget ra t => [head 0 0xD1 0 false 0 ra 0 0, ((0 : BitVec 26) ++ t : BitVec 32)]
  | .lsta rd t => [head 1 0xD2 0 false rd 0 0 0, t.pack1, t.pack2]
  | .mswap => [head 0 0xD3 0 false 0 0 0 0, 0]
  | .mstrm rd t => [head 1 0xD4 0 false rd 0 0 0, t.pack1, t.pack2]
  | .mstrmRing rd q t => [head 1 0xD4 0 false rd 0 ((1 : BitVec 1) ++ q) 0, t.pack1, t.pack2]
  | .mout rd cl t => [head 1 0xD5 0 false rd 0 0 (wide (BitVec.ofBool cl)), t.pack1, t.pack2]
  | .moutRing rd q cl t => [head 1 0xD5 0 false rd 0 ((1 : BitVec 1) ++ q) (wide (BitVec.ofBool cl)), t.pack1, t.pack2]
  | .mzero rd t => [head 1 0xD6 0 false rd 0 0 0, t.pack1, t.pack2]
  | .mstat e rd => [head 0 0xD7 0 e rd 0 0 0, 0]
  | _ => []

/-- The instructions that have an encoding. -/
def Instr.encoded (i : Instr) : Bool := !(encode i).isEmpty

/-- The 32-bit words of a number's low bits, word 0 first. -/
def wordsOfNat : Nat → Nat → List (BitVec 32)
  | 0, _ => []
  | k + 1, w => BitVec.ofNat 32 w :: wordsOfNat k (w / 2 ^ 32)

/-- What the decoder reads from an instruction whose low `nbits` bits are `w`, the bits above them zero, numbered with bit 0 the
least significant bit of word 0 (R200). -/
def decodeTableWord (nbits w : Nat) : Option Instr :=
  let v := w % 2 ^ nbits
  let w0 := BitVec.ofNat 32 v
  match lengthOf w0 with
  | none => none
  | some n => (decode (wordsOfNat (n / 4) v)).toOption

end Sys2Proof
end

