-- ==== Sys2Proof/Machine/Float.lean ====
section
/-! DEFINITION. Floating formats, exact values and the one rounding (R210 to R215, R79). -/

namespace Sys2Proof.Machine

/-- A floating format (Table 10.2): exponent and fraction bits, bias, whether it has infinities and NaNs; E4M3 has its one NaN
code only. -/
structure Fmt where
  ebits : Nat
  fbits : Nat
  bias  : Nat
  inf   : Bool
  nan   : Bool
  deriving DecidableEq, Repr

def fp32 : Fmt := { ebits := 8, fbits := 23, bias := 127, inf := true, nan := true }
def bf16 : Fmt := { ebits := 8, fbits := 7, bias := 127, inf := true, nan := true }
def fp16 : Fmt := { ebits := 5, fbits := 10, bias := 15, inf := true, nan := true }
def e5m2 : Fmt := { ebits := 5, fbits := 2, bias := 15, inf := true, nan := true }
def e4m3 : Fmt := { ebits := 4, fbits := 3, bias := 7, inf := false, nan := true }
def e2m1 : Fmt := { ebits := 2, fbits := 1, bias := 1, inf := false, nan := false }

/-- Width of a format. -/
def Fmt.width (f : Fmt) : Nat := 1 + f.ebits + f.fbits

/-- An exact value: NaN, an infinity, or (-1)^neg m 2^e; zeros keep their sign. -/
inductive Ext
  | nan
  | inf (neg : Bool)
  | fin (neg : Bool) (m : Nat) (e : Int)
  deriving DecidableEq, Repr

/-- The value of a code (R211). -/
def Fmt.value (f : Fmt) (x : Nat) : Ext :=
  let frac := x % 2 ^ f.fbits
  let ex := x / 2 ^ f.fbits % 2 ^ f.ebits
  let neg := x / 2 ^ (f.fbits + f.ebits) % 2 == 1
  if ex = 2 ^ f.ebits - 1 ∧ f.inf then (if frac = 0 then .inf neg else .nan)
  else if ex = 2 ^ f.ebits - 1 ∧ f.nan ∧ frac = 2 ^ f.fbits - 1 then .nan
  else if ex = 0 then .fin neg frac (1 - (f.bias : Int) - f.fbits)
  else .fin neg (2 ^ f.fbits + frac) ((ex : Int) - f.bias - f.fbits)

/-- The canonical NaN (Table 10.2). -/
def Fmt.nanCode (f : Fmt) : Nat :=
  if f.inf then (2 ^ f.ebits - 1) * 2 ^ f.fbits + 2 ^ (f.fbits - 1) else 2 ^ (f.ebits + f.fbits) - 1

/-- The code of an infinity. -/
def Fmt.infCode (f : Fmt) (neg : Bool) : Nat := neg.toNat * 2 ^ (f.ebits + f.fbits) + (2 ^ f.ebits - 1) * 2 ^ f.fbits

/-- The code of the largest finite magnitude (Table 10.2). -/
def Fmt.maxCode (f : Fmt) (neg : Bool) : Nat :=
  neg.toNat * 2 ^ (f.ebits + f.fbits) +
    (if f.inf then (2 ^ f.ebits - 1) * 2 ^ f.fbits - 1 else if f.nan then 2 ^ (f.ebits + f.fbits) - 2
     else 2 ^ (f.ebits + f.fbits) - 1)

/-- The code of a zero. -/
def Fmt.zeroCode (f : Fmt) (neg : Bool) : Nat := neg.toNat * 2 ^ (f.ebits + f.fbits)

/-- A rounding mode (Table 10.3). -/
inductive Mode | rne | rtz | rdn | rup | rna
  deriving DecidableEq, Repr, Inhabited

/-- The mode of a code in FSTAT.RM; SWR keeps it below 5 (R213). -/
def modeOf (rm : Nat) : Mode :=
  if rm = 1 then .rtz else if rm = 2 then .rdn else if rm = 3 then .rup else if rm = 4 then .rna else .rne

/-- The sticky flags at their places in FLAGS: NV, DZ, OF, UF, NX from bit 4 down (Table 10.3). -/
def flagNV : BitVec 5 := 16
def flagDZ : BitVec 5 := 8
def flagOF : BitVec 5 := 4
def flagUF : BitVec 5 := 2
def flagNX : BitVec 5 := 1

/-- The number of bits of a number. -/
def bitLen (n : Nat) : Nat := if n = 0 then 0 else n.log2 + 1

/-- Whether a magnitude with remainder `rem` of `2^sh` (and a sticky part below it) rounds away from zero (R214). -/
def roundsUp (mode : Mode) (neg : Bool) (sig rem sh : Nat) (sticky : Bool) : Bool :=
  let twice := 4 * rem + sticky.toNat
  let one := 2 * 2 ^ sh
  match mode with
  | .rne => decide (one < twice) || (twice == one && sig % 2 == 1 && sh != 0)
  | .rna => decide (one ≤ twice) && sh != 0
  | .rtz => false
  | .rdn => neg && decide (0 < twice)
  | .rup => ! neg && decide (0 < twice)

/-- The result of an overflow (Table 10.4). -/
def Fmt.overflow (f : Fmt) (mode : Mode) (sat neg : Bool) : Nat :=
  if sat then f.maxCode neg
  else if ! f.inf then (if f.nan then f.nanCode else f.maxCode neg)
  else
    match mode with
    | .rne | .rna => f.infCode neg
    | .rtz => f.maxCode neg
    | .rdn => if neg then f.infCode true else f.maxCode false
    | .rup => if neg then f.maxCode true else f.infCode false

/-- Rounds (-1)^neg (m + a sticky part below 1) 2^e to a format, with the flags (R214). -/
def Fmt.round (f : Fmt) (mode : Mode) (sat neg : Bool) (m : Nat) (e : Int) (sticky : Bool) : Nat × BitVec 5 :=
  if m = 0 ∧ ! sticky then (f.zeroCode neg, 0)
  else
    let top : Int := e + bitLen m - 1
    let low : Int := 1 - (f.bias : Int) - f.fbits
    let q := if low ≤ top - f.fbits then top - f.fbits else low
    let sh := (q - e).toNat
    let m' := m * 2 ^ (e - q).toNat
    let sig := m' / 2 ^ sh
    let rem := m' % 2 ^ sh
    let inexact := rem != 0 || sticky
    let sig := if roundsUp mode neg sig rem sh sticky then sig + 1 else sig
    let (sig, q) := if 2 ^ (f.fbits + 1) ≤ sig then (sig / 2, q + 1) else (sig, q)
    let nx := if inexact then flagNX else 0
    let maxSig := if f.inf ∨ ! f.nan then 2 ^ (f.fbits + 1) - 1 else 2 ^ (f.fbits + 1) - 2
    let maxQ : Int := (2 ^ f.ebits - 1 : Nat) - (if f.inf then 1 else 0) - (f.bias : Int) - f.fbits
    if maxQ < q ∨ (q = maxQ ∧ maxSig < sig) then (f.overflow mode sat neg, flagOF ||| flagNX)
    else if sig < 2 ^ f.fbits then
      (f.zeroCode neg + sig, nx ||| (if inexact ∧ sig ≠ 0 then flagUF else 0))
    else
      (f.zeroCode neg + (q + f.bias + f.fbits).toNat * 2 ^ f.fbits + (sig - 2 ^ f.fbits), nx)

/-- Rounds an exact value; infinities go to infinities, or to NaN or the largest value where there is none (R215). DESIGN CHOICE (log 81): an
infinity brought to a format without infinities sets no flag, since R215 names none. -/
def Fmt.ofExt (f : Fmt) (mode : Mode) (sat : Bool) : Ext → Nat × BitVec 5
  | .nan => (f.nanCode, 0)
  | .inf neg =>
    if f.inf then (f.infCode neg, 0)
    else if f.nan ∧ ! sat then (f.nanCode, 0) else (f.maxCode neg, 0)
  | .fin neg m e => f.round mode sat neg m e false

/-- A finite value as an integer multiple of 2^e for some `e` at or below its own exponent. -/
def scaled (neg : Bool) (m : Nat) (e e' : Int) : Int :=
  (if neg then -1 else 1) * (m * 2 ^ (e - e').toNat : Nat)

/-- An integer multiple of 2^e as an exact value; a zero has the sign given. -/
def Ext.ofScaled (n : Int) (e : Int) (zeroNeg : Bool) : Ext :=
  if n = 0 then .fin zeroNeg 0 e else .fin (decide (n < 0)) n.natAbs e

/-- The exact sum, with the sign an exact zero takes in a mode; true when it creates a NaN (R214). -/
def Ext.add (mode : Mode) (a b : Ext) : Ext × Bool :=
  match a, b with
  | .nan, _ => (.nan, false)
  | _, .nan => (.nan, false)
  | .inf s, .inf t => if s = t then (.inf s, false) else (.nan, true)
  | .inf s, _ => (.inf s, false)
  | _, .inf t => (.inf t, false)
  | .fin s m e, .fin t n e' =>
    let lo := if e ≤ e' then e else e'
    let zs := if m = 0 ∧ n = 0 ∧ s = t then s else mode == .rdn
    (.ofScaled (scaled s m e lo + scaled t n e' lo) lo zs, false)

/-- The negation. -/
def Ext.neg : Ext → Ext
  | .nan => .nan
  | .inf s => .inf (! s)
  | .fin s m e => .fin (! s) m e

/-- The exact product; true when it creates a NaN. -/
def Ext.mul (a b : Ext) : Ext × Bool :=
  match a, b with
  | .nan, _ => (.nan, false)
  | _, .nan => (.nan, false)
  | .inf s, .inf t => (.inf (s != t), false)
  | .inf s, .fin t n _ => if n = 0 then (.nan, true) else (.inf (s != t), false)
  | .fin s m _, .inf t => if m = 0 then (.nan, true) else (.inf (s != t), false)
  | .fin s m e, .fin t n e' => (.fin (s != t) (m * n) (e + e'), false)

/-- A comparison key: less than, on non-NaN values; zeros compare equal. -/
def Ext.lt (a b : Ext) : Bool :=
  match a, b with
  | .nan, _ => false
  | _, .nan => false
  | .inf s, .inf t => s && ! t
  | .inf s, .fin _ _ _ => s
  | .fin _ _ _, .inf t => ! t
  | .fin s m e, .fin t n e' =>
    let lo := if e ≤ e' then e else e'
    decide (scaled s m e lo < scaled t n e' lo)

/-- Equality of values; zeros of both signs are equal. -/
def Ext.eqv (a b : Ext) : Bool :=
  match a, b with
  | .nan, _ => false
  | _, .nan => false
  | .inf s, .inf t => s == t
  | .inf _, .fin _ _ _ => false
  | .fin _ _ _, .inf _ => false
  | .fin s m e, .fin t n e' =>
    let lo := if e ≤ e' then e else e'
    decide (scaled s m e lo = scaled t n e' lo)

/-- Whether a value is NaN. -/
def Ext.isNan : Ext → Bool
  | .nan => true
  | _ => false

/-- The quotient rounded once, with its flags (R214). -/
def Fmt.div (f : Fmt) (mode : Mode) (sat : Bool) (a b : Ext) : Nat × BitVec 5 :=
  match a, b with
  | .nan, _ => (f.nanCode, 0)
  | _, .nan => (f.nanCode, 0)
  | .inf _, .inf _ => (f.nanCode, flagNV)
  | .inf s, .fin t _ _ => f.ofExt mode sat (.inf (s != t))
  | .fin s _ _, .inf t => (f.zeroCode (s != t), 0)
  | .fin s m e, .fin t n e' =>
    if n = 0 then
      if m = 0 then (f.nanCode, flagNV)
      else ((f.ofExt mode sat (.inf (s != t))).1, flagDZ)
    else
      let sh := f.fbits + 3 + bitLen n
      let num := m * 2 ^ sh
      f.round mode sat (s != t) (num / n) (e - e' - sh) (num % n != 0)

/-- The integer square root by bits, from bit `k` down. -/
def isqrtFrom (n : Nat) : (k r : Nat) → Nat
  | 0, r => if (r + 1) * (r + 1) ≤ n then r + 1 else r
  | k + 1, r => isqrtFrom n k (if (r + 2 ^ (k + 1)) * (r + 2 ^ (k + 1)) ≤ n then r + 2 ^ (k + 1) else r)

/-- The square root rounded once, with its flags (R214). -/
def Fmt.sqrt (f : Fmt) (mode : Mode) (sat : Bool) (a : Ext) : Nat × BitVec 5 :=
  match a with
  | .nan => (f.nanCode, 0)
  | .inf s => if s then (f.nanCode, flagNV) else f.ofExt mode sat (.inf false)
  | .fin s m e =>
    if m = 0 then (f.zeroCode s, 0)
    else if s then (f.nanCode, flagNV)
    else
      let sh0 := 2 * (f.fbits + 3)
      let odd := (e - sh0) % 2 != 0
      let sh := if odd then sh0 + 1 else sh0
      let n := m * 2 ^ sh
      let r := isqrtFrom n (bitLen n / 2 + 1) 0
      f.round mode sat false r ((e - sh) / 2) (r * r != n)

/-- A sum of two codes rounded once, with its flags. -/
def Fmt.addCodes (f : Fmt) (mode : Mode) (sat : Bool) (a b : Ext) : Nat × BitVec 5 :=
  let (x, nv) := Ext.add mode a b
  if nv then (f.nanCode, flagNV) else f.ofExt mode sat x

/-- FpAdd32 and FpAddBf16 (R79): RNE, no flags, whatever FSTAT holds. -/
def fpAdd (f : Fmt) (a b : Nat) : Nat := (f.addCodes .rne false (f.value a) (f.value b)).1

/-- The code of an exact value rounded RNE, without flags. -/
def Fmt.rne (f : Fmt) (x : Ext) : Nat := (f.ofExt .rne false x).1

/-- A real m 2^e rounded to an integer by a mode (R215): the integer and whether it is exact. -/
def roundInt (mode : Mode) (neg : Bool) (m : Nat) (e : Int) : Int × Bool :=
  let sh := (-e).toNat
  let m' := m * 2 ^ e.toNat
  let sig := m' / 2 ^ sh
  let rem := m' % 2 ^ sh
  let sig := if roundsUp mode neg sig rem sh false then sig + 1 else sig
  ((if neg then -(sig : Int) else sig), rem == 0)

/-- Float to a signed integer of `n` bits (R215): NaN gives 0, out of range the limit, both with NV alone. DESIGN CHOICE (log 82): the range is
judged on the rounded value. -/
def toInt (mode : Mode) (n : Nat) (a : Ext) : Int × BitVec 5 :=
  match a with
  | .nan => (0, flagNV)
  | .inf s => (if s then -(2 ^ (n - 1) : Nat) else (2 ^ (n - 1) : Nat) - 1, flagNV)
  | .fin s m e =>
    let (r, exact) := roundInt mode s m e
    if r < -(2 ^ (n - 1) : Nat) then (-(2 ^ (n - 1) : Nat), flagNV)
    else if (2 ^ (n - 1) : Nat) - 1 < r then ((2 ^ (n - 1) : Nat) - 1, flagNV)
    else (r, if exact then 0 else flagNX)

/-- Clamps an integer to a signed width (R215). -/
def clampInt (n : Nat) (x : Int) : Int :=
  if x < -(2 ^ (n - 1) : Nat) then -(2 ^ (n - 1) : Nat)
  else if (2 ^ (n - 1) : Nat) - 1 < x then (2 ^ (n - 1) : Nat) - 1 else x

/-- An integer as an exact value. -/
def Ext.ofInt (x : Int) : Ext := .ofScaled x 0 false

end Sys2Proof.Machine
end

