-- ==== Sys2Proof/Machine/Translate.lean ====
section
/-! DEFINITION. Agents, address spaces, memory regions and homes, and what bars a local store (R12 to R16, R32, R55, R56, R168, R298). -/

namespace Sys2Proof.Machine

/-- Who makes an access: the core that performs it, its slot, partition, address space, whether it is the supervisor slot or
a command that slot kicked, whether it is an engine, and a copy engine's, which command of which engine it is (a copy by its quad and
index, a truss command by its core and stream from 2^40 on), the version tag of its live launch (0 for none), its launch, and whether its
packets pass because an earlier one of the same work was admitted (R185), and whether it is a feed. -/
structure Agent where
  core   : Nat
  slot   : Nat
  part   : Nat
  asid   : BitVec 8
  super  : Bool
  engine : Bool
  copy   : Bool
  unit   : Nat
  tag    : BitVec 8
  launch : Option (BitVec 16)
  admitted : Bool
  feed   : Bool
  deriving DecidableEq, Repr

/-- The access classes of Table 1.6. -/
inductive Access
  | load | store | atomic | red | join | prefetch | writeBack | invalidate | fetch
  deriving DecidableEq, Repr

/-- Where an access lands (R13, R18, R40). -/
inductive Place
  | ls   (core off : Nat)
  | phys (pa : Nat) (leaf : BitVec 64)
  | host (ua : Word) (leaf : BitVec 64)
  deriving DecidableEq, Repr

/-- The live launch of a partition with a number (R141). -/
def Part.liveLaunch (p : Part) (lnum : BitVec 16) : Option Launch :=
  p.launches.find? fun l => l.phase == .live && l.parent.isNone && l.lnum == lnum

/-- The version tag of a strand or command: that of its live launch, else 0 (R146). -/
def State.tagOf (s : State) (part : Nat) (member : Bool) (lnum : BitVec 16) : BitVec 8 :=
  if member then
    match (s.partAt part).liveLaunch lnum with
    | some l => l.tag
    | none => 0
  else 0

/-- The issuing strand as an agent. The supervisor slot translates in HASID (R417). -/
def State.me (s : State) : Agent :=
  let x := s.cur
  let p := s.myPart
  { core := s.core, slot := s.slot, part := p, super := s.slot == 15, engine := false, copy := false, unit := 0
    asid := if s.slot = 15 then (s.coreAt s.core).hasid else x.asid
    tag := s.tagOf p x.member x.lnum, launch := if x.member then some x.lnum else none, admitted := false, feed := false }

/-- A command's agent: it translates in the address space fixed at its kick, on the core of its issuer (R417). -/
def State.agentOf (s : State) (o : Owner) : Agent :=
  { core := o.core, slot := o.slot, part := o.part, asid := o.asid, super := o.super, engine := true, copy := false, unit := 0
    tag := s.tagOf o.part o.member o.lnum, launch := if o.member then some o.lnum else none, admitted := false, feed := false }

/-- The unit of a copy by its quad and index (Table 12.7). -/
def copyUnit (quad index : Nat) : Nat := quad * 65536 + index

/-- Whether a truss command runs on the weight-load path (R340). -/
def onWeightPath : Instr → Bool
  | .lsta _ _ => true
  | _ => false

/-- The calls of a partition, its saves and restores have the unit from here on. -/
def callUnit : Nat := 2 ^ 42

/-- The spills, refills and frames of a core's deque and context cache have the unit from here on. -/
def deqUnit : Nat := callUnit + 2 ^ 20

/-- The reductions on their way to their homes have the units from here on, by their numbers. -/
def redUnit : Nat := 2 ^ 43

/-- The unit of a command on a core's truss: its stream, or the weight-load path. -/
def TrussCmd.unit (k : TrussCmd) (core : Nat) : Nat := trussUnit + core * 8 + if onWeightPath k.instr then 4 else k.stream

/-- The unit of a subscription of a die's feed service. -/
def FeedSub.unit (f : FeedSub) (die : Nat) : Nat := feedUnit + die * 65536 + f.index + if f.inward then 0 else 32768

/-! ### Address spaces (R15, R16) -/

/-- The address-space table entry of an ASID (Table 1.3). -/
def State.astEntry (s : State) (asid : BitVec 8) : BitVec 128 := s.sys.ast.get 0 asid.toNat

/-- Whether an ASID is valid and belongs to a partition (R16). -/
def State.asidOwned (s : State) (asid : BitVec 8) (part : Nat) : Bool :=
  let e := s.astEntry asid
  bit e 0 && field e 2 5 == part

/-- Whether an access writes for A and M (R23). -/
def Access.writes : Access → Bool
  | .store | .atomic | .red | .join => true
  | _ => false

/-! ### Regions (R32, R56) -/

/-- The bytes of populated memory: eight dies of 128 GiB (Table 1.2). -/
def populated : Nat := 2 ^ 40

/-- The die that homes a physical address (Table 1.2). -/
def dieOf (pa : Nat) : Nat := pa / 2 ^ 37

/-- The valid region entry that covers an offset within a die (R56). -/
def findRegion (rs : Map (BitVec 256)) (o : Nat) : Option (BitVec 256) :=
  match rs with
  | [] => none
  | (_, e) :: rest =>
    if bit e 0 ∧ field e 1 7 * 2 ^ 30 ≤ o ∧ o < (field e 1 7 + field e 8 7) * 2 ^ 30 then some e else findRegion rest o

/-- A valid entry that R56 calls malformed. -/
def regionMalformed (e : BitVec 256) : Bool :=
  field e 48 64 == 0 || field e 112 128 == 0 || field e 8 7 == 0 || decide (64 < field e 8 7)
    || decide (128 < field e 1 7 + field e 8 7)

/-- The region entry of a physical address. -/
def State.regionOf (s : State) (pa : Nat) : Option (BitVec 256) :=
  findRegion (s.dieAt (dieOf pa)).regions (pa % 2 ^ 37)

/-- What the router at the home answers to a partition's physical access: memory that is not there or whose region is malformed, and memory
outside the regions bound to the partition (R14, R32, R56). -/
inductive HomeCheck | ok | bus | protect
  deriving DecidableEq, Repr

/-- The check of a physical access at its home. -/
def State.homeCheck (s : State) (part pa : Nat) : HomeCheck :=
  if populated ≤ pa then .bus
  else
    match s.regionOf pa with
    | some e => if regionMalformed e then .bus else if field e 15 5 = part then .ok else .protect
    | none => .protect

/-- The n-th set bit of a mask, from 0, ascending (R56). -/
def nthSetBit {n : Nat} (m : BitVec n) (i : Nat) : Nat := ((setBits m)[i]?).getD 0

/-- The granule number within its region and the masks in force (R56). -/
def State.granuleOf (s : State) (pa : Nat) : Nat × BitVec 64 :=
  match s.regionOf pa with
  | some e => ((pa % 2 ^ 37 - field e 1 7 * 2 ^ 30) / 2048, BitVec.ofNat 64 (field e 48 64))
  | none => (pa % 2 ^ 37 / 2048, BitVec.allOnes 64)

/-- The home slice of a physical address: f6 of R56 over the slice mask. -/
def State.homeSlice (s : State) (pa : Nat) : Nat :=
  let (g, mask) := s.granuleOf pa
  let b := BitVec.ofNat 26 g
  let f6 := field b 0 6 ^^^ field b 6 6 ^^^ field b 12 6 ^^^ field b 18 6 ^^^ field b 24 2
  nthSetBit mask (f6 % popCount mask)

/-- The pseudo-channel of a physical address: f7 of R56 over the channel mask; bit 6 is the stack (R59). -/
def State.homeChannel (s : State) (pa : Nat) : Nat :=
  let mask : BitVec 128 := match s.regionOf pa with
    | some e => BitVec.ofNat 128 (field e 112 128)
    | none => BitVec.allOnes 128
  let b := BitVec.ofNat 26 (s.granuleOf pa).1
  let f7 := field b 0 7 ^^^ field b 7 7 ^^^ field b 14 7 ^^^ field b 21 5
  nthSetBit mask (f7 % popCount mask)

/-- The L2 set of a granule in its slice (R55). -/
def State.homeSet (s : State) (pa : Nat) : Nat :=
  let b := BitVec.ofNat 26 (s.granuleOf pa).1
  field b 6 7 ^^^ field b 13 7

/-- The quad beside whose router the home slice lies: router y * 8 + x (Table 2.6). -/
def State.homeQuadOf (s : State) (pa : Nat) : Nat := dieOf pa * 64 + s.homeSlice pa

/-- The column of a core in the package's grid of quads. -/
def gridX (core : Nat) : Nat := core / 256 % 4 * 8 + core / 4 % 8

/-- The row of a core in the package's grid of quads. -/
def gridY (core : Nat) : Nat := core / 1024 * 8 + core % 256 / 32

/-! ### Sealed sectors and locks of a local store (R168, R298) -/

/-- The first sealed byte of a range of a local store, if any (R298). -/
def Core.firstSealed (c : Core) (off n : Nat) : Option Nat :=
  ((List.range n).map (· + off)).find? fun b => (c.seals.find (b / 16)).isSome

/-- Whether a range meets the core's local-store lock (R168). -/
def Core.locked (c : Core) (off n : Nat) : Bool :=
  let base := field c.lslk 4 15 * 16
  let size := field c.lslk 20 15 * 16
  decide (0 < size ∧ off < base + size ∧ base < off + n)

/-! ### The window regions -/

/-- The own-store alias (Table 1.1). -/
def aliasBase : Nat := 0x7E0000000000
/-- The window region (Table 1.1). -/
def windowBase : Nat := 0x7F0000000000

/-- The virtual address of a VCN's window (R27). -/
def windowAt (vcn : Nat) : Word := BitVec.ofNat 64 (windowBase + vcn * 2 ^ 19)

end Sys2Proof.Machine
end

