-- ==== Sys2Proof/Machine/Home.lean ====
section
/-! DEFINITION. The home of a line: the operations of atomics and reductions (R78 to R81), launch conflicts, aborts and shadow
versions (R141 to R161), and the directory with its recalls (R70 to R77, R84 to R86). The bytes of a coherent line are held at
its home (log 8). -/

namespace Sys2Proof.Machine

/-! ### Operations at memory (Table 3.6) -/

/-- Signed order of two numbers of `n` bits. -/
def sltNat (n x y : Nat) : Bool := decide ((BitVec.ofNat n x).toInt < (BitVec.ofNat n y).toInt)

/-- The new value of an AMO. -/
def amoApply (op : AmoOp) (bytes old x : Nat) : Nat :=
  let n := 8 * bytes
  match op with
  | .add => (old + x) % 2 ^ n
  | .and => old &&& x
  | .or => old ||| x
  | .xor => old ^^^ x
  | .min => if sltNat n x old then x else old
  | .max => if sltNat n old x then x else old
  | .minN => if x < old then x else old
  | .maxN => if old < x then x else old
  | .swap => x
  | .faddF32 => fpAdd fp32 old x

/-- The new value of a RED. -/
def redApply (op : RedOp) (bytes old x : Nat) : Nat :=
  let n := 8 * bytes
  match op with
  | .add => (old + x) % 2 ^ n
  | .and => old &&& x
  | .or => old ||| x
  | .xor => old ^^^ x
  | .min => if sltNat n x old then x else old
  | .max => if sltNat n old x then x else old
  | .minN => if x < old then x else old
  | .maxN => if old < x then x else old
  | .faddF32 => fpAdd fp32 old x
  | .faddBf16 => fpAdd bf16 old x

/-! ### Tokens and commands that end -/

/-- The slot that a strand occupies on its core, if it still does. -/
def Core.slotOf (c : Core) (sid : Nat) : Option Nat :=
  match c.slots.find? (fun e => e.2.occupied && e.2.sid == sid) with
  | some e => some e.1
  | none => none

/-- The local-store offset of entry `e` of the thread-context cache (Table 16.3). -/
def cacheEntryOff (e : Nat) : Nat := 0x7C000 + 256 * e

/-- The address of the save region of a VCN (R372). -/
def State.saveRegion (s : State) (part vcn : Nat) : Nat := field (s.partAt part).savb 20 32 * 2 ^ 20 + vcn * 0x100000

/-- Writes a token into the image of a context, if its register is still pending there. -/
def State.imageToken (s : State) (at_ : Nat) (r : GReg) (v : Word) : State :=
  let toks := s.load (at_ + 0xD0) 2
  if toks / 2 ^ r.toNat % 2 = 1 then (s.store (at_ + 8 * r.toNat) 8 v.toNat).store (at_ + 0xD0) 2 (toks - 2 ^ r.toNat) else s

/-- The image of a saved strand's context in its tenant's save region (Table 16.5). -/
def State.savedImage (s : State) (o : Owner) : Option Nat :=
  (s.partAt o.part).saved.findSome? fun t =>
    (t.2.kept.find? fun e => e.sid == o.sid).map fun e =>
      s.saveRegion o.part t.1 + if e.entry < 16 then 0xE0000 + 256 * e.entry else 0x7C000 + 256 * (e.entry - 16)

/-- Writes a token (R265): the register, if it is still pending, of the strand that kicked the command, in its slot, in the
context cache or in the save region of its tenant; a strand that has ended takes none (R368). -/
def State.writeToken (s : State) (o : Owner) (r : GReg) (v : Word) : State :=
  let co := s.coreAt o.core
  match co.slotOf o.sid with
  | some k =>
    if (s.slotAt o.core k).pend.getLsbD r.toNat then
      s.modSlot o.core k fun x => { (x.setG r v) with pend := setBit x.pend r.toNat false }
    else s
  | none =>
    match co.kept.find? (fun e => e.sid == o.sid) with
    | some e => s.imageToken (lsKey o.core (cacheEntryOff e.entry)) r v
    | none =>
      match s.savedImage o with
      | some a => s.imageToken a r v
      | none => s

/-- A token value (Table 12.8). -/
def tokenValue (offset : Nat) (code : BitVec 8) : Word := BitVec.ofNat 64 (offset * 2 ^ 32 + code.toNat)

/-- Delivers a command's completion value to its token register or completion word; a word in a sealed sector takes no write of a user's command
(R298; log 74). -/
def State.complete (s : State) (o : Owner) (t : TokenDest) (v : Word) : State :=
  match t with
  | .reg r => s.writeToken o r v
  | .word c off => if ! o.super && ((s.coreAt c).firstSealed off 8).isSome then s else s.store (lsKey c off) 8 v.toNat

/-- Whether an owner is a strand of a launch. -/
def Owner.inLaunch (o : Owner) (part : Nat) (lnum : BitVec 16) : Bool := o.part == part && o.member && o.lnum == lnum

/-- Retires a released dependence-table entry whose command has ended (R291): the entry becomes free and the entries that wait
on it are re-examined by the event. -/
def State.retireTask (s : State) (t : Option Nat) : State :=
  match t with
  | none => s
  | some i =>
    s.modQuad (i / 256) fun x =>
      { x with dep := (x.dep.set (i % 256) { (x.dep.get default (i % 256)) with state := .retired }) }
where
  default : DepEntry :=
    { state := .free, order := 0, image := false, off := 0, hold := false, waits := [], name := 0, rbase := 0, rlen := 0
      wbase := 0, wlen := 0, x := 0, y := 0, scope := .pkg
      owner := { part := 0, core := 0, slot := 0, sid := 0, lnum := 0, member := false, asid := 0, super := false } }

/-- The occurrence that carries a command or swap of a core's truss on. -/
def TrussCmd.due (k : TrussCmd) (core : Nat) : Instr :=
  if k.swap then .mswapPerform core else if onWeightPath k.instr then .lstaComplete core else .trussRowStep core k.stream

/-- Makes an occurrence due, once. -/
def State.due (s : State) (e : Instr) : State := if s.events.contains e then s else s.post e

/-- The commands left on a truss go on after one of them has ended (R339, R346). -/
def State.wakeTruss (s : State) (core : Nat) : State := (s.coreAt core).truss.foldl (fun t k => t.due (k.due core)) s

/-- Ends every copy, feed and truss command of a launch with an outcome code (R158, R66, R267). -/
def State.endCommands (s : State) (part : Nat) (lnum : BitVec 16) (code : BitVec 8) : State :=
  let s := s.quads.foldl
    (fun t (q : Nat × Quad) =>
      let (dead, keep) := q.2.copies.partition fun c => c.owner.inLaunch part lnum
      let t := t.modQuad q.1 fun x => { x with copies := keep }
      dead.foldl (fun t c => ((t.dropEngineHost c.owner.part (copyUnit q.1 c.index)).complete c.owner c.token (tokenValue c.done code)).retireTask c.dtask) t)
    s
  let s := s.dies.foldl
    (fun t (d : Nat × Die) =>
      let (dead, keep) := d.2.feeds.partition fun c => c.owner.inLaunch part lnum
      let t := t.modDie d.1 fun x => { x with feeds := keep }
      dead.foldl
        (fun t c => (t.dropEngineHost c.owner.part (c.unit d.1)).writeToken c.owner c.token (tokenValue (c.first + c.n) code)) t)
    s
  s.cores.foldl
    (fun t (c : Nat × Core) =>
      let (dead, keep) := c.2.truss.partition fun x => ! x.swap && x.owner.inLaunch part lnum
      let t := t.modCore c.1 fun x => { x with truss := keep }
      let t := dead.foldl
        (fun t x => (t.dropEngineHost x.owner.part (x.unit c.1)).writeToken x.owner x.token (tokenValue x.offset code)) t
      if dead = [] then t else t.wakeTruss c.1)
    s

/-! ### The version-state table (R143) and aborts (R156 to R160) -/

/-- An entry of a partition's version-state table. -/
def State.vstAt (s : State) (p : Nat) (tag : BitVec 8) : BitVec 32 := (s.partAt p).vst.get 0 tag.toNat

/-- STATE of a tag: 0 free, 1 live, 2 committed, 3 aborted. -/
def State.tagState (s : State) (p : Nat) (tag : BitVec 8) : Nat := field (s.vstAt p tag) 30 2

/-- Live(tag) (R150). -/
def State.liveTag (s : State) (p : Nat) (tag : BitVec 8) : Bool := tag != 0 && s.tagState p tag == 1

/-- Whether tag `x` names an older launch than tag `v` (R141). -/
def State.olderTag (s : State) (p : Nat) (x v : BitVec 8) : Bool :=
  let d := (BitVec.ofNat 16 (field (s.vstAt p v) 0 16) - BitVec.ofNat 16 (field (s.vstAt p x) 0 16)).toNat
  decide (1 ≤ d ∧ d < 2 ^ 15)

/-- The live tags of a partition. -/
def State.liveTags (s : State) (p : Nat) : List (BitVec 8) :=
  ((s.partAt p).vst.filter fun e => field e.2 30 2 == 1).map fun e => BitVec.ofNat 8 e.1

/-- Aborts the launch that holds a live tag: the outcome is recorded at once, its strands are killed at their next boundary,
its commands end, and its queued children are removed (R156, R158, R160). -/
def State.abortTag (s : State) (p : Nat) (tag : BitVec 8) (code : BitVec 8) : State :=
  if ! s.liveTag p tag then s
  else
    let lnum := BitVec.ofNat 16 (field (s.vstAt p tag) 0 16)
    let s := s.modPart p fun x =>
      { x with
        vst := x.vst.set tag.toNat (setField (setField (x.vst.get 0 tag.toNat) 30 2 3) 20 8 code.toNat)
        launches := x.launches.map fun l =>
          if l.parent.isNone ∧ l.phase = .live ∧ l.lnum = lnum then { l with phase := .over, outcome := some code }
          else if l.phase = .queued ∧ l.parent = some lnum then { l with phase := .over, outcome := some code, lnum := 0 }
          else l }
    let s := s.cores.foldl
      (fun t (c : Nat × Core) =>
        if s.partOf c.1 = p then
          c.2.slots.foldl
            (fun t (k : Nat × Slot) =>
              if k.2.occupied ∧ k.2.member ∧ k.2.lnum = lnum then t.modSlot c.1 k.1 fun x => { x with kill := some false }
              else t)
            t
        else t)
      s
    let s := (s.endCommands p lnum code).post (.mergeSweep p 0)
    s.trace p 4 0 0 0 (toBytes 2 lnum.toNat ++ toBytes 1 code.toNat)

/-- The youngest live launch's tag. -/
def State.youngest (s : State) (p : Nat) : Option (BitVec 8) :=
  (s.liveTags p).foldl
    (fun acc t =>
      match acc with
      | none => some t
      | some u => if s.olderTag p u t then some t else some u)
    none

/-! ### Shadow versions and the overflow area (R148, R152 to R155, R157) -/

/-- The address of entry `i` of a granule's bucket (R153). -/
def overflowAt (shob shos : Word) (gr i : Nat) : Nat :=
  let lb := field shos 0 5
  let bucket := (gr % 2 ^ 20 ^^^ gr / 2 ^ 20 % 2 ^ 20) % 2 ^ lb
  field shob 11 41 * 2048 + bucket * 2048 + i * 128

/-- The header of a valid shadow-line entry of a granule (Table 6.7), if that is what the entry holds. -/
def State.overflowEntry (s : State) (p gr i : Nat) : Option (BitVec 256) :=
  let pt := s.partAt p
  let h := BitVec.ofNat 256 (s.load (overflowAt pt.shob pt.shos gr i) 32)
  if bit h 0 ∧ ! bit h 1 ∧ field h 15 40 = gr then some h else none

/-! ### Sectors that differ from HBM (R54, R59) -/

/-- The sectors of its granule that bytes meet. -/
def granSectors (pa n : Nat) : List Nat := (List.range 128).filter fun i => decide (pa % 2048 < 16 * (i + 1) ∧ 16 * i < pa % 2048 + n)

/-- A tag that keeps what HBM holds of sectors that are about to be written. -/
def L2Tag.keep (t : L2Tag) (mem : List Host.Cell) (sectors : List Nat) : L2Tag :=
  { t with
    hbm := sectors.foldl
      (fun m i => if (m.find i).isSome then m else m.set i (BitVec.ofNat 128 (ofBytes (Memory.readList mem (t.gran * 2048 + 16 * i) 16)))) t.hbm }

/-- A tag whose lines hold data that differ from HBM in sectors (Table 2.5). -/
def L2Tag.soil (t : L2Tag) (mem : List Host.Cell) (sectors : List Nat) : L2Tag :=
  { (t.keep mem sectors) with
    pres := sectors.foldl (fun m i => setBit m (i / 4) true) t.pres
    dirty := sectors.foldl (fun m i => setBit m i true) t.dirty }

/-- Changes the tag of a granule, if its slice holds one. -/
def State.modTag (s : State) (gr : Nat) (f : L2Tag → L2Tag) : State :=
  s.modDie (dieOf (gr * 2048)) fun x => { x with tags := x.tags.map fun t => if t.gran = gr then f t else t }

/-- What HBM holds of a sector of a granule. -/
def State.hbmSector (s : State) (gr i : Nat) : BitVec 128 :=
  let here := BitVec.ofNat 128 (s.load (gr * 2048 + 16 * i) 16)
  match (s.dieAt (dieOf (gr * 2048))).tags.find? fun t => t.gran == gr with
  | some t => (t.hbm.find i).getD here
  | none => here

/-- A home slice writes bytes of one of its lines: their sectors are dirty. Of a granule without a tag they are written back at once. -/
def State.homeStore (s : State) (pa : Nat) (bs : List Byte) : State :=
  (s.modTag (pa / 2048) fun t => t.soil s.mem (granSectors pa bs.length)).storeBytes pa bs

/-- Applies the written sectors of a shadow line to memory: they replace the base sectors and are dirty (R157). -/
def State.mergeLine (s : State) (pa : Nat) (dirty : BitVec 4) (bytes : List Byte) : State :=
  (List.range 4).foldl
    (fun t i => if dirty.getLsbD i then t.homeStore (pa + 16 * i) ((bytes.drop (16 * i)).take 16) else t) s

/-- The 64 bytes of a line image. -/
def lineBytes (x : BitVec 512) : List Byte := toBytes 64 x.toNat

/-- Merges the committed and discards the aborted entries of a granule in the overflow area. -/
def State.mergeOverflow (s : State) (p gr : Nat) : State :=
  if ! bit (s.partAt p).shos 5 then s
  else
    (List.range 16).foldl
      (fun t i =>
        match t.overflowEntry p gr i with
        | none => t
        | some h =>
          let at_ := overflowAt (t.partAt p).shob (t.partAt p).shos gr i
          let st := t.tagState p (BitVec.ofNat 8 (field h 7 8))
          if st = 2 then
            (t.mergeLine (gr * 2048 + field h 55 5 * 64) (BitVec.ofNat 4 (field h 60 4)) (Memory.readList t.mem (at_ + 32) 64)).storeBytes
              at_ (List.replicate 128 0)
          else if st = 3 then t.storeBytes at_ (List.replicate 128 0)
          else t)
      s

/-- Merges a shadow way of a committed tag into the base lines (R157). -/
def State.mergeWay (s : State) (w : ShadowWay) : State :=
  w.lines.foldl (fun t l => t.mergeLine (w.gran * 2048 + l.1 * 64) l.2.dirty (lineBytes l.2.data)) s

/-- Merges the committed and discards the aborted shadow data of a granule before it is served (R157): what has spilled, then what waits
to spill, then its shadow way. -/
def State.mergeGranule (s : State) (gr : Nat) : State :=
  let d := dieOf (gr * 2048)
  let s := s.parts.foldl (fun t (p : Nat × Part) => if p.2.exists_ then t.mergeOverflow p.1 gr else t) s
  let settle (t : State) (w : ShadowWay) : State := if t.tagState w.part w.tag = 2 then t.mergeWay w else t
  let ended (w : ShadowWay) : Bool := w.gran == gr && s.tagState w.part w.tag != 1
  let s := s.parts.foldl
    (fun t (p : Nat × Part) =>
      if p.2.spills.any ended then
        ((p.2.spills.filter ended).foldl settle t).modPart p.1 fun x => { x with spills := x.spills.filter fun w => ! ended w }
      else t)
    s
  let ways := (s.dieAt d).shadows.filter ended
  if ways = [] then s
  else (ways.foldl settle s).modDie d fun x => { x with shadows := x.shadows.filter fun w => ! ended w }

/-- Whether a VER record's header names no tag that is live or unmerged (R153, R154). -/
def State.verDead (s : State) (p : Nat) (h : BitVec 256) : Bool :=
  let named (i : Nat) : Bool :=
    let t := s.tagState p (BitVec.ofNat 8 (field h (64 + i) 8))
    field h (64 + i) 8 != 0 && (t == 1 || t == 2)
  ! ([2, 10, 18, 26, 34].any named || (bit h 65 && ! (s.liveTags p).isEmpty))

/-- The entries of a bucket, whatever granule they belong to, that committed tags leave behind are merged, and those of aborted ones
discarded (R157); with EN = 0 there is no bucket (R152). -/
def State.cleanBucket (s : State) (p gr : Nat) : State :=
  if ! bit (s.partAt p).shos 5 then s
  else (List.range 16).foldl
    (fun t i =>
      let at_ := overflowAt (t.partAt p).shob (t.partAt p).shos gr i
      let h := BitVec.ofNat 256 (t.load at_ 32)
      if bit h 0 ∧ ((bit h 1 ∧ (t.verDead p h)) ∨ (! bit h 1 ∧ t.tagState p (BitVec.ofNat 8 (field h 7 8)) = 3)) then
        t.storeBytes at_ (List.replicate 128 0)
      else if bit h 0 ∧ ! bit h 1 ∧ t.tagState p (BitVec.ofNat 8 (field h 7 8)) = 2 then
        (t.mergeLine (field h 15 40 * 2048 + field h 55 5 * 64) (BitVec.ofNat 4 (field h 60 4))
          (Memory.readList t.mem (at_ + 32) 64)).storeBytes at_ (List.replicate 128 0)
      else t)
    s

/-- The free entry of a granule's bucket that a spill takes: the lowest (DESIGN CHOICE, log 83). -/
def State.freeOverflow (s : State) (p gr : Nat) : Option Nat :=
  let pt := s.partAt p
  if ! bit pt.shos 5 then none
  else (List.range 16).find? fun i => ! bit (BitVec.ofNat 8 (s.load (overflowAt pt.shob pt.shos gr i) 1)) 0

/-- Writes the lines of a spilled way that find a free entry in its bucket; the others stay in the way that is returned. -/
def State.spillLines (s : State) (w : ShadowWay) : State × ShadowWay :=
  let pt := s.partAt w.part
  if ! bit pt.shos 5 then (s, w)
  else
    w.lines.foldl
      (fun (acc : State × ShadowWay) l =>
        let t := acc.1
        match t.freeOverflow w.part w.gran with
        | none => acc
        | some i =>
          let at_ := overflowAt pt.shob pt.shos w.gran i
          let h := 1 + w.tag.toNat * 2 ^ 7 + w.gran * 2 ^ 15 + l.1 * 2 ^ 55 + l.2.dirty.toNat * 2 ^ 60
          ((t.storeBytes at_ (toBytes 32 h ++ lineBytes l.2.data ++ List.replicate 32 0)),
            { acc.2 with lines := Map.erase acc.2.lines l.1 }))
      (s, w)

/-- The VER field of a base tag (Table 6.4): SH is 0. -/
def Ver.pack (v : Ver) : Nat :=
  v.ro.toNat * 2 + v.rt[0].toNat * 2 ^ 2 + v.rt[1].toNat * 2 ^ 10 + v.rt[2].toNat * 2 ^ 18 + v.rt[3].toNat * 2 ^ 26 + v.wt.toNat * 2 ^ 34

/-- The conflict fields of a VER field. -/
def Ver.unpack {n : Nat} (x : BitVec n) (at_ : Nat) : Ver where
  wt := BitVec.ofNat 8 (field x (at_ + 34) 8)
  rt := #v[BitVec.ofNat 8 (field x (at_ + 2) 8), BitVec.ofNat 8 (field x (at_ + 10) 8), BitVec.ofNat 8 (field x (at_ + 18) 8),
    BitVec.ofNat 8 (field x (at_ + 26) 8)]
  ro := bit x (at_ + 1)

/-- The index of the VER record of a granule in its bucket, if there is one (R153). -/
def State.verEntry (s : State) (p gr : Nat) : Option Nat :=
  let pt := s.partAt p
  if ! bit pt.shos 5 then none
  else
    (List.range 16).find? fun i =>
      let h := BitVec.ofNat 256 (s.load (overflowAt pt.shob pt.shos gr i) 32)
      bit h 0 && bit h 1 && field h 15 40 == gr

/-- Restores the VER record of a granule whose tag is allocated (R154): the entry is cleared. -/
def State.takeVer (s : State) (p gr : Nat) : Ver × State :=
  match s.verEntry p gr with
  | none => (Ver.none, s)
  | some i =>
    let at_ := overflowAt (s.partAt p).shob (s.partAt p).shos gr i
    (Ver.unpack (BitVec.ofNat 256 (s.load at_ 32)) 64, s.storeBytes at_ (List.replicate 128 0))

/-- Writes the VER record of a base tag that is evicted (R154); false while its bucket has no free entry. -/
def State.putVer (s : State) (p gr : Nat) (v : Ver) : State × Bool :=
  match s.freeOverflow p gr with
  | none => (s, false)
  | some i =>
    let h := 3 + gr * 2 ^ 15 + v.pack * 2 ^ 64
    (s.storeBytes (overflowAt (s.partAt p).shob (s.partAt p).shos gr i) (toBytes 32 h ++ List.replicate 96 0), true)

/-- Spills the VER record of an evicted base tag that names a live or an unmerged tag: while its bucket is full, the youngest live launch aborts
(R154, R155). -/
def State.spillVer (s : State) (p gr : Nat) (v : Ver) : (fuel : Nat) → State
  | 0 => s
  | fuel + 1 =>
    let live (t : BitVec 8) : Bool := t != 0 && (s.tagState p t == 1 || s.tagState p t == 2)
    if ! ((v.wt :: v.rt.toList).any live || (v.ro && ! (s.liveTags p).isEmpty)) then s
    else
      let s := s.cleanBucket p gr
      match s.putVer p gr v with
      | (t, true) => t
      | (_, false) =>
        match s.youngest p with
        | some t => (s.abortTag p t 0x21).spillVer p gr v fuel
        | none => s

/-- A spill (R154, R155): lines without a free entry abort the youngest live launch, and the spill waits as an occurrence
until its discarded entries are free. -/
def State.spill (s : State) (w : ShadowWay) : State :=
  let s := s.cleanBucket w.part w.gran
  let (s, w) := s.spillLines w
  if w.lines.isEmpty then s
  else
    let s := match s.youngest w.part with
      | some t => s.abortTag w.part t 0x21
      | none => s
    if s.tagState w.part w.tag = 3 then s
    else (s.modPart w.part fun x => { x with spills := x.spills ++ [w] }).post (.shadowSpillResume w.part)

/-- The shadow line of a tag, in a way, in a waiting spill, or in the overflow area (R149). -/
def State.shadowOf (s : State) (p : Nat) (tag : BitVec 8) (line : Nat) : Option ShadowLine :=
  let gr := line / 32
  let inWays (ws : List ShadowWay) : Option ShadowLine :=
    match ws.find? (fun w => w.gran == gr && w.tag == tag && (w.lines.find (line % 32)).isSome) with
    | some w => w.lines.find (line % 32)
    | none => none
  match inWays (s.dieAt (dieOf (line * 64))).shadows with
  | some l => some l
  | none =>
    match inWays (s.partAt p).spills with
    | some l => some l
    | none =>
      if ! bit (s.partAt p).shos 5 then none
      else
        (List.range 16).findSome? fun i =>
          match s.overflowEntry p gr i with
          | some h =>
            if field h 7 8 = tag.toNat ∧ field h 55 5 = line % 32 then
              some { dirty := BitVec.ofNat 4 (field h 60 4)
                     data := BitVec.ofNat 512 (s.load (overflowAt (s.partAt p).shob (s.partAt p).shos gr i + 32) 64) }
            else none
          | none => none

/-- Whether a line has a shadow copy of a live tag, in a way or spilled (R148). -/
def State.liveShadow (s : State) (line : Nat) : Bool :=
  s.parts.any fun p => (s.liveTags p.1).any fun t => (s.shadowOf p.1 t line).isSome

/-- The overflow entries of a line of a tag are cleared: the line is in a shadow way again. -/
def State.clearOverflow (s : State) (p : Nat) (tag : BitVec 8) (line : Nat) : State :=
  if ! bit (s.partAt p).shos 5 then s
  else
    (List.range 16).foldl
      (fun t i =>
        match t.overflowEntry p (line / 32) i with
        | some h =>
          if field h 7 8 = tag.toNat ∧ field h 55 5 = line % 32 then
            t.storeBytes (overflowAt (t.partAt p).shob (t.partAt p).shos (line / 32) i) (List.replicate 128 0)
          else t
        | none => t)
      s

/-- An access to a shadow way makes it the most recently used (R54, R148). -/
def State.touchShadow (s : State) (gr : Nat) (tag : BitVec 8) : State :=
  s.modDie (dieOf (gr * 2048)) fun x =>
    match x.shadows.find? fun w => w.gran == gr && w.tag == tag with
    | some w => { x with shadows := w :: x.shadows.filter fun v => ! (v.gran == gr && v.tag == tag) }
    | none => x

/-- Whether two granules lie in one set of one slice (R55, R56). -/
def State.sameSet (s : State) (a b : Nat) : Bool :=
  dieOf (a * 2048) == dieOf (b * 2048) && s.homeSlice (a * 2048) == s.homeSlice (b * 2048) && s.homeSet (a * 2048) == s.homeSet (b * 2048)

/-- Puts a shadow line of a tag back where it is written: into the granule's shadow way, which becomes the most recently used
of its set; a fourth way in a set spills the least recently used (R55, R148). -/
def State.putShadow (s : State) (p : Nat) (tag : BitVec 8) (line : Nat) (l : ShadowLine) : State :=
  let gr := line / 32
  let d := dieOf (line * 64)
  let s := (s.clearOverflow p tag line).modPart p fun x =>
    { x with spills := x.spills.map fun w => if w.gran = gr ∧ w.tag = tag then { w with lines := Map.erase w.lines (line % 32) } else w }
  let old := ((s.dieAt d).shadows.find? fun w => w.gran == gr && w.tag == tag).getD { gran := gr, tag := tag, part := p, lines := [] }
  let s := s.modDie d fun x =>
    { x with shadows := { old with lines := old.lines.set (line % 32) l } :: x.shadows.filter fun w => ! (w.gran == gr && w.tag == tag) }
  let ways := (s.dieAt d).shadows.filter fun w => s.sameSet w.gran gr
  if ways.length ≤ 3 then s
  else
    match ways.getLast? with
    | none => s
    | some v =>
      (s.modDie d fun x => { x with shadows := x.shadows.filter fun w => ! (w.gran == v.gran && w.tag == v.tag) }).spill v

/-! ### Granule tags (R47, R54, R59) -/

/-- The tag of a granule, if its slice holds one. -/
def Die.tagOf (d : Die) (gr : Nat) : Option L2Tag := d.tags.find? fun t => t.gran == gr

/-- The conflict fields of a granule's base tag. -/
def State.verOf (s : State) (gr : Nat) : Ver :=
  match (s.dieAt (dieOf (gr * 2048))).tagOf gr with
  | some t => t.ver
  | none => Ver.none

/-- A granule tag as it is allocated (R54). -/
def State.newTag (s : State) (p gr : Nat) (v : Ver) : L2Tag where
  gran := gr
  part := p
  pres := 0
  dirty := 0
  hbm := []
  ver := v
  channel := s.homeChannel (gr * 2048)

/-- Whether every tag of a partition is free (R154). -/
def State.tagsFree (s : State) (p : Nat) : Bool := (s.partAt p).vst.all fun e => field e.2 30 2 == 0

/-- Allocates the tag of a granule, with the VER record that its bucket may hold; the bucket is probed while the partition has a tag that is
not free (R154). -/
def State.allocTag (s : State) (p gr : Nat) : State :=
  let (v, s) := if s.tagsFree p then (Ver.none, s) else s.takeVer p gr
  s.modDie (dieOf (gr * 2048)) fun x => { x with tags := s.newTag p gr v :: x.tags }

/-- An access to lines of a granule marks its tag: the most recently used of its set, with the line present, and, for a write, its sectors
different from HBM (Table 2.5). -/
def State.markTag (s : State) (p pa n : Nat) (write : Bool) : State :=
  s.modDie (dieOf pa) fun x =>
    match x.tagOf (pa / 2048) with
    | none => x
    | some t =>
      let t := if write then t.soil s.mem (granSectors pa n) else t
      { x with tags := { t with part := p, pres := setBit t.pres (pa % 2048 / 64) true } :: x.tags.filter fun u => u.gran != pa / 2048 }

/-- Whether the slice lacks a line, which an access then brings from HBM (R59, R350). -/
def State.lineMissing (s : State) (line : Nat) : Bool :=
  match (s.dieAt (dieOf (line * 64))).tagOf (line / 32) with
  | some t => ! t.pres.getLsbD (line % 32)
  | none => true

/-- Adds to the counts of a core's sampling window and of a launch (R350). -/
def State.addWork (s : State) (core part : Nat) (launch : Option (BitVec 16)) (ops bytes : Nat) : State :=
  let s := s.modCore core fun c => { c with winOps := c.winOps + ops, winBytes := c.winBytes + bytes }
  match launch with
  | none => s
  | some n =>
    s.modPart part fun p =>
      { p with launches := p.launches.map fun l =>
          if l.parent.isNone ∧ l.phase = .live ∧ l.lnum = n then { l with ops := l.ops + ops, bytes := l.bytes + bytes } else l }

/-! ### Conflicts (R150, R151) -/

/-- The tags a base tag names. -/
def Ver.tags (v : Ver) : List (BitVec 8) := (v.wt :: v.rt.toList).filter (· != 0)

/-- Fields that name tags that are not live become 0. -/
def State.clearDead (s : State) (p : Nat) (v : Ver) : Ver :=
  let keep (t : BitVec 8) : BitVec 8 := if s.liveTag p t then t else 0
  { v with wt := keep v.wt, rt := v.rt.map keep }

/-- Register (R150) with the granule's tag, which the access has allocated (R54): the state, and whether the accessing launch itself was
aborted. Of several zero RT fields the lowest is taken (DESIGN CHOICE, log 83). -/
def State.register (s : State) (p gr : Nat) (v : BitVec 8) (write : Bool) : State × Bool :=
  let g := s.verOf gr
  let c := if s.liveTag p g.wt ∧ g.wt ≠ v then [g.wt] else []
  let c := if write then c ++ g.rt.toList.filter (fun t => s.liveTag p t && t != v) else c
  let c := if write ∧ g.ro then (s.liveTags p).filter (· != v) else c
  if c.any (fun x => s.olderTag p x v) then (s.abortTag p v 0x20, true)
  else
    let s := c.foldl (fun t x => t.abortTag p x 0x20) s
    let g := s.clearDead p g
    let g := if write then { Ver.none with wt := v }
      else if v = g.wt ∨ g.rt.toList.contains v then g
      else
        match (List.range 4).find? fun i => g.rt[i]! == 0 with
        | some i => { g with rt := g.rt.set! i v }
        | none => { g with ro := true }
    (s.modTag gr fun t => { t with part := p, ver := g }, false)

/-- A direct write to a granule aborts the live launches its base tag names and clears the fields (R151); those of a tag that was evicted
are in its VER record, which goes with them (R154). -/
def State.directWrite (s : State) (p gr : Nat) : State :=
  let (g, s) := if ((s.dieAt (dieOf (gr * 2048))).tagOf gr).isNone ∧ ! s.tagsFree p then s.takeVer p gr else (s.verOf gr, s)
  if g = Ver.none then s
  else
    let c := if g.ro then s.liveTags p else g.tags
    (c.foldl (fun t x => t.abortTag p x 0x20) s).modTag gr fun t => { t with ver := Ver.none }

/-- A write-back, or a partial that is combined, is a direct write by the partition that uses the granule (R151). -/
def State.homeWrite (s : State) (gr : Nat) : State :=
  match (s.dieAt (dieOf (gr * 2048))).tagOf gr with
  | some t => s.directWrite t.part gr
  | none => s

/-! ### The directory (R70 to R77) -/

/-- STATE of a directory entry (Table 3.1): 0 uncached, 1 shared, 2 exclusive, 3 update-only. -/
def dirState (e : BitVec 64) : Nat := field e 54 2

/-- The pointers of an entry. -/
def dirPtrs (e : BitVec 64) : List (BitVec 12) :=
  (List.range (field e 49 3)).map fun i => BitVec.ofNat 12 (field e (12 * i) 12)

/-- An entry with the pointers given, at most four. -/
def dirWith (e : BitVec 64) (st : Nat) (ps : List (BitVec 12)) : BitVec 64 :=
  let base := setField (setField e 54 2 st) 0 48 0
  let base := setField base 49 3 ps.length
  (ps.zipIdx).foldl (fun b q => setField b (12 * q.2) 12 q.1.toNat) base

/-- The sharer pointer of a core for a line (Table 3.2): its L1 on the home die, or the RDC of its die. -/
def sharerPtr (core pa : Nat) : BitVec 12 :=
  if core / 256 = dieOf pa then BitVec.ofNat 12 (core % 256) else BitVec.ofNat 12 (2048 + core / 256 * 256)

/-- The directory entry of a line. -/
def State.dirAt (s : State) (line : Nat) : BitVec 64 := (s.dieAt (dieOf (line * 64))).dir.get 0 line

/-- Replaces a directory entry. -/
def State.setDir (s : State) (line : Nat) (e : BitVec 64) : State :=
  s.modDie (dieOf (line * 64)) fun x => { x with dir := x.dir.set line e }

/-- The cores and dies a line's holders are in: every possible holder with BCAST, else the pointers and those reported. -/
def State.holders (s : State) (line : Nat) (e : BitVec 64) (more : List (BitVec 12)) : List (BitVec 12) :=
  if bit e 52 then
    let d := dieOf (line * 64)
    ((s.cores.filter fun c => c.1 / 256 == d).map fun c => BitVec.ofNat 12 (c.1 % 256))
      ++ ((s.dies.filter fun x => x.1 != d).map fun x => BitVec.ofNat 12 (2048 + x.1 * 256))
  else dirPtrs e ++ more

/-- Combines a U partial into the line at home (R86). -/
def State.combine (s : State) (line : Nat) (l : CacheLine) : State :=
  let w := l.size.bytes
  let s := s.homeWrite (line / 32)
  (setBits l.touch).foldl
    (fun t k =>
      let old := t.load (line * 64 + 2 * k) w
      t.homeStore (line * 64 + 2 * k) (toBytes w (redApply l.op w old (field l.part (16 * k) (8 * w)))))
    s

/-- Combines a U partial into another partial (R58, R86). -/
def combineInto (a b : CacheLine) : CacheLine :=
  let w := b.size.bytes
  (setBits b.touch).foldl
    (fun a k =>
      let x := field b.part (16 * k) (8 * w)
      if a.touch.getLsbD k then
        { a with part := setField a.part (16 * k) (8 * w) (redApply a.op w (field a.part (16 * k) (8 * w)) x) }
      else { a with touch := setBit a.touch k true, part := setField a.part (16 * k) (8 * w) x })
    a

/-- The RDC copy of a line with the die-local U copies combined into it in ascending core number (R86). -/
def State.rdcGathered (s : State) (d line : Nat) (l : CacheLine) : CacheLine :=
  (s.cores.filter fun c => c.1 / 256 == d).foldl
    (fun a c =>
      match c.2.l1.find line with
      | some u => if u.state = .updateOnly ∧ ! u.uo then combineInto a u else a
      | none => a)
    l

/-- The dirty sectors of a modified line of a core are written back to its home (R73, R151): the bytes are there already (log 8). -/
def State.writeBack (s : State) (c line : Nat) (l : CacheLine) : State :=
  ((s.homeWrite (line / 32)).countPair c (s.homeQuadOf (line * 64)) 1 1).modTag (line / 32) fun t =>
    t.soil s.mem ((setBits l.dirty).map fun i => line % 32 * 4 + i)

/-- A core's L1 loses its registered copy of a line; the dirty sectors of a modified one are a write-back (R73, R151). -/
def State.dropL1 (s : State) (c line : Nat) : State :=
  match (s.coreAt c).l1.find line with
  | some l =>
    if l.uo then s
    else
      let s := if l.state = .modified then s.writeBack c line l else s
      s.modCore c fun x => { x with l1 := Map.erase x.l1 line }
  | none => s

/-- The L1s of a die that an RDC line stands for: its pointers, or any of the die once there are more than four, or of a U line (R58). -/
def State.rdcSharers (s : State) (d line : Nat) : List Nat :=
  let all := (s.cores.filter fun c => c.1 / 256 == d).map (·.1)
  match (s.dieAt d).rdc.find line with
  | some l => if l.bcast ∨ l.state = .updateOnly then all else l.sharers
  | none => all

/-- A die's RDC loses its copy of a line with every die-local L1's (R58). -/
def State.dropRdc (s : State) (d line : Nat) : State :=
  let s := (s.rdcSharers d line).foldl (fun t c => t.dropL1 c line) s
  s.modDie d fun x => { x with rdc := Map.erase x.rdc line }

/-- Removes a holder's copy of a line: an L1's, or an RDC's with every die-local L1's (R58, R73). The recall and its acknowledgement are one
flit each. -/
def State.dropHolder (s : State) (line : Nat) (p : BitVec 12) : State :=
  if p.getLsbD 11 then (s.dropRdc (field p 8 3) line).countPair (field p 8 3 * 256) (s.homeQuadOf (line * 64)) 1 1
  else
    let c := dieOf (line * 64) * 256 + field p 0 8
    (s.dropL1 c line).countPair c (s.homeQuadOf (line * 64)) 1 1

/-- The position at which a holder's partial is combined (R86). -/
def ptrPosition (line : Nat) (p : BitVec 12) : Nat :=
  if p.getLsbD 11 then field p 8 3 * 256 else dieOf (line * 64) * 256 + field p 0 8

/-- Insertion by position, ascending. -/
def insertBy (key : BitVec 12 → Nat) (p : BitVec 12) : List (BitVec 12) → List (BitVec 12)
  | [] => [p]
  | q :: rest => if key p < key q then p :: q :: rest else q :: insertBy key p rest

/-- Sorts holders by position. -/
def sortByPosition (line : Nat) (ps : List (BitVec 12)) : List (BitVec 12) := ps.foldr (insertBy (ptrPosition line)) []

/-- The die-local U copies of a line that its RDC does not hold are combined at the home in ascending core number: no way of the RDC is
assigned to the partition (R57, R86). -/
def State.combineLocal (s : State) (d line : Nat) : State :=
  (s.cores.filter fun c => c.1 / 256 == d).foldl
    (fun t c =>
      match c.2.l1.find line with
      | some l => if l.state = .updateOnly ∧ ! l.uo then t.combine line l else t
      | none => t)
    s

/-- Recalls or invalidates every holder of a line; U partials are combined in order of position (R72, R86). -/
def State.recallAll (s : State) (line : Nat) (ps : List (BitVec 12)) : State :=
  let upd := dirState (s.dirAt line) == 3
  (sortByPosition line ps).foldl
    (fun t p =>
      let t :=
        if ! upd then t
        else if p.getLsbD 11 then
          match (t.dieAt (field p 8 3)).rdc.find line with
          | some l => if l.state = .updateOnly then t.combine line (t.rdcGathered (field p 8 3) line l) else t
          | none => t.combineLocal (field p 8 3) line
        else
          match (t.coreAt (dieOf (line * 64) * 256 + field p 0 8)).l1.find line with
          | some l => if l.state = .updateOnly then t.combine line l else t
          | none => t
      t.dropHolder line p)
    s

/-- Whether the holder a pointer names has a registered copy of a line. -/
def State.holdsLine (s : State) (line : Nat) (p : BitVec 12) : Bool :=
  let l := if p.getLsbD 11 then (s.dieAt (field p 8 3)).rdc.find line
    else (s.coreAt (dieOf (line * 64) * 256 + field p 0 8)).l1.find line
  match l with
  | some l => ! l.uo
  | none => false

/-- What a request wants of a line. -/
inductive Want
  | read
  | own
  | exclude
  | update (op : RedOp) (size : Size)
  deriving DecidableEq, Repr

/-- The core whose supervisor serves the slice of a line: core 0 of the home quad (R74). -/
def State.dirCore (s : State) (line : Nat) : Nat := s.homeQuadOf (line * 64) * 4

/-- Whether a request can be served in the entry's present state (R72). -/
def dirFits (e : BitVec 64) : Want → Bool
  | .read => dirState e == 0 || dirState e == 1
  | .own => dirState e == 0
  | .exclude => dirState e == 0
  | .update op size => dirState e == 0 || (dirState e == 3 && field e 59 4 == op.code.toNat && field e 56 3 == size.code.toNat)

/-- The result of a request at a home: granted, or waiting for the handler's list or for room in its trap queue. -/
inductive Grant
  | granted (s : State)
  | waits (s : State)

/-- A requester's place in a home's order of requests: a strand's slot and serial number, or the unit of any other. -/
def State.waiter (s : State) (ag : Agent) : Nat × Nat :=
  if ag.engine ∨ 16 ≤ ag.slot then (2 ^ 20 + ag.unit, 0) else (32 * ag.core + ag.slot, (s.slotAt ag.core ag.slot).sid)

/-- The records present in a core's ready deque (R175). -/
def Core.deqLen (c : Core) : Nat := (c.dqb - c.dqt).toNat

/-- Whether a unit still has a request to make: a copy, truss command or feed that is not suspended, a call that is not served, a
tenant on its way, a deque or context cache, or a reduction that is not performed. -/
def State.unitWaits (s : State) (u : Nat) : Bool :=
  if u < trussUnit then
    (s.quadAt (u / 65536)).copies.any fun k => k.index == u % 65536 && k.susp.isNone && ! k.quiesced
  else if u < feedUnit then (s.coreAt ((u - trussUnit) / 8)).truss.any fun k => k.unit ((u - trussUnit) / 8) == u && k.susp.isNone
  else if u < callUnit then
    (s.dieAt ((u - feedUnit) / 65536)).feeds.any fun f => f.unit ((u - feedUnit) / 65536) == u && f.susp.isNone
  else if u < deqUnit then
    ! (s.partAt (u - callUnit)).callQ.isEmpty
      || s.cores.any fun c => s.partOf c.1 == u - callUnit && (c.2.saving.isSome || c.2.restVcn.isSome)
  else if u < redUnit then
    let c := s.coreAt (u - deqUnit)
    (c.up && (decide (c.deqLen = 0 ∨ 512 ≤ c.deqLen) || c.slots.any fun k => k.2.expired))
  else s.events.any fun e => match e with
    | .redAtHome r => redUnit + r.id == u
    | _ => false

/-- Whether a requester still waits for its request. -/
def State.stillWaits (s : State) (q : Nat × Nat) : Bool :=
  if 2 ^ 20 ≤ q.1 then s.unitWaits (q.1 - 2 ^ 20)
  else
    let x := s.slotAt (q.1 / 32) (q.1 % 32)
    x.occupied && x.sid == q.2 && ! x.trapped && x.wait == .memory

/-- Whether a home's list request has room in the trap queue of its supervisor (R74). -/
def State.eventRoom (s : State) (line : Nat) : Bool :=
  let c := s.coreAt (s.dirCore line)
  decide (c.trapQ.length < 16) && c.held.isEmpty

/-- The list request of a soft line is posted, and the home holds the line (R75). -/
def State.askList (s : State) (line : Nat) (queue : List (Nat × Nat)) : State :=
  (s.postEvent (s.dirCore line) Cause.dirOverflow (BitVec.ofNat 64 (line * 64 + 1))).modDie (dieOf (line * 64)) fun x =>
    { x with lists := { line := line, ptrs := [], ready := false, acted := false, queue := queue } :: x.lists.filter fun l => l.line != line }

/-- Replaces what a home keeps of a held line. -/
def State.setList (s : State) (l : ListRequest) : State :=
  s.modDie (dieOf (l.line * 64)) fun x => { x with lists := x.lists.map fun k => if k.line = l.line then l else k }

/-- A home has served the head of a held line's queue; the others follow in order, and with none left the line is free. -/
def State.nextWaiter (s : State) (l : ListRequest) (rest : List (Nat × Nat)) : State :=
  if rest = [] then s.modDie (dieOf (l.line * 64)) fun x => { x with lists := x.lists.filter fun k => k.line != l.line }
  else s.setList { l with ptrs := [], ready := true, acted := true, queue := rest }

/-- Serves a request for a line at its home: the recalls and invalidations it needs, with the sharers that the handler reported, then the
requester's pointer (R72 to R76). Each holder that arrives at a soft line, or needs a fifth pointer, posts an "add" event; while that has no
room, the request waits at the soft line (R74). -/
def State.dirServe (s : State) (line : Nat) (w : Want) (who : Option (BitVec 12)) (more : List (BitVec 12)) (listed : Bool) : Grant :=
  let e := s.dirAt line
  let out := ! dirFits e w || listed
  let s := if out then s.recallAll line (s.holders line e more) else s
  let e := if out then 0 else e
  let st := match w with
    | .read => 1
    | .own => 2
    | .exclude => 0
    | .update _ _ => 3
  match who, w with
  | none, _ => .granted (s.setDir line e)
  | _, .exclude => .granted (s.setDir line 0)
  | some p, _ =>
    let ps := dirPtrs e
    let e := match w with
      | .update op size => setField (setField e 59 4 (op.code.toNat)) 56 3 (size.code.toNat)
      | _ => e
    if ps.contains p ∨ (bit e 53 && s.holdsLine line p) then .granted (s.setDir line (dirWith e st ps))
    else if ps.length < 4 ∧ ! bit e 53 then .granted (s.setDir line (dirWith e st (ps ++ [p])))
    else if ! s.eventRoom line then .waits (s.setDir line (dirWith (setBit e 53 true) st ps))
    else
      .granted ((s.setDir line (dirWith (setBit e 53 true) st ps)).postEvent (s.dirCore line) Cause.dirOverflow
        (BitVec.ofNat 64 (p.toNat * 2 ^ 52 + line * 64)))

/-- A request reaches a line's home. While the home works on the line, or holds a request until its event has room, requests wait in order of
arrival; a soft line leaves its state only
after its handler's list (R72, R75). -/
def State.dirRequest (s : State) (ag : Agent) (line : Nat) (w : Want) (who : Option (BitVec 12)) : Grant :=
  let me := s.waiter ag
  let e := s.dirAt line
  let needs : Bool := ! dirFits e w && bit e 53
  match (s.dieAt (dieOf (line * 64))).lists.find? (fun l => l.line == line) with
  | none =>
    if needs then .waits (s.askList line [me])
    else
      match s.dirServe line w who [] false with
      | .granted t => .granted t
      | .waits t =>
        .waits (t.modDie (dieOf (line * 64)) fun x =>
          { x with lists := x.lists ++ [{ line := line, ptrs := [], ready := true, acted := true, queue := [me] }] })
  | some l =>
    let queue := l.queue.filter fun q => me == q || s.stillWaits q
    let queue := if queue.contains me then queue else queue ++ [me]
    let turn : Bool := l.ready && queue.head? == some me
    if ! turn then .waits (s.setList { l with queue := queue })
    else if l.acted ∧ needs then .waits (s.askList line queue)
    else
      match s.dirServe line w who l.ptrs (! l.acted) with
      | .granted t => .granted (t.nextWaiter l (queue.drop 1))
      | .waits t => .waits (t.setList { l with ptrs := [], acted := true, queue := queue })

/-- Performs a request, or makes the requester wait not-ready on memory. -/
def dirWant (ag : Agent) (line : Nat) (w : Want) (who : Option (BitVec 12)) : Exec Unit := fun s =>
  match s.dirRequest ag line w who with
  | .granted t => .ok ((), t)
  | .waits t => .error (.wait .memory t)

/-- The base lines of a granule are current and, for a write, uncached, for an untranslated access of the hardware itself, which has waited for
the handlers' lists (`freeSoft`); what is soft all the same is recalled from every possible holder (log 70). -/
def State.settleLine (s : State) (line : Nat) (write : Bool) : State :=
  let s := s.mergeGranule (line / 32)
  let e := s.dirAt line
  if dirState e = 0 ∨ (! write ∧ dirState e = 1) then s
  else (s.recallAll line (s.holders line (if bit e 53 then setBit e 52 true else e) [])).setDir line 0

/-! ### Allocation and eviction of granule tags (R47, R54) -/

/-- The registered lines of a granule. -/
def State.registeredLines (s : State) (gr : Nat) : List Nat :=
  ((List.range 32).map fun i => gr * 32 + i).filter fun l => dirState (s.dirAt l) != 0

/-- The tag that a full set evicts: the least recently used without registered sharers, else the least recently used (R47). -/
def State.tagVictim (s : State) (set : List L2Tag) : Option L2Tag :=
  match (set.filter fun t => (s.registeredLines t.gran).isEmpty).getLast? with
  | some t => some t
  | none => set.getLast?

/-- Recalls the sharers of lines (R47). -/
def recallLines (ag : Agent) : List Nat → Exec Unit
  | [] => pure ()
  | l :: rest => do
    dirWant ag l .exclude none
    recallLines ag rest

/-- Evicts a granule's tag: its sharers are recalled first, its dirty sectors are written back to HBM, and its VER record spills (R47, R59,
R154). -/
def evictTag (ag : Agent) (t : L2Tag) : Exec Unit := do
  recallLines ag ((← get).registeredLines t.gran)
  upd fun s =>
    let v := s.verOf t.gran
    let dirty := match (s.dieAt (dieOf (t.gran * 2048))).tagOf t.gran with
      | some u => popCount u.dirty
      | none => 0
    ((s.modDie (dieOf (t.gran * 2048)) fun x => { x with tags := x.tags.filter fun u => u.gran != t.gran }).spillVer t.part t.gran v 65).addWork
      ag.core ag.part ag.launch 0 (16 * dirty)

/-- Makes one of the 12 ways of a granule's set free, by evicting a base tag other than the granule's own (R47, R54, R55). -/
def freeWay (ag : Agent) (gr : Nat) : Exec Unit := do
  let s ← get
  let die := s.dieAt (dieOf (gr * 2048))
  let set := die.tags.filter fun t => s.sameSet t.gran gr
  if 12 ≤ set.length + (die.shadows.filter fun w => s.sameSet w.gran gr).length then
    match s.tagVictim (set.filter fun t => t.gran != gr) with
    | some t => evictTag ag t
    | none => pure ()

/-- An access reaches the home slice of bytes of one line: the granule's tag is allocated if it has none, in place of another of its set
once the 12 ways are taken; a line that the slice lacks is read from HBM, unless `whole` of it is written, and the tag is marked (R54, R59). -/
def touchHome (ag : Agent) (pa n : Nat) (whole : Bool) : Exec Unit := do
  let gr := pa / 2048
  if (((← get).dieAt (dieOf pa)).tagOf gr).isNone then
    freeWay ag gr
    upd fun s => s.allocTag ag.part gr
  upd fun s =>
    let s := if s.lineMissing (pa / 64) ∧ ! whole then s.addWork ag.core ag.part ag.launch 0 64 else s
    s.markTag ag.part pa n false

/-- A request to the home slice of bytes of one line: its tag, the merge of what committed launches have left of its granule, then the directory
(R54, R72, R157). -/
def homeWant (ag : Agent) (pa n : Nat) (write : Bool) (w : Want) (who : Option (BitVec 12)) : Exec Unit := do
  touchHome ag pa n (write && n == 64)
  upd fun s => s.mergeGranule (pa / 2048)
  dirWant ag (pa / 64) w who
  if write then upd fun s => s.markTag ag.part pa n true

/-- The soft lines of a physical range that are not uncached. -/
def State.softLines (s : State) (pa n : Nat) : List Nat :=
  s.dies.flatMap fun d =>
    (d.2.dir.filter fun e => bit e.2 53 && dirState e.2 != 0 && decide (pa / 64 ≤ e.1 ∧ e.1 * 64 < pa + n)).map (·.1)

/-- An untranslated access of the hardware to a physical range waits for the handlers' lists of its soft lines (R75); whether it may go on. -/
def State.freeSoft (s : State) (ag : Agent) (pa n : Nat) : State × Bool :=
  (s.softLines pa n).foldl
    (fun (acc : State × Bool) l =>
      match acc.1.dirRequest ag l .exclude none with
      | .granted t => (t, acc.2)
      | .waits t => (t, false))
    (s, true)

end Sys2Proof.Machine
end

