-- ==== Sys2Proof/Machine/Walk.lean ====
section
/-! DEFINITION. Page walks and translation caches, permissions, the resolution of an address, and host resolution (R12, R13, R17 to R28,
R33 to R42, R415). -/

namespace Sys2Proof.Machine

/-! ### Page tables (R17 to R24) -/

/-- PA[50:12] of an entry's frame field as an address (R18). -/
def frameOf (e : BitVec 64) : Nat := field e 13 39 * 4096

/-- The size of a leaf, log2, by level and L (Table 1.4); `none` for a pointer. -/
def leafLog2 (level : Nat) (l : Bool) : Option Nat :=
  match level, l with
  | 2, true => some 30
  | 1, true => some 21
  | 0, true => some 12
  | 0, false => some 16
  | _, _ => none

/-- What a walk finds: a leaf with its size, entry and address; an entry that faults, malformed or not (R19); or a table in memory that is
not there (R14, R56). -/
inductive Walk
  | leaf (log2 : Nat) (e : BitVec 64) (at_ : Nat)
  | fault (mal : Bool)
  | bus
  deriving DecidableEq, Repr

/-- The fault of a walk: its cause, and whether the record marks it malformed. -/
def Walk.cause : Walk → BitVec 8 × Bool
  | .bus => (Cause.bus, false)
  | .fault mal => (Cause.notPresent, mal)
  | .leaf _ _ _ => (Cause.notPresent, false)

/-- Whether the walker finds no memory at a physical address. -/
def State.noMemory (s : State) (pa : Nat) : Bool :=
  decide (populated ≤ pa) || match s.regionOf pa with
    | some e => regionMalformed e
    | none => false

/-- A pointer entry that a walk has read enters the walk cache of its die, 128 entries in all (R33). -/
def State.cachePointer (s : State) (die : Nat) (p : PointerEntry) : State :=
  s.modDie die fun x => { x with walkCache := (p :: x.walkCache.filter fun q => q != p).take 128 }

/-- The walk from a table at a level down (R17, R19). Each entry is read at its home, its committed value (R24), once the home has done what that
needs; pointer entries enter the walk cache. -/
def walkFrom (ag : Agent) (hp sealed : Bool) (va : Nat) : (level table : Nat) → Exec Walk
  | level, table => do
    let here := table + 8 * (va / 2 ^ (12 + 9 * level) % 512)
    if (← get).noMemory here then return .bus
    homeWant ag here 8 false .read none
    let e := BitVec.ofNat 64 ((← get).load here 8)
    if ! bit e 0 then return .fault false
    if field e 52 12 ≠ 0 then return .fault true
    if bit e 12 ∧ 3 ≤ level then return .fault true
    match leafLog2 level (bit e 12) with
    | some n =>
      if frameOf e % 2 ^ n ≠ 0 then return .fault true
      if bit e 7 ∧ (bit e 8 ∨ ! sealed) then return .fault true
      if bit e 8 ∧ ! hp then return .fault true
      return .leaf n e here
    | none =>
      if field e 1 11 ≠ 0 then return .fault true
      match level with
      | 0 => return .fault true
      | l + 1 =>
        upd fun s => s.cachePointer (ag.core / 256)
          { asid := ag.asid, part := ag.part, level := l + 1, page := va / 2 ^ (12 + 9 * (l + 1)), table := frameOf e }
        walkFrom ag hp sealed va l (frameOf e)

/-- The level and table at which a walk begins: below the deepest pointer entry that the die's walk cache holds for the address, else at the
level-4 table (R17, R33). -/
def Die.walkStart (d : Die) (part : Nat) (asid : BitVec 8) (va root : Nat) : Nat × Nat :=
  let hit (l : Nat) : Option PointerEntry :=
    d.walkCache.find? fun p => p.level == l && p.part == part && p.asid == asid && p.page == va / 2 ^ (12 + 9 * l)
  match [1, 2, 3, 4].findSome? hit with
  | some p => (p.level - 1, p.table)
  | none => (4, root)

/-- The walk of an address for an agent, setting A, and M for a write that the leaf permits, in the entry's committed value and without a
conflict (R23; a store refused with W = 0 sets A only, log 12). -/
def walk (ag : Agent) (va : Word) (write : Bool) : Exec Walk := do
  let s ← get
  if ! s.asidOwned ag.asid ag.part then return .fault false
  let a := s.astEntry ag.asid
  let (level, table) := (s.dieAt (ag.core / 256)).walkStart ag.part ag.asid va.toNat (field a 13 39 * 4096)
  match ← walkFrom ag (bit a 1) (s.partAt ag.part).sealed va.toNat level table with
  | .leaf n e k =>
    let e' := setBit e 10 true
    let e' := if write ∧ bit e 2 then setBit e' 11 true else e'
    if e' ≠ e then
      homeWant ag k 8 true .exclude none
      upd fun s => s.homeStore k (toBytes 8 e'.toNat)
    return .leaf n e' k
  | w => return w

/-! ### Sealed pages (R22) -/

/-- Whether a table of a level leads to a sealed leaf whose page meets `n` bytes of physical memory. -/
def State.leadsToSealed (s : State) (base n : Nat) : (level table : Nat) → Bool
  | level, table =>
    (List.range 512).any fun i =>
      let e := BitVec.ofNat 64 (s.load (table + 8 * i) 8)
      bit e 0 &&
        match leafLog2 level (bit e 12) with
        | some k => bit e 7 && decide (frameOf e < base + n ∧ base < frameOf e + 2 ^ k)
        | none =>
          match level with
          | 0 => false
          | l + 1 => s.leadsToSealed base n l (frameOf e)

/-- Whether a sealed page of a sealed partition meets `n` bytes of physical memory. -/
def State.sealedRange (s : State) (base n : Nat) : Bool :=
  (List.range 256).any fun a =>
    let e := s.astEntry (BitVec.ofNat 8 a)
    bit e 0 && (s.partAt (field e 2 5)).sealed && s.leadsToSealed base n 4 (field e 13 39 * 4096)

/-! ### Translation caches (R33, R34) -/

/-- Whether a cached entry serves an address: by its ASID, or for a global one by its partition (R33). -/
def TlbEntry.serves (t : TlbEntry) (part : Nat) (asid : BitVec 8) (va : Nat) : Bool :=
  t.page == va / 2 ^ t.log2 && (if bit t.leaf 9 then t.part == part else t.asid == asid)

/-- A cached translation, from the L1 or the L2 TLB. -/
def State.tlbFind (s : State) (core part : Nat) (asid : BitVec 8) (va : Nat) : Option TlbEntry :=
  match (s.coreAt core).l1tlb.find? (fun t => t.serves part asid va) with
  | some t => some t
  | none => (s.quadAt (core / 4)).l2tlb.find? (fun t => t.serves part asid va)

/-- The entries that an L2 TLB can hold: 4,096 of pages up to 64 KiB, 256 of larger ones (R33). -/
def trimL2Tlb (l : List TlbEntry) : List TlbEntry :=
  (l.filter fun t => decide (t.log2 ≤ 16)).take 4096 ++ (l.filter fun t => ! decide (t.log2 ≤ 16)).take 256

/-- Installs a walk's result in both TLBs, in place of an older entry for the address; the oldest beyond their sizes go. -/
def State.tlbInstall (s : State) (core : Nat) (t : TlbEntry) (va : Nat) : State :=
  let put (l : List TlbEntry) := t :: l.filter fun u => ! u.serves t.part t.asid va
  (s.modCore core fun c => { c with l1tlb := (put c.l1tlb).take 96 }).modQuad (core / 4) fun q =>
    { q with l2tlb := trimL2Tlb (put q.l2tlb) }

/-- A miss in both TLBs (R34): the walk's result is installed, or its fault is the access's. -/
def translateMiss (ag : Agent) (va : Word) (write : Bool) : Exec (Nat × BitVec 64) := do
  match ← walk ag va write with
  | .leaf n e _ =>
    upd fun s => s.tlbInstall ag.core { asid := ag.asid, part := ag.part, page := va.toNat / 2 ^ n, log2 := n, leaf := e } va.toNat
    return (n, e)
  | w => trapIn w.cause.1 va w.cause.2

/-- The leaf for an address: from a TLB, or by a walk that installs it; a write that finds M = 0 walks again (R23). An address space that
is not valid or not the partition's has none (R16). -/
def translate (ag : Agent) (va : Word) (write : Bool) : Exec (Nat × BitVec 64) := do
  let s ← get
  if ! s.asidOwned ag.asid ag.part then trapIn Cause.notPresent va
  match s.tlbFind ag.core ag.part ag.asid va.toNat with
  | some t => if write ∧ ! bit t.leaf 11 then translateMiss ag va write else return (t.log2, t.leaf)
  | none => translateMiss ag va write

/-! ### Resolution -/

/-- Whether a leaf grants an access class (Table 1.6). -/
def permitted (cls : Access) (e : BitVec 64) : Bool :=
  let r := bit e 1
  let w := bit e 2
  match cls with
  | .load | .prefetch => r
  | .store | .red | .invalidate => w
  | .atomic | .join => r && w
  | .writeBack => r || w
  | .fetch => bit e 3 && ! bit e 8

/-- A local-store access: fetch is refused, a user access above the program range is refused, a locked range holds a user's
access, and a sealed sector is refused (R27, R168, R298). -/
def reachLs (ag : Agent) (cls : Access) (va : Word) (core off n : Nat) : Exec Place := fun s =>
  if cls = .fetch then .error (.trapIn s Cause.protect va false)
  else if 0x70000 < off + n ∧ ! ag.super then .error (.trapIn s Cause.protect va false)
  else if (s.coreAt core).locked off n ∧ ! ag.super then .error (.wait .memory s)
  else if ag.super ∨ cls = .prefetch ∨ cls = .writeBack ∨ cls = .invalidate then .ok (.ls core off, s)
  else
    match (s.coreAt core).firstSealed off n with
    | some b =>
      .error (.trapIn s (if cls = .load then Cause.jointTag else Cause.jointStore) (va + BitVec.ofNat 64 (b - off)) false)
    | none => .ok (.ls core off, s)

/-- A bounce page of a sealed partition (R390): its index in its window, its untranslated address, its tag's address, and the use
count of the page. -/
structure Bounce where
  index : Nat
  page  : Nat
  tagAt : Nat
  uses  : Nat
  deriving DecidableEq, Repr

/-- The bounce page of a list of windows that covers an address; the tag array follows the window (log 24). -/
def bounceOf (ws : List BounceWindow) (ua : Nat) : Option Bounce :=
  match ws.find? fun w => decide (w.base ≤ ua ∧ ua < w.base + 4096 * w.pages) with
  | some w =>
    let i := (ua - w.base) / 4096
    some { index := i, page := w.base + 4096 * i, tagAt := w.base + 4096 * w.pages + 16 * i, uses := w.uses.get 0 i }
  | none => none

/-- A page of a window has been used once more (log 24). -/
def BounceWindow.use (w : BounceWindow) (b : Bounce) : BounceWindow :=
  if w.base + 4096 * b.index = b.page then { w with uses := w.uses.set b.index (b.uses + 1) } else w

/-- The bounce page that a copy of a sealed partition may read or write. -/
def State.bounce (s : State) (ag : Agent) (cls : Access) (ua : Nat) : Option Bounce :=
  if ! ag.copy then none
  else if cls = .load then bounceOf (s.partAt ag.part).bounceIn ua
  else if cls = .store then bounceOf (s.partAt ag.part).bounceOut ua
  else none

/-- Resolves the `n` bytes at `va`, which lie in one line, for an access class (R12 to R32). XVALUE of BUS_ERROR is the virtual address, where
Table 16.2 allows the physical one too (DESIGN CHOICE, log 86). -/
def resolve (ag : Agent) (cls : Access) (va : Word) (n : Nat) : Exec Place := do
  let a := va.toNat
  if field va 57 7 ≠ 0 then trapIn Cause.notPresent va
  if aliasBase ≤ a ∧ a < aliasBase + 2 ^ 19 then reachLs ag cls va ag.core (a % 2 ^ 19) n
  else if windowBase ≤ a ∧ a < windowBase + 2 ^ 30 then
    if cls = .fetch then trapIn Cause.protect va
    else
      match (← get).vcnCore ag.part (a / 2 ^ 19 % 2048) with
      | some c => reachLs ag cls va c (a % 2 ^ 19) n
      | none => trapIn Cause.notPresent va
  else if aliasBase ≤ a ∧ a < 0x800000000000 then trapIn Cause.notPresent va
  else
    let (log2, e) ← translate ag va cls.writes
    if ! permitted cls e then trapIn Cause.protect va
    if field e 4 2 = 3 ∨ (bit e 8 ∧ field e 4 2 = 2) then trapIn Cause.pageKind va
    if (cls = .atomic ∨ cls = .red ∨ cls = .join) ∧ field e 4 2 = 2 then trapIn Cause.pageKind va
    if cls = .join ∧ bit e 8 then trapIn Cause.pageKind va
    let pa := frameOf e + a % 2 ^ log2
    if bit e 8 then
      let s ← get
      if (s.partAt ag.part).sealed && (s.bounce ag cls pa).isNone then trapIn Cause.protect va
      return .host (BitVec.ofNat 64 pa) e
    match (← get).homeCheck ag.part pa with
    | .ok => return .phys pa e
    | .bus => trapIn Cause.bus va
    | .protect =>
      upd fun s => s.postAccessFault ag.part ag.core cls.writes ag.engine pa va
      trapIn Cause.protect va

/-- The home quad of a place, if it has one (R178). -/
def State.homeQuad (s : State) (ag : Agent) (va : Word) : Place → Option Nat
  | .phys pa _ => some (s.homeQuadOf pa)
  | .host _ _ => none
  | .ls c _ => if windowBase ≤ va.toNat then some (c / 4) else if c = ag.core then none else some (c / 4)

/-! ### Host pages (R40 to R42, R415) -/

/-- The PASID of an address space (Table 1.3). -/
def State.pasidOf (s : State) (asid : BitVec 8) : BitVec 20 := BitVec.ofNat 20 (field (s.astEntry asid) 64 20)

/-- The host access in progress of a strand, or of an engine command. -/
def State.hostOf (s : State) (ag : Agent) : Option HostAccess :=
  if ag.engine then (s.partAt ag.part).engineHost.find ag.unit else (s.slotAt ag.core ag.slot).host

/-- Replaces it. -/
def State.setHost (s : State) (ag : Agent) (h : Option HostAccess) : State :=
  if ag.engine then
    s.modPart ag.part fun p =>
      { p with engineHost := match h with
          | .some x => p.engineHost.set ag.unit x
          | .none => Map.erase p.engineHost ag.unit }
  else s.modSlot ag.core ag.slot fun x => { x with host := h }

/-- The generation in which the unit counts a request that it issues now. -/
def State.genNo (s : State) (ag : Agent) : Nat :=
  if ! ag.engine then (s.coreAt ag.core).gen.no
  else if ag.unit < trussUnit then (s.quadAt (ag.unit / 65536)).copyGen.no
  else if ag.unit < feedUnit then (s.coreAt ((ag.unit - trussUnit) / 8)).trussGen.no
  else 0

/-- How far an agent's access of several pieces has come. -/
def State.progOf (s : State) (ag : Agent) : Progress :=
  if ag.engine then ((s.partAt ag.part).engineProg.find ag.unit).getD Progress.none else (s.slotAt ag.core ag.slot).prog

/-- Notes how far it has come. -/
def State.setProg (s : State) (ag : Agent) (p : Progress) : State :=
  if s.progOf ag = p then s
  else if ag.engine then
    s.modPart ag.part fun x =>
      { x with engineProg := if p = Progress.none then Map.erase x.engineProg ag.unit else x.engineProg.set ag.unit p }
  else s.modSlot ag.core ag.slot fun x => { x with prog := p }

/-- Resolves a request to a host page; while the host answers, the strand is not-ready on memory, and a command stays due (R41). -/
def hostResolve (ag : Agent) (ua va : Word) (n index : Nat) (read write : Bool) : Exec Nat := fun s =>
  let fresh := HostAccess.start (s.pasidOf ag.asid) ua va n index read write
  let h := match s.hostOf ag with
    | some h => if h.index = index ∧ h.ua = ua ∧ ! h.sent then h else fresh
    | none => fresh
  match s.hostLook ag.part h with
  | .ta a => .ok (a, s)
  | .fault c => .error (.trapIn (s.setHost ag none) c va false)
  | .wait h => .error (.wait .memory (s.setHost ag (some h)))

/-- Sends a Memory Read or an AtomicOp from the port die: it is counted by the unit that issues it and by the address translation cache
(R35, R36), and goes to the address that its translation has given. -/
def State.sendHost (s : State) (ag : Agent) (ua va : Word) (n index ta : Nat) (amo : Option HostAtomic) : State :=
  let port := s.portOf ag.part
  let h : HostAccess :=
    { HostAccess.start (s.pasidOf ag.asid) ua va n index true amo.isSome with
      sent := true, ta := ta, amo := amo, gen := s.genNo ag, atcGen := (s.portAt port).atcGen.no }
  ((s.setHost ag (some h)).modGen ag.engine ag.unit ag.core GenCount.issue).modPort port fun p => { p with atcGen := p.atcGen.issue }

/-- A failed completion of a request faults the access, and names the first byte of that request; `ur` is the cause of an Unsupported Request
(R89, R415). -/
def hostFailure (ag : Agent) (va : Word) (ur : BitVec 8) (c : Completion) : Exec Unit := do
  upd fun s => s.setHost ag none
  trapIn (if c = .unsupported then ur else Cause.bus) va

/-- Whether the request of piece `index` of an agent's access has been sent. -/
def State.sentPiece (s : State) (ag : Agent) (index : Nat) : Bool :=
  match s.hostOf ag with
  | some h => h.sent && h.index == index
  | none => false

/-- Waits for the completion of a request that has been sent; a failed one faults the access. -/
def stallOrFail (ag : Agent) (va : Word) (ur : BitVec 8) : Exec Unit := do
  match ((← get).hostOf ag).bind (·.answer) with
  | none => stall .memory
  | some c => hostFailure ag va ur c

/-- One request of an access that the host answers (R89, R400, R415), the access's piece `index`: it is resolved, charged and sent, each on its
own, and its completion is waited for. -/
def hostRequest (ag : Agent) (ua va : Word) (n index : Nat) (amo : Option HostAtomic) (ur : BitVec 8) (charge : Exec Unit) :
    Exec (List Byte) := do
  let s ← get
  match (s.progOf ag).got.find index with
  | some bs => return bs
  | none =>
    if s.sentPiece ag index then stallOrFail ag va ur
    let ta ← hostResolve ag ua va n index true amo.isSome
    charge
    upd fun s => s.sendHost ag ua va n index ta amo
    stall .memory

/-- Ends an access: what the slot or the unit holds of it is cleared. -/
def endAccess (ag : Agent) : Exec Unit := upd fun s =>
  let s := if (s.hostOf ag).isSome then s.setHost ag none else s
  s.setProg ag Progress.none

end Sys2Proof.Machine
end

