-- ==== Sys2Proof/Machine/Access.lean ====
section
/-! DEFINITION. Accesses to memory: pieces, caching by page kind, versions, local stores and host pages (R28, R44 to R46, R58,
R79 to R86, R93, R102 to R106, R146 to R151). -/

namespace Sys2Proof.Machine

/-- Cuts a byte range at line boundaries, so that no piece crosses a line, page or window (R28, R93, R106). -/
def splitLines : (fuel : Nat) → (va n : Nat) → List (Word × Nat)
  | 0, _, _ => []
  | fuel + 1, va, n =>
    if n = 0 then []
    else
      let k := 64 - va % 64
      let k := if n < k then n else k
      (BitVec.ofNat 64 va, k) :: splitLines fuel ((va + k) % 2 ^ 64) (n - k)

/-- Pieces of a range. -/
def pieces (va : Word) (n : Nat) : List (Word × Nat) := splitLines (n / 64 + 2) va.toNat n

/-- Page kinds of a leaf: 0 SO, 1 RC, 2 UO. -/
def kindOf (leaf : BitVec 64) : Nat := field leaf 4 2

/-- The version tag of an access: 0 when the page has D = 1 (R146). -/
def tagFor (ag : Agent) (leaf : BitVec 64) : BitVec 8 := if bit leaf 6 then 0 else ag.tag

/-- The sectors of a line that a byte range meets. -/
def sectorsOf (off n : Nat) : BitVec 4 :=
  BitVec.ofNat 4 (((List.range 4).filter fun i => decide (off < 16 * (i + 1) ∧ 16 * i < off + n)).foldl (fun a i => a + 2 ^ i) 0)

/-- The budget class of an agent's accesses (R185). -/
def Agent.cls (ag : Agent) : Nat := if ag.engine then 1 else 0

/-- Whether a request is the first of those that wait for a budget of a core's router. -/
def State.gateHead (s : State) (ag : Agent) (core key : Nat) : Bool :=
  match (s.quadAt (core / 4)).gate.find? fun g => g.1 == key && (g.2 == s.waiter ag || s.stillWaits g.2) with
  | some g => g.2 == s.waiter ag
  | none => true

/-- Whether a request may be injected at a core's router: there is no budget, or its count is below it and no held request stands before
this one (R185). -/
def State.mayInject (s : State) (ag : Agent) (core key : Nat) : Bool :=
  s.budgetAt core key == 0 || (s.admits core key && s.gateHead ag core key)

/-- A request is held at a core's router, in its place, with the entries of requests that wait no more removed. -/
def State.joinGate (s : State) (ag : Agent) (core key : Nat) : State :=
  let me := (key, s.waiter ag)
  s.modQuad (core / 4) fun q =>
    let kept := q.gate.filter fun g => g == me || s.stillWaits g.2
    { q with gate := if kept.contains me then kept else kept ++ [me] }

/-- It is held no more. -/
def State.leaveGate (s : State) (ag : Agent) (core key : Nat) : State :=
  if (s.quadAt (core / 4)).gate = [] then s
  else s.modQuad (core / 4) fun q => { q with gate := q.gate.filter (· != (key, s.waiter ag)) }

/-- Injects `n` flits of an agent's request at a core's router, or makes it wait there (R185). -/
def injectAt (ag : Agent) (core flits : Nat) : Exec Unit := fun s =>
  let key := budgetKey ag.part ag.cls
  if ag.feed then .ok ((), s)
  else if ag.admitted || s.mayInject ag core key then .ok ((), (s.leaveGate ag core key).countFlits core key flits)
  else .error (.wait .memory (s.joinGate ag core key))

/-- Injects the packets of an access between an agent's router and the router of a home, or makes the strand wait for the next window: a read
asks with one flit and its reply carries the data, a write carries the data and is answered with one flit, each charged where it is
injected, in the class of the request (log 37). A feed charges its own path (R64); the second part of a join's decrement passes with the
first. -/
def injectAccess (ag : Agent) (home : Nat) (write : Bool) (n : Nat) : Exec Unit := fun s =>
  let key := budgetKey ag.part ag.cls
  let data := (n + 63) / 64
  if ag.feed || ag.admitted || s.mayInject ag ag.core key then
    match injectAt ag (4 * home) (if write then 1 else data) s with
    | .ok ((), t) => injectAt { ag with admitted := true } ag.core (if write then data else 1) t
    | res => res
  else .error (.wait .memory (s.joinGate ag ag.core key))

/-- The packets of an access to the local store of another core. -/
def injectWindow (ag : Agent) (core : Nat) (write : Bool) (n : Nat) : Exec Unit :=
  if core = ag.core then pure () else injectAccess ag (core / 4) write n

/-- The request of an access to a host page; its answer is injected at the port die (log 37). -/
def injectHost (ag : Agent) (write : Bool) (n : Nat) : Exec Unit := injectAt ag ag.core (if write then (n + 63) / 64 else 1)

/-- The packets of an access to physical memory at its home. -/
def chargeHome (ag : Agent) (pa : Nat) (write : Bool) (n : Nat) : Exec Unit := fun s => injectAccess ag (s.homeQuadOf pa) write n s

/-- Registers a versioned access with the tag that it has allocated; a launch that loses the conflict performs nothing more (R150). -/
def registerAccess (ag : Agent) (gr : Nat) (write : Bool) : Exec Unit := fun s =>
  match s.register ag.part gr ag.tag write with
  | (t, true) => .error (.quit t)
  | (t, false) => .ok ((), t)

/-- An L1 or RDC line without data. -/
def CacheLine.coherent (state : LineState) (tag : BitVec 8) (valid : BitVec 4) : CacheLine where
  state := state
  uo := false
  vtag := tag
  valid := valid
  dirty := 0
  data := 0
  op := .add
  size := .w
  touch := 0
  part := 0
  sharers := []
  bcast := false
  way := 0

/-! ### Lines that leave a cache (R45, R47, R57, R58, R73, R104) -/

/-- Writes back the dirty sectors of an unregistered line of a core (R104); whole sectors are carried. -/
def State.uoWriteBack (s : State) (core line : Nat) : State :=
  match (s.coreAt core).l1.find line with
  | some l =>
    if l.uo ∧ l.dirty ≠ 0 then
      let s := (((s.settleLine line true).directWrite (s.partOf core) (line / 32)).mergeLine (line * 64) l.dirty (lineBytes l.data)).countPair
        core (s.homeQuadOf (line * 64)) 1 1
      s.modCore core fun c => { c with l1 := c.l1.set line { l with dirty := 0, state := .shared } }
    else s
  | none => s

/-- The directory loses one U holder of a line (R73): what a handler has recorded stays with the line (R74 to R76). -/
def State.dropPointer (s : State) (line : Nat) (p : BitVec 12) : State :=
  let e := s.dirAt line
  let ps := (dirPtrs e).filter (· != p)
  s.setDir line (if ps = [] ∧ ! bit e 53 then 0 else dirWith e (dirState e) ps)

/-- Releases a core's U copy of a line: to the home, or to its die's RDC for a remote line (R73). -/
def State.releaseU (s : State) (core line : Nat) : State :=
  match (s.coreAt core).l1.find line with
  | some l =>
    if l.state = LineState.updateOnly then
      let s := s.modCore core fun c => { c with l1 := Map.erase c.l1 line }
      let d := core / 256
      if d = dieOf (line * 64) then (s.combine line l).dropPointer line (sharerPtr core (line * 64))
      else
        match (s.dieAt d).rdc.find line with
        | some r =>
          if r.state = LineState.updateOnly then s.modDie d fun x => { x with rdc := x.rdc.set line (combineInto r l) } else s.combine line l
        | none => s.combine line l
    else s
  | none => s

/-- A core's L1 gives up a line that is replaced: an S or E line silently, an M line by writing back, a U line by its partial (R73). -/
def State.evictL1 (s : State) (core line : Nat) : State :=
  match (s.coreAt core).l1.find line with
  | none => s
  | some l =>
    if l.uo then (s.uoWriteBack core line).modCore core fun c => { c with l1 := Map.erase c.l1 line }
    else if l.state = .updateOnly then s.releaseU core line
    else if l.state = .modified then (s.dropL1 core line).dropPointer line (sharerPtr core (line * 64))
    else s.dropL1 core line

/-- A die's RDC gives up a line that is replaced: its die-local copies go with it, and a U line is combined at its home (R58, R86). -/
def State.evictRdc (s : State) (d line : Nat) : State :=
  match (s.dieAt d).rdc.find line with
  | none => s
  | some l =>
    if l.uo then s.modDie d fun x => { x with rdc := Map.erase x.rdc line }
    else if l.state = .updateOnly then
      ((s.combine line (s.rdcGathered d line l)).dropRdc d line).dropPointer line (BitVec.ofNat 12 (2048 + d * 256))
    else s.dropRdc d line

/-- The L1 set of a line: 2,048 sets (R45). -/
def l1Set (line : Nat) : Nat := line % 2048

/-- A core gives up what its L1 holds of a line in another way than the one it is to hold it in. -/
def State.giveUpOld (s : State) (core line : Nat) (l : CacheLine) : State :=
  match (s.coreAt core).l1.find line with
  | some o =>
    if o.uo ≠ l.uo ∨ (o.state = LineState.updateOnly ∧ l.state ≠ LineState.updateOnly) then s.evictL1 core line else s
  | none => s

/-- Puts a line into a core's L1: what it held of the line in another way is given up first (one copy of a line, whatever its tag: R147; R73);
a full set of 12 gives one up (R45), and an unregistered line whose write-back would have to wait for a handler's list only if no other can
go (R75). -/
def State.l1Put (s : State) (core line : Nat) (l : CacheLine) : State :=
  let s := s.giveUpOld core line l
  let l1 : Map CacheLine := (s.coreAt core).l1
  let set := l1.filter fun e => e.1 != line && l1Set e.1 == l1Set line
  let able := set.filter fun e => ! (e.2.uo && e.2.dirty != 0 && bit (s.dirAt e.1) 53)
  let set := if able = [] then set else able
  let s := if (l1.filter fun e => e.1 != line && l1Set e.1 == l1Set line).length < 12 ∨ (l1.find line).isSome then s
    else
      match set[Config.victim s.tick % set.length]? with
      | some e => s.evictL1 core e.1
      | none => s
  s.modCore core fun c => { c with l1 := c.l1.set line l }

/-- The RDC slice and set of a line: slice PA[12:11], 8,192 sets by the address bits beside it (R57; the bits of the set are log 69). -/
def rdcSet (line : Nat) : Nat × Nat := (line / 32 % 4, line % 32 + line / 128 % 256 * 32)

/-- The ways of a die's RDC in which a partition's lines are placed: those the operator assigned, all of them if it assigned none (R57,
log 69). -/
def State.rdcWaysOf (s : State) (part d : Nat) : List Nat := setBits ((s.partAt part).rdcWays.get (BitVec.allOnes 16) d)

/-- Puts a line into a die's RDC: into the way it has, a free one of the partition's, or one that is given up (R57). With no way assigned
the line is not held. -/
def State.rdcPut (s : State) (part d line : Nat) (l : CacheLine) : State :=
  let rdc := (s.dieAt d).rdc
  let put (s : State) (w : Nat) : State := s.modDie d fun x => { x with rdc := x.rdc.set line { l with way := w } }
  match rdc.find line with
  | some old => put s old.way
  | none =>
    let set := rdc.filter fun e => rdcSet e.1 == rdcSet line
    let ways := s.rdcWaysOf part d
    match ways.find? fun w => ! set.any fun e => e.2.way == w with
    | some w => put s w
    | none =>
      let mine := set.filter fun e => ways.contains e.2.way
      match mine[Config.victim s.tick % mine.length]? with
      | some e => put (s.evictRdc d e.1) e.2.way
      | none => s

/-! ### Fills and hits (R44, R58, R147) -/

/-- An RDC line that a die-local L1 shares: a pointer, while there are no more than four; a fifth makes it a
broadcast (R58 names no overflow; DESIGN CHOICE, log 87). -/
def CacheLine.share (l : CacheLine) (core : Nat) : CacheLine :=
  if l.sharers.contains core then l
  else if l.sharers.length < 4 then { l with sharers := l.sharers ++ [core] }
  else { l with bcast := true }

/-- Records a fill of a coherent line: in L1, and for an RC line of another die in the RDC too (Table 2.1). A read is
granted S, and E comes from an ownership request or CWB alone (R72 names no read that is granted E; DESIGN CHOICE, log 88). -/
def State.fillShared (s : State) (core line : Nat) (tag : BitVec 8) (off n : Nat) : State :=
  let remote := core / 256 != dieOf (line * 64)
  let v := sectorsOf off n
  let old := match (s.coreAt core).l1.find line with
    | some l => if l.vtag == tag && ! l.uo && l.state != LineState.updateOnly then l else CacheLine.coherent .shared tag 0
    | none => CacheLine.coherent .shared tag 0
  let s := s.l1Put core line { old with valid := old.valid ||| v }
  if remote then
    let was := ((s.dieAt (core / 256)).rdc.find line).getD (CacheLine.coherent .shared tag 0)
    let r := if was.state = LineState.updateOnly ∨ was.uo ∨ was.vtag ≠ tag then
        { CacheLine.coherent .shared tag 0 with sharers := was.sharers, bcast := was.bcast }
      else was
    s.rdcPut (s.partOf core) (core / 256) line ({ r with valid := r.valid ||| v }.share core)
  else s

/-- Whether an L1 holds the sectors of a coherent line under a tag. -/
def State.l1Hit (s : State) (core line : Nat) (tag : BitVec 8) (off n : Nat) : Bool :=
  match (s.coreAt core).l1.find line with
  | some l => ! l.uo && l.vtag == tag && l.state != LineState.updateOnly && (l.valid &&& sectorsOf off n) == sectorsOf off n
  | none => false

/-- Whether a die's RDC holds the sectors of a coherent line under a tag (R58). -/
def State.rdcHit (s : State) (die line : Nat) (tag : BitVec 8) (off n : Nat) : Bool :=
  match (s.dieAt die).rdc.find line with
  | some l => ! l.uo && l.vtag == tag && l.state == LineState.shared && (l.valid &&& sectorsOf off n) == sectorsOf off n
  | none => false

/-! ### Unregistered lines (R44, R46, R104) -/

/-- The sectors of an unregistered line that a core's L1 holds. -/
def State.uoValid (s : State) (core line : Nat) : BitVec 4 :=
  match (s.coreAt core).l1.find line with
  | some l => if l.uo then l.valid else 0
  | none => 0

/-- The home's bytes of an unregistered line: its base line, uncached in E or U (R86); counted and charged as any home access. -/
def uoHome (ag : Agent) (line : Nat) (v : BitVec 4) : Exec (BitVec 512) := do
  homeWant ag (line * 64) 64 false .read none
  chargeHome ag (line * 64) false (16 * popCount v)
  return BitVec.ofNat 512 ((← get).load (line * 64) 64)

/-- The sectors `v` of an unregistered line, in the issuing core's L1: those it lacks come from the RDC of a line of another die, else from
the home (R44, R104). While the line has a live shadow copy, all but what this core has written itself comes from the home, and nothing is
cached (R148). -/
def uoFill (ag : Agent) (line : Nat) (v : BitVec 4) : Exec CacheLine := do
  let s ← get
  let d := ag.core / 256
  let remote := d != dieOf (line * 64)
  let empty := { CacheLine.coherent .shared 0 0 with uo := true }
  let l := match (s.coreAt ag.core).l1.find line with
    | some l => if l.uo then l else empty
    | none => empty
  let shadowed := s.liveShadow line
  let need := v &&& ~~~ (if shadowed then l.dirty else l.valid)
  if need = 0 then return l
  else
    let far : Option CacheLine := match (s.dieAt d).rdc.find line with
      | some r => if remote ∧ ! shadowed ∧ r.uo ∧ r.valid &&& need = need then some r else none
      | none => none
    let src ← match far with
      | some r => pure r.data
      | none => uoHome ag line need
    let data := (setBits need).foldl (fun x i => setField x (128 * i) 128 (field src (128 * i) 128)) l.data
    let l := { l with valid := l.valid ||| need, data := data }
    if shadowed then return l
    else
      if remote ∧ far.isNone then
        upd fun s => s.rdcPut ag.part d line { CacheLine.coherent .shared 0 15 with uo := true, data := src }
      upd fun s => s.l1Put ag.core line l
      return l

/-- The sectors of a line that a store of `n` bytes writes only in part (R46). -/
def partSectors (off n : Nat) : BitVec 4 :=
  BitVec.ofNat 4
    (((List.range 4).filter fun i => decide (off < 16 * (i + 1) ∧ 16 * i < off + n) && ! decide (off ≤ 16 * i ∧ 16 * (i + 1) ≤ off + n)).foldl
      (fun a i => a + 2 ^ i) 0)

/-- A store to an unregistered line: on the home die into the issuing core's L1, without a fetch for whole sectors; else through to the home,
updating the copies that hold the sectors (R46, R58). -/
def writeUo (ag : Agent) (pa : Nat) (bs : List Byte) : Exec Unit := do
  let line := pa / 64
  let off := pa % 64
  let v := sectorsOf off bs.length
  let d := ag.core / 256
  if d = dieOf pa then
    let l ← uoFill ag line (partSectors off bs.length)
    upd fun s => s.l1Put ag.core line
      { l with
        state := .modified, valid := l.valid ||| v, dirty := l.dirty ||| v
        data := setField l.data (8 * off) (8 * bs.length) (ofBytes bs) }
  else
    homeWant ag pa bs.length true .exclude none
    chargeHome ag pa true bs.length
    upd fun s => (s.directWrite ag.part (pa / 2048)).storeBytes pa bs
    let put (l : CacheLine) : CacheLine :=
      if l.uo ∧ l.valid &&& v = v then { l with data := setField l.data (8 * off) (8 * bs.length) (ofBytes bs) } else l
    upd fun s => s.modCore ag.core fun c => { c with l1 := c.l1.map fun e => if e.1 = line then (e.1, put e.2) else e }
    upd fun s => s.modDie d fun x => { x with rdc := x.rdc.map fun e => if e.1 = line then (e.1, put e.2) else e }

/-! ### Physical memory -/

/-- Reads `n` bytes of one line of physical memory. -/
def readPhys (ag : Agent) (pa n : Nat) (leaf : BitVec 64) : Exec Nat := do
  let line := pa / 64
  let gr := pa / 2048
  let off := pa % 64
  let tag := tagFor ag leaf
  let remote := ag.core / 256 != dieOf pa
  if kindOf leaf = 2 ∧ tag = 0 ∧ ! ag.engine then
    let l ← uoFill ag line (sectorsOf off n)
    return field l.data (8 * off) (8 * n)
  else
    let caches := ! ag.engine && kindOf leaf != 2 && ! (remote && kindOf leaf == 0)
    let near : Bool := caches && remote && (← get).rdcHit (ag.core / 256) line tag off n
    if near then upd fun s => s.fillShared ag.core line tag off n
    if near || caches && (← get).l1Hit ag.core line tag off n then
      let s ← get
      match (if tag = 0 then none else s.shadowOf ag.part tag line) with
      | some l => return field l.data (8 * off) (8 * n)
      | none => return s.load pa n
    else
      let keep := caches && ! (tag == 0 && (← get).liveShadow line)
      homeWant ag pa n false .read (if keep then some (sharerPtr ag.core pa) else none)
      if tag ≠ 0 then registerAccess ag gr false
      chargeHome ag pa false n
      let s ← get
      match (if tag = 0 then none else s.shadowOf ag.part tag line) with
      | some l =>
        upd fun s => s.touchShadow gr tag
        if keep then upd fun s => s.fillShared ag.core line tag off n
        return field l.data (8 * off) (8 * n)
      | none =>
        if keep then upd fun s => s.fillShared ag.core line tag off n
        return (← get).load pa n

/-- The registered copies of a line under a version tag: L1s by core, RDCs by die (R148). -/
def State.taggedCopies (s : State) (line : Nat) (tag : BitVec 8) : List (Nat × CacheLine) × List (Nat × CacheLine) :=
  let mine (l : CacheLine) : Bool := l.vtag == tag && ! l.uo && l.state != LineState.updateOnly
  let of (m : Map CacheLine) : List CacheLine := ((m.find line).toList).filter mine
  (s.cores.flatMap fun c => (of c.2.l1).map fun l => (c.1, l), s.dies.flatMap fun d => (of d.2.rdc).map fun l => (d.1, l))

/-- Keeps copies that an invalidation spares, with their pointers; beyond four the line is broadcast (R148, R76). -/
def State.restoreCopies (s : State) (line : Nat) (cs : List (Nat × CacheLine) × List (Nat × CacheLine)) : State :=
  let home := dieOf (line * 64)
  let ps := ((cs.1.filter fun c => c.1 / 256 == home).map fun c => BitVec.ofNat 12 (c.1 % 256))
    ++ cs.2.map fun d => BitVec.ofNat 12 (2048 + d.1 * 256)
  let s := cs.1.foldl (fun t c => t.modCore c.1 fun x => { x with l1 := x.l1.set line c.2 }) s
  let s := cs.2.foldl (fun t d => t.modDie d.1 fun x => { x with rdc := x.rdc.set line d.2 }) s
  if ps = [] then s else s.setDir line (dirWith (if ps.length ≤ 4 then 0 else setBit 0 52 true) 1 (ps.take 4))

/-- The bytes of a line as the launch of an agent sees them at the home: its own shadow copy, else the base line (R149). -/
def State.ownLine (s : State) (ag : Agent) (line : Nat) : ShadowLine :=
  (s.shadowOf ag.part ag.tag line).getD { dirty := 0, data := BitVec.ofNat 512 (s.load (line * 64) 64) }

/-- A granule that has no shadow way of a tag needs one of its set's 12 ways; beyond three shadow ways the least recently used spills instead
(R55, R148). -/
def shadowRoom (ag : Agent) (gr : Nat) : Exec Unit := do
  let s ← get
  let ways := (s.dieAt (dieOf (gr * 2048))).shadows.filter fun w => s.sameSet w.gran gr
  if ! (ways.any fun w => w.gran == gr && w.tag == ag.tag) ∧ ways.length < 3 then freeWay ag gr

/-- Writes bytes into a shadow line of the agent's launch (R148): every copy goes but those of the launch, which a plain store of an SO or RC
page leaves (`keep`); U partials are combined into the base line first. `turn` is the write's place in the order of arrival; `f` gives the new
bytes from the old. -/
def writeShadow (ag : Agent) (pa n : Nat) (keep : Bool) (turn : Exec Unit) (f : Nat → Nat) : Exec Nat := do
  let line := pa / 64
  let off := pa % 64
  let s ← get
  let copies := if keep then s.taggedCopies line ag.tag else ([], [])
  homeWant ag pa n false .exclude none
  upd fun s => s.restoreCopies line copies
  shadowRoom ag (pa / 2048)
  registerAccess ag (pa / 2048) true
  chargeHome ag pa true n
  turn
  upd fun s => s.mergeGranule (pa / 2048)
  let l := (← get).ownLine ag line
  let old := field l.data (8 * off) (8 * n)
  let l := { dirty := l.dirty ||| sectorsOf off n, data := setField l.data (8 * off) (8 * n) (f old) }
  upd fun s => s.putShadow ag.part ag.tag line l
  return old

/-- A store to a line of another die is written through: the RDC of the issuing die and the L1 of the issuing core keep their copies, every
other copy is invalidated (R46, R58). -/
def writeThrough (ag : Agent) (pa : Nat) (bs : List Byte) : Exec Unit := do
  let line := pa / 64
  let d := ag.core / 256
  let s ← get
  let l1 : Option CacheLine := match (s.coreAt ag.core).l1.find line with
    | some l => if ! l.uo ∧ l.vtag = 0 ∧ l.state = LineState.shared then some l else none
    | none => none
  let held : Option CacheLine := match (s.dieAt d).rdc.find line with
    | some r => if ! r.uo ∧ r.vtag = 0 ∧ r.state = LineState.shared then some r else none
    | none => none
  homeWant ag pa bs.length true .exclude none
  chargeHome ag pa true bs.length
  upd fun s => (s.directWrite ag.part (pa / 2048)).storeBytes pa bs
  match held with
  | some r => do
    upd fun s => s.rdcPut ag.part d line { r with sharers := if l1.isSome then [ag.core] else [], bcast := false }
    match l1 with
    | some l => upd fun s => s.l1Put ag.core line l
    | none => pure ()
    upd fun s => s.setDir line (dirWith 0 1 [BitVec.ofNat 12 (2048 + d * 256)])
  | none => pure ()

/-- Performs a direct store to a coherent line (R46, R58, R72): at its home, or into a line that the issuing core owns. -/
def writeDirect (ag : Agent) (pa : Nat) (bs : List Byte) (leaf : BitVec 64) : Exec Unit := do
  let line := pa / 64
  let off := pa % 64
  let v := sectorsOf off bs.length
  let remote := ag.core / 256 != dieOf pa
  let mine : Option CacheLine := match ((← get).coreAt ag.core).l1.find line with
    | some l => if ! l.uo ∧ l.vtag = 0 ∧ l.state ≠ .updateOnly then some l else none
    | none => none
  let owned : Bool := match mine with
    | some l => l.state == LineState.exclusive || l.state == LineState.modified
    | none => false
  if ag.engine ∨ (remote ∧ kindOf leaf = 0) then
    homeWant ag pa bs.length true .exclude none
    chargeHome ag pa true bs.length
    upd fun s => (s.directWrite ag.part (pa / 2048)).storeBytes pa bs
  else if remote then writeThrough ag pa bs
  else
    if ! owned then
      homeWant ag pa bs.length false .own (some (sharerPtr ag.core pa))
      chargeHome ag pa true bs.length
    upd fun s =>
      ((s.directWrite ag.part (pa / 2048)).modTag (pa / 2048) fun t => t.keep s.mem (granSectors pa bs.length)).storeBytes pa bs
    let l := mine.getD (CacheLine.coherent .modified 0 0)
    upd fun s => s.l1Put ag.core line { l with state := .modified, valid := l.valid ||| v, dirty := l.dirty ||| v }

/-- Writes bytes within one line of physical memory. -/
def writePhys (ag : Agent) (pa : Nat) (bs : List Byte) (leaf : BitVec 64) : Exec Unit := do
  if tagFor ag leaf ≠ 0 then
    let _ ← writeShadow ag pa bs.length (kindOf leaf != 2 && ! ag.engine) (pure ()) fun _ => ofBytes bs
  else if kindOf leaf = 2 ∧ ! ag.engine then writeUo ag pa bs
  else writeDirect ag pa bs leaf

/-- A core's L1, and for a line of another die its die's RDC, take a line in update-only state without data (R84). -/
def grantUpdate (ag : Agent) (line : Nat) (op : RedOp) (size : Size) : Exec Unit := do
  let d := ag.core / 256
  upd fun s => s.evictL1 ag.core line
  homeWant ag (line * 64) 64 false (.update op size) (some (sharerPtr ag.core (line * 64)))
  upd fun s => s.directWrite ag.part (line / 32)
  let fresh := { CacheLine.coherent .updateOnly 0 0 with op := op, size := size }
  if d ≠ dieOf (line * 64) then
    upd fun s =>
      let r := match (s.dieAt d).rdc.find line with
        | some r => if r.state = LineState.updateOnly ∧ r.op = op ∧ r.size = size then r else fresh
        | none => fresh
      s.rdcPut ag.part d line r
  upd fun s => s.l1Put ag.core line fresh

/-- Gathers a RED in the issuing core's L1 (R84, R85); it is a direct write of its granule (R151). -/
def gatherRed (ag : Agent) (pa : Nat) (op : RedOp) (size : Size) (x : Nat) : Exec Unit := do
  let line := pa / 64
  let k := pa % 64 / 2
  let w := size.bytes
  let l1 : Option CacheLine := ((← get).coreAt ag.core).l1.find line
  let same : Bool := match l1 with
    | some l => l.state == LineState.updateOnly && l.op == op && l.size == size
    | none => false
  if same then upd fun s => s.directWrite ag.part (line / 32)
  else
    upd fun s => s.releaseU ag.core line
    grantUpdate ag line op size
  upd fun s => s.modCore ag.core fun c =>
    { c with l1 := c.l1.map fun e =>
        if e.1 = line then
          let l := e.2
          let y := if l.touch.getLsbD k then redApply op w (field l.part (16 * k) (8 * w)) x else x
          (e.1, { l with touch := setBit l.touch k true, part := setField l.part (16 * k) (8 * w) y })
        else e }

/-! ### Whole accesses -/

/-- A release waits until the strand's reductions are complete (R96, R110); every other earlier access is complete when the
next instruction issues (log 1). -/
def releaseNow : Exec Unit := fun s =>
  if s.cur.osc = 0 then .ok ((), s) else .error (.wait .memory s)

/-- The reductions of a strand that are on their way to their homes (R84). -/
def redsOf (core slot : Nat) : List Instr → List RedReq
  | [] => []
  | .redAtHome r :: rest => if r.core = core ∧ r.slot = slot then r :: redsOf core slot rest else redsOf core slot rest
  | _ :: rest => redsOf core slot rest

/-- The reductions of the issuing strand that are on their way. -/
def State.myReds (s : State) : List RedReq := redsOf s.core s.slot s.events

/-- An acquire is not issued until every earlier release of the strand has been performed (R96). -/
def acquireNow : Exec Unit := fun s => if s.myReds.any (·.rel) then .error (.wait .memory s) else .ok ((), s)

/-- What an operation on a local store, a barrier object or a ring waits for: the strand's own reductions to SO pages (R102). -/
def soGate : Exec Unit := fun s => if s.myReds.any (·.so) then .error (.wait .memory s) else .ok ((), s)

/-- An instruction that is an acquire (R111 to R113, R262, R274, R297, R305) waits as an acquire access does (R96, R102). -/
def acquireGate : Exec Unit := do
  acquireNow
  soGate

/-- The order code of an access: rel and ar are releases, acq and ar acquires (R96). -/
def orderGate (o : Order) : Exec Unit :=
  match o with
  | .rlx => pure ()
  | .acq => acquireNow
  | .rel => releaseNow
  | .ar => releaseNow

/-! ### Replay (R393) -/

/-- Logs a choice in record mode, with the die's framing phase and the core. -/
def State.logChoice (s : State) (part : Nat) (kind : ReplayKind) (core : Nat) (value : List Nat) : State :=
  if (s.partAt part).replay = .record then
    s.modPart part fun p =>
      { p with log := p.log ++ [{ kind := kind, fphase := (s.dieAt (core / 256)).fphase, core := core, value := value }] }
  else s

/-- What replay says of a choice: free, forced to a logged value, or not yet possible. -/
inductive Forced
  | free
  | value (v : List Nat)
  | wait
  deriving DecidableEq, Repr

/-- Whether two entries log the same choice. -/
def ReplayEntry.same (a : ReplayEntry) (kind : ReplayKind) (core : Nat) : Bool := a.kind == kind && a.core == core

/-- The next logged choice of a kind and core. -/
def State.forced (s : State) (part : Nat) (kind : ReplayKind) (core : Nat) : Forced :=
  if (s.partAt part).replay = .replay then
    match (s.partAt part).log.find? fun e => e.same kind core with
    | some e => .value e.value
    | none => .wait
  else .free

/-- Removes the first entry of a list that satisfies a test. -/
def removeFirst {α : Type} (f : α → Bool) : List α → List α
  | [] => []
  | a :: rest => if f a then rest else a :: removeFirst f rest

/-- A forced choice has been made: its entry leaves the log, and the wait for it ends. -/
def State.takeForced (s : State) (part : Nat) (f : ReplayEntry → Bool) : State :=
  s.modPart part fun p => if p.replay = .replay then { p with log := removeFirst f p.log, replayWait := none } else p

/-- A forced choice that cannot be made yet: the first wait is noted, and replay stops the partition after a framing phase. -/
def State.forcedWait (s : State) (part core : Nat) : State :=
  if (s.partAt part).replayWait.isSome then s
  else
    (s.modPart part fun p => { p with replayWait := some (core / 256 * 2 ^ 32 + (s.dieAt (core / 256)).fphase.toNat) }).post (.replayStop part)

/-- The place of an atomic or reduction in the order of arrival at its home, among those that meet its 16 bytes: logged, or forced (R80,
R393). -/
def arrivalTurn (ag : Agent) (pa : Nat) : Exec Unit := fun s =>
  let mine (e : ReplayEntry) : Bool := e.kind == .atomicOrder && e.value == [pa / 16]
  if (s.partAt ag.part).replay = .replay then
    match (s.partAt ag.part).log.find? mine with
    | some e =>
      if e.core = ag.core then .ok ((), s.takeForced ag.part mine) else .error (.wait .memory (s.forcedWait ag.part ag.core))
    | none => .error (.wait .memory (s.forcedWait ag.part ag.core))
  else .ok ((), s.logChoice ag.part .atomicOrder ag.core [pa / 16])

/-- An indivisible read-modify-write at the home of physical bytes (R80); an atomic (`turn`) takes its place in the order of arrival. It
answers the old value. -/
def rmwPhys (ag : Agent) (pa n : Nat) (leaf : BitVec 64) (turn : Bool) (f : Nat → Nat) : Exec Nat := do
  homeWant ag pa n (tagFor ag leaf == 0) .exclude none
  let place : Exec Unit := if turn then arrivalTurn ag pa else pure ()
  if tagFor ag leaf ≠ 0 then writeShadow ag pa n false place f
  else
    chargeHome ag pa true n
    place
    let old := (← get).load pa n
    upd fun s => (s.directWrite ag.part (pa / 2048)).store pa n (f old)
    return old

/-- An indivisible read-modify-write at a local store (R81), in its place in the order of arrival. -/
def rmwLs (ag : Agent) (core off n : Nat) (f : Nat → Nat) : Exec Nat := do
  arrivalTurn ag (lsKey core off)
  let old := (← get).load (lsKey core off) n
  upd fun s => s.store (lsKey core off) n (f old)
  return old

/-! ### Migration by flag M (R179) -/

/-- Whether the registers of a slot hold a tenon or a mortise (R121). -/
def Slot.holdsEnd (x : Slot) : Bool :=
  (setBits x.tags).any fun i => field x.g[i]! 24 2 == 1 || field x.g[i]! 24 2 == 2

/-- The migratable context and its header leave the core (R162, R164); what stays on the core goes with the old slot. -/
def State.migrate (s : State) (core slot quad : Nat) : State :=
  let x := s.slotAt core slot
  let s := s.modQuad quad fun q => { q with landing := q.landing ++ [{ slot := x, part := s.partOf core }] }
  (s.setSlot core slot x.fresh).post (.migrationLanding quad)

/-- Whether a flag-M migration to a quad is due and not deferred (R179, R115, R246, R279, R286). -/
def State.migrates (s : State) (home : Nat) : Bool :=
  let x := s.cur
  x.isMig && home != s.core / 4 && home / 64 == s.core / 256 && ! x.anchored && ! x.holdsEnd && ! x.isNb && ! x.pin && ! x.isGang
    && x.pend == 0 && x.ds == 0 && ! x.inRep && ! x.captured && decide ((s.quadAt home).landing.length < 16)

/-- A migratory strand moves to the home quad of its access first, once its reductions are complete (R179, R115), in three flits of its router
(R162). -/
def migrateGate (ag : Agent) (va : Word) (p : Place) : Exec Unit := fun s =>
  if ag.engine then .ok ((), s)
  else
    match s.homeQuad ag va p with
    | some h =>
      if ! s.migrates h then .ok ((), s)
      else if s.cur.osc = 0 then
        match injectAt ag s.core 3 s with
        | .ok ((), t) => .error (.quit (t.migrate s.core s.slot h))
        | res => res
      else .error (.wait .memory s)
    | none => .ok ((), s)

/-- What a strand's access waits for: a reduction of its own to an SO page that is not yet performed, its own reductions to the same bytes,
and, on an SO page, every earlier access (R98 case a, R102). -/
def accessGate (ag : Agent) (p : Place) (n : Nat) : Exec Unit := fun s =>
  if ag.engine then .ok ((), s)
  else
    let reds := s.myReds
    let meets : Bool := match p with
      | .phys pa _ => reds.any fun r => decide (r.key < pa + n ∧ pa < r.key + r.size.bytes)
      | _ => false
    let so : Bool := match p with
      | .phys _ e => kindOf e == 0
      | .host _ e => kindOf e == 0
      | .ls _ _ => false
    if reds.any (·.so) ∨ meets ∨ (so ∧ s.cur.osc ≠ 0) then .error (.wait .memory s) else .ok ((), s)

/-- Whether a place is a host page. -/
def Place.isHost : Place → Bool
  | .host _ _ => true
  | _ => false

/-- Resolves the pieces of an access in ascending order before any is performed (R28, R41, R315); those to be written are resolved through to the
host. The first piece decides about a migration (log 19). -/
def placePieces (ag : Agent) (cls : Access) (write first : Bool) : (i : Nat) → List (Word × Nat) → Exec (List (Word × Nat × Place × Nat))
  | _, [] => pure []
  | i, (va, n) :: rest => do
    if write ∧ i < ((← get).progOf ag).stored then
      let ps ← placePieces ag cls write false (i + 1) rest
      return (va, n, .ls ag.core 0, 0) :: ps
    else
      let p ← resolve ag cls va n
      if first then migrateGate ag va p
      accessGate ag p n
      let ta ← match p with
        | .host ua _ => if write then hostResolve ag ua va n i false true else pure 0
        | _ => pure 0
      let ps ← placePieces ag cls write false (i + 1) rest
      return (va, n, p, ta) :: ps

/-- Notes what a piece that has been read has brought. -/
def State.notePiece (s : State) (ag : Agent) (i : Nat) (bs : List Byte) : State :=
  s.setProg ag { (s.progOf ag) with got := (s.progOf ag).got.set i bs }

/-- The bytes of a piece in a local store or in physical memory. -/
def readPlace (ag : Agent) (n : Nat) : Place → Exec Nat
  | .ls c off => do
    injectWindow ag c false n
    return (← get).load (lsKey c off) n
  | .phys pa leaf => readPhys ag pa n leaf
  | .host _ _ => pure 0

/-- Resolves the pieces of a read in ascending order, each in the host through to its bytes (R28, R41, R315, R400). A piece that has been read
before, or whose request is on its way, is not resolved again. -/
def fetchPieces (ag : Agent) (cls : Access) (first : Bool) : (i : Nat) → List (Word × Nat) → Exec (List (Word × Nat × Place))
  | _, [] => pure []
  | i, (va, n) :: rest => do
    match ((← get).progOf ag).got.find i with
    | some _ =>
      let ps ← fetchPieces ag cls false (i + 1) rest
      return (va, n, .ls ag.core 0) :: ps
    | none =>
      if (← get).sentPiece ag i then stallOrFail ag va Cause.bus
      let p ← resolve ag cls va n
      if first then migrateGate ag va p
      accessGate ag p n
      match p with
      | .host ua _ =>
        let bs ← hostRequest ag ua va n i none Cause.bus (injectHost ag false n)
        upd fun s => s.notePiece ag i bs
      | _ => pure ()
      let ps ← fetchPieces ag cls false (i + 1) rest
      return (va, n, p) :: ps

/-- Reads the pieces in ascending order; a piece that must wait leaves those before it as they have been read. -/
def readPieces (ag : Agent) : (i : Nat) → List (Word × Nat × Place) → Exec (List Byte)
  | _, [] => pure []
  | i, (_, n, p) :: rest => do
    let bs ← match ((← get).progOf ag).got.find i with
      | some bs => pure bs
      | none => do
        let x ← readPlace ag n p
        if rest ≠ [] then upd fun s => s.notePiece ag i (toBytes n x)
        pure (toBytes n x)
    let more ← readPieces ag (i + 1) rest
    return bs ++ more

/-- Reads pieces for an access class, resolving every one first. -/
def readAll (ag : Agent) (cls : Access) (ps : List (Word × Nat)) : Exec (List Byte) := do
  let bs ← readPieces ag 0 (← fetchPieces ag cls true 0 ps)
  endAccess ag
  return bs

/-- Reads ranges of bytes for an access class, resolving every piece of every range first. -/
def readRanges (ag : Agent) (cls : Access) (rs : List (Word × Nat)) : Exec (List Byte) := readAll ag cls (rs.flatMap fun r => pieces r.1 r.2)

/-- Reads `n` bytes for an access class, resolving every piece first. -/
def readBytes (ag : Agent) (cls : Access) (va : Word) (n : Nat) : Exec (List Byte) := readRanges ag cls [(va, n)]

/-- Reads a little-endian value. -/
def readMem (ag : Agent) (va : Word) (n : Nat) : Exec Nat := do
  return ofBytes (← readBytes ag .load va n)

/-- Writes bytes to a place; `ta` is the translated address of a host page's. -/
def writePlace (ag : Agent) (ta : Nat) (bs : List Byte) : Place → Exec Unit
  | .ls c off => do
    injectWindow ag c true bs.length
    upd fun s => s.storeBytes (lsKey c off) bs
  | .phys pa leaf => writePhys ag pa bs leaf
  | .host _ _ => do
    injectHost ag true bs.length
    upd fun s => s.storeBytes (hostKey ta) bs

/-- Writes the pieces in ascending order; a piece that must wait leaves those before it written (R28), and they are not written again. -/
def writePieces (ag : Agent) : (i : Nat) → List (Word × Nat × Place × Nat) → List Byte → Exec Unit
  | _, [], _ => pure ()
  | i, (_, n, p, ta) :: rest, bs => do
    if ((← get).progOf ag).stored ≤ i then
      writePlace ag ta (bs.take n) p
      if rest ≠ [] then upd fun s => s.setProg ag { (s.progOf ag) with stored := i + 1 }
    writePieces ag (i + 1) rest (bs.drop n)

/-- The pieces of a store, resolved. -/
def prepareStore (ag : Agent) (va : Word) (n : Nat) : Exec (List (Word × Nat × Place × Nat)) := placePieces ag .store true true 0 (pieces va n)

/-- Writes bytes to pieces; no byte is written unless every piece resolves (log 10). -/
def writeAll (ag : Agent) (ps : List (Word × Nat)) (bs : List Byte) : Exec Unit := do
  writePieces ag 0 (← placePieces ag .store true true 0 ps) bs
  endAccess ag

/-- Writes bytes to ranges. -/
def writeRanges (ag : Agent) (rs : List (Word × Nat)) (bs : List Byte) : Exec Unit := writeAll ag (rs.flatMap fun r => pieces r.1 r.2) bs

/-- Writes bytes; no byte is written unless every piece resolves (log 10). -/
def writeBytes (ag : Agent) (va : Word) (bs : List Byte) : Exec Unit := writeRanges ag [(va, bs.length)] bs

/-- Writes a little-endian value of `n` bytes. -/
def writeMem (ag : Agent) (va : Word) (n x : Nat) : Exec Unit := writeBytes ag va (toBytes n x)

/-! ### Contiguous runs (R400) -/

/-- The one run of bytes that ranges form, if they follow one another within a 4 KiB page. -/
def runOf : List (Word × Nat) → Option (Word × Nat)
  | [] => none
  | (a, n) :: rest =>
    let whole := rest.foldl (fun (acc : Option Nat) r => acc.bind fun m => if r.1 = a + BitVec.ofNat 64 m then some (m + r.2) else none) (some n)
    whole.bind fun m => if a.toNat % 4096 + m ≤ 4096 then some (a, m) else none

/-- Whether the request of a run of `n` bytes is on its way, or has brought its bytes. -/
def State.runSent (s : State) (ag : Agent) (n : Nat) : Bool :=
  (match s.hostOf ag with
    | some h => h.sent && h.index == 0 && h.n == n
    | none => false) || decide ((((s.progOf ag).got.find 0).map List.length) = some n)

/-- The pieces of a VLD or VST (R400): to a host page, one request for a contiguous run within a page, unless an element is split (R93); else
those of each element. -/
def runPieces (ag : Agent) (cls : Access) (rs : List (Word × Nat)) : Exec (List (Word × Nat)) := do
  let each := rs.flatMap fun r => pieces r.1 r.2
  match runOf rs with
  | none => return each
  | some (a, n) =>
    if each.length ≠ rs.length then return each
    if rs.length = 1 ∨ (← get).runSent ag n then return [(a, n)]
    match ← resolve ag cls a n with
    | .host _ _ => return [(a, n)]
    | _ => return each

end Sys2Proof.Machine
end

