-- ==== Sys2Proof/Machine/Fetch.lean ====
section
/-! DEFINITION. Finding the instruction at a strand's program counter (R202, R242). -/

namespace Sys2Proof.Machine

/-- Puts a block into a core's instruction cache: 2,048 blocks; one that is full replaces a block (R2; log 69). -/
def State.icachePut (s : State) (core key : Nat) (b : BitVec 256) : State :=
  s.modCore core fun c =>
    let kept := match c.icache[Config.victim s.tick % 2048]? with
      | some e => if c.icache.length < 2048 then c.icache else Map.erase c.icache e.1
      | none => c.icache
    { c with icache := kept.set key b }

/-- A 32-byte half of a line as the home serves it to a fetch: the launch's own version, or the base line (R146); a versioned fetch registers
with its granule as any versioned access does (R12, R150). -/
def homeBlock (ag : Agent) (tag : BitVec 8) (line half : Nat) : Exec Nat := do
  homeWant ag (line * 64 + 32 * half) 32 false .read none
  if tag ≠ 0 then registerAccess ag (line / 32) false
  chargeHome ag (line * 64 + 32 * half) false 32
  let s ← get
  match (if tag = 0 then none else s.shadowOf ag.part tag line) with
  | some l => return field l.data (256 * half) 256
  | none => return s.load (line * 64 + 32 * half) 32

/-- The 32-byte block of physical memory that holds an address, for fetch: from the instruction cache, or brought into it. A
strand of a launch sees its own versions (R146); the sectors of an unregistered line that the core's L1 holds give their bytes (R104). -/
def fetchBlock (ag : Agent) (pa : Nat) (leaf : BitVec 64) : Exec Nat := do
  let tag := tagFor ag leaf
  let line := pa / 64
  let half := pa % 64 / 32
  let key := pa / 32 * 256 + tag.toNat
  match ((← get).coreAt ag.core).icache.find key with
  | some b => return b.toNat
  | none =>
    let s ← get
    let v : BitVec 4 := if tag = 0 then s.uoValid ag.core line else 0
    let near := (((← get).coreAt ag.core).l1.find line).map (·.data)
    let base ← if v.getLsbD (2 * half) ∧ v.getLsbD (2 * half + 1) then pure 0 else homeBlock ag tag line half
    let sector (i : Nat) : Nat :=
      match near with
      | some d => if v.getLsbD (2 * half + i) then field d (256 * half + 128 * i) 128 else base / 2 ^ (128 * i) % 2 ^ 128
      | none => base / 2 ^ (128 * i) % 2 ^ 128
    let b := sector 0 + 2 ^ 128 * sector 1
    upd fun s => s.icachePut ag.core key (BitVec.ofNat 256 b)
    return b

/-- The `n` bytes of code at an address within one block: X permission and translation (R21). -/
def fetchBytes (ag : Agent) (va : Word) (n : Nat) : Exec (List Byte) := do
  match ← resolve ag .fetch va n with
  | .phys pa leaf =>
    let b ← fetchBlock ag pa leaf
    return ((toBytes 32 b).drop (pa % 32)).take n
  | _ => trapIn Cause.protect va

/-- What the fetch of a strand finds. -/
inductive Fetched
  | instr (i : Instr) (len : Nat)
  | undefined_ (length : Bool)
  | fault (cause : BitVec 8) (va : Word) (mal : Bool)
  | wait
  deriving DecidableEq, Repr

/-- Skips a block tail (R233). -/
def skipTail (x : Word) : Word := if field x 0 5 = 28 then x + 4 else x

/-- Finds the instruction at an address that holds no tail: FetchWord, LENGTH, block crossing, decoding (R202, R208). -/
def fetchAt (ag : Agent) (a : Word) (s : State) : Fetched × State :=
  match fetchBytes ag a 4 s with
  | .error (.trapIn t c v mal) => (.fault c v mal, t)
  | .error (.trap c v mal) => (.fault c v mal, s)
  | .error (.wait _ t) => (.wait, t)
  | .error (.quit t) => (.wait, t)
  | .ok (w0, s) =>
    match lengthOf (BitVec.ofNat 32 (ofBytes w0)) with
    | none => (.undefined_ true, s)
    | some n =>
      if 32 < field a 0 5 + n then (.fault Cause.illegal a false, s)
      else
        match fetchBytes ag a n s with
        | .error (.trapIn t c v mal) => (.fault c v mal, t)
        | .error (.trap c v mal) => (.fault c v mal, s)
        | .error (.wait _ t) => (.wait, t)
        | .error (.quit t) => (.wait, t)
        | .ok (bs, s) =>
          match decodeBytes bs with
          | .ok i => (.instr i n, s)
          | .error _ => (.undefined_ false, s)

/-- Fetch (R202) for the issuing strand: alignment, the tail, which an entered address must not name, then the instruction.
The pc afterwards is the address fetched. -/
def State.fetch (s : State) : Fetched × State :=
  let x := s.cur
  if field x.pc 0 2 ≠ 0 then (.fault Cause.align x.pc false, s)
  else if field x.pc 0 5 = 28 ∧ x.entered then (.fault Cause.illegal x.pc false, s)
  else
    let s := if field x.pc 0 5 = 28 then s.modCur fun x => { x with pc := x.pc + 4 } else s
    fetchAt s.me s.cur.pc s

/-- Word 0 at an address by the fetch path, without faults (R233). -/
def State.peekWord0 (s : State) (a : Word) : Option (BitVec 32) :=
  match fetchBytes s.me a 4 s with
  | .ok (bs, _) => if field a 0 2 = 0 then some (BitVec.ofNat 32 (ofBytes bs)) else none
  | .error _ => none

/-- The wait that stands between a strand and the word at an address, if there is one. -/
def State.peekWait (s : State) (a : Word) : Option (Wait × State) :=
  match fetchBytes s.me a 4 s with
  | .error (.wait w t) => some (w, t)
  | _ => none

/-- The address after one slot at an address: an unreadable word counts 8 bytes (R233). -/
def State.afterSlot (s : State) (a : Word) : Word :=
  let n := match s.peekWord0 a with
    | some w => (lengthOf w).getD 8
    | none => 8
  skipTail (a + BitVec.ofNat 64 n)

/-- A link waits for the words of both delay slots of a transfer at `a` of `len` bytes, which the fetch path reads (R233). -/
def linkReady (a : Word) (len : Nat) : Exec Unit := fun s =>
  let first := skipTail (a + BitVec.ofNat 64 len)
  match s.peekWait first with
  | some (w, t) => .error (.wait w t)
  | none =>
    match s.peekWait (s.afterSlot first) with
    | some (w, t) => .error (.wait w t)
    | none => .ok ((), s)

/-- LinkAfterSlots (R233): the address after the second delay slot of a transfer at `a` of `len` bytes. -/
def State.linkAfterSlots (s : State) (a : Word) (len : Nat) : Word :=
  s.afterSlot (s.afterSlot (skipTail (a + BitVec.ofNat 64 len)))

end Sys2Proof.Machine
end

