-- ==== Sys2Proof/Machine/Flags.lean ====
section
/-! DEFINITION. Conditions (Table 11.2), the sticky flags and the rounding mode (R213, R214), and DSTAT (R220). -/

namespace Sys2Proof.Machine

/-- Cond(fn, a, b) (Table 11.2). -/
def condHolds (cc : Cond) (a b : Word) : Bool :=
  match cc with
  | .eq => a == b
  | .ne => a != b
  | .lt => a.slt b
  | .ge => ! a.slt b
  | .ltN => a.ult b
  | .geN => ! a.ult b

/-- FSTAT as SRD reads it: RM and FLAGS at their places in the status word (R213). -/
def Slot.fstat (x : Slot) : Word := BitVec.ofNat 64 (field x.status 4 8 * 16)

/-- Whether FSTAT refuses a value: RM above 100, or a must-be-zero bit (R213). -/
def fstatRefused (v : Word) : Bool := field v 0 4 != 0 || field v 12 52 != 0 || decide (4 < field v 9 3)

/-- FSTAT written. -/
def Slot.setFstat (x : Slot) (v : Word) : Slot := { x with status := setField x.status 4 8 (field v 4 8) }

/-- Whether DSTAT refuses a value (R220). -/
def dstatRefused (v : Word) : Bool := field v 2 62 != 0

/-- Sets sticky flags of the issuing strand. -/
def raise_ (f : BitVec 5) : Exec Unit := modCur fun x => x.orFlags f

/-- The mode of an rnd code: 111 is the mode in FSTAT at issue (R204, R214). -/
def Slot.mode (x : Slot) (r : Rnd) : Mode :=
  match r with
  | .rne => .rne
  | .rtz => .rtz
  | .rdn => .rdn
  | .rup => .rup
  | .rna => .rna
  | .dyn => modeOf x.rm

/-- DSTAT bits: NORM and DEP (Table 10.5). -/
def raiseDstat (norm dep : Bool) : Exec Unit :=
  modCur fun x => { x with dstat := x.dstat ||| BitVec.ofNat 64 (2 * norm.toNat + dep.toNat) }

end Sys2Proof.Machine
end

