-- ==== Sys2Proof/Machine/Operands.lean ====
section
/-! DEFINITION. Operand forms: immediates, effective addresses, register pairs, barrier and ring operands, join blocks and
local-store operands of the channel instructions (R223, R248, R258, R63, R294). -/

namespace Sys2Proof.Machine

/-- SExt of a 32-bit immediate. -/
def imm32 (i : BitVec 32) : Word := sx64 i

/-- The effective address G(fa) + SExt(disp20) (R248). -/
def ea (ra : GReg) (m : MForm) : Exec Word := do
  return (← srcG ra) + sx64 m.disp

/-- The registers of an access of a size: one, or the pair (R248). -/
def pairRegs (size : Size) (r : GReg) : List GReg := if size = .q then [r, r + 1] else [r]

/-- A value of a size from its register or pair, JOINT_STORE on a tagged one (R250, R119). -/
def storeData (size : Size) (r : GReg) : Exec Nat := do
  let lo ← srcStore r
  if size = .q then
    let hi ← srcStore (r + 1)
    return lo.toNat + 2 ^ 64 * hi.toNat
  else return lo.toNat % 2 ^ (8 * size.bytes)

/-- A value extended to a register as a load of a size extends it (R250). -/
def extend (size : Size) (zx : Bool) (v : Nat) : Word :=
  if zx then BitVec.ofNat 64 v else sxNat (8 * size.bytes) v

/-- Writes a result of a size to a register or a pair, and answers what is posted (R249). -/
def writeSized (size : Size) (zx : Bool) (rd : GReg) (v : Nat) : Exec PostedValue := do
  if size = .q then
    let lo := BitVec.ofNat 64 v
    let hi := BitVec.ofNat 64 (v / 2 ^ 64)
    writeG rd lo
    writeG (rd + 1) hi
    return .pair rd lo hi
  else
    let w := extend size zx v
    writeG rd w
    return .g rd w

/-- The program range of a local store ends here (Table 2.3). -/
def programEnd : Nat := 0x70000

/-- BarrierAt (R258): the core and offset that a barrier operand names. -/
def barrierAt (a : Word) : Exec (Nat × Nat) := do
  let s ← get
  let n := a.toNat
  let (core, off) ←
    if n < 2 ^ 19 then pure (s.core, n)
    else if aliasBase ≤ n ∧ n < aliasBase + 2 ^ 19 then pure (s.core, n % 2 ^ 19)
    else if windowBase ≤ n ∧ n < windowBase + 2 ^ 30 then
      match s.vcnCore s.myPart (n / 2 ^ 19 % 2048) with
      | some c => pure (c, n % 2 ^ 19)
      | none => trap Cause.notPresent a
    else trap Cause.protect a
  if off % 16 ≠ 0 then trap Cause.align a
  if programEnd ≤ off then trap Cause.protect a
  return (core, off)

/-- A local-store operand of `n` bytes at G(r): aligned, within the program range (R294, R296). -/
def lsOperand (v : Word) (n : Nat) : Exec Nat := do
  if v.toNat % n ≠ 0 then trap Cause.align v
  if field v 19 45 ≠ 0 ∨ programEnd < v.toNat + n then trap Cause.protect v
  return v.toNat

/-- A local-store range that a strand's channel instruction reads or writes: a sealed sector and a lock are refused as for any
access (R168, R298). -/
def lsCheck (cls : Access) (off n : Nat) : Exec Unit := do
  let s ← get
  let _ ← reachLs s.me cls (BitVec.ofNat 64 off) s.core off n

/-! ### Ring descriptors (R60 to R63) -/

/-- A ring's descriptor (Table 2.7). -/
structure RingDesc where
  tail   : Nat
  head   : Nat
  valid  : Bool
  ckind  : Nat
  pkind  : Nat
  lcount : Nat
  lsize  : Nat
  base   : Nat
  deriving DecidableEq, Repr

/-- The local-store offset of ring N's descriptor (R49). -/
def ringOff (q : Nat) : Nat := 0x78000 + 16 * q

/-- The fields of a descriptor image. -/
def RingDesc.unpack (x : BitVec 128) : RingDesc where
  tail := field x 80 16
  head := field x 64 16
  valid := bit x 63
  ckind := field x 37 3
  pkind := field x 34 3
  lcount := field x 30 4
  lsize := field x 26 4
  base := field x 0 19

/-- A ring of a core. -/
def State.ring (s : State) (core q : Nat) : RingDesc := RingDesc.unpack (BitVec.ofNat 128 (s.load (lsKey core (ringOff q)) 16))

/-- Slots filled. -/
def RingDesc.filled (r : RingDesc) : Nat := (r.head + 2 ^ 16 - r.tail) % 2 ^ 16
/-- Slots free. -/
def RingDesc.free (r : RingDesc) : Nat := 2 ^ r.lcount - r.filled
/-- Bytes of a slot. -/
def RingDesc.slotBytes (r : RingDesc) : Nat := 2 ^ (r.lsize + 6)
/-- The offset of slot i (R62). -/
def RingDesc.slotOff (r : RingDesc) (i : Nat) : Nat := r.base + i % 2 ^ r.lcount * r.slotBytes

/-- Sets HEAD. -/
def State.setHead (s : State) (core q n : Nat) : State := s.store (lsKey core (ringOff q) + 8) 2 (n % 2 ^ 16)
/-- Sets TAIL. -/
def State.setTail (s : State) (core q n : Nat) : State := s.store (lsKey core (ringOff q) + 10) 2 (n % 2 ^ 16)

/-- Whether a descriptor word is refused at QCFG (R60). A value with V = 0 unconfigures the ring. -/
def ringRefused (v : Word) : Bool :=
  let d := RingDesc.unpack (v.zeroExtend 128)
  field v 40 23 != 0 || field v 19 7 != 0 ||
    (decide (10 < d.lsize) || decide (8 < d.lcount) || d.base % 64 != 0
      || decide (programEnd < d.base + 2 ^ (d.lsize + 6 + d.lcount)) || decide (4 ≤ d.ckind) || decide (4 ≤ d.pkind))

end Sys2Proof.Machine
end

