-- ==== Sys2Proof/Machine/ChanOps.lean ====
section
/-! DEFINITION. Channel records and messages (R117 to R137, R298): sending, arrivals, the move of an end, retirement, closing and
dropping, over the records of the channel area. -/

namespace Sys2Proof.Machine

/-- KIND of a joint (Table 5.1): 1 tenon, 2 mortise, 3 peg. -/
def jointKind (j : Word) : Nat := field j 24 2
/-- NUMBER of a joint. -/
def jointNumber (j : Word) : BitVec 24 := BitVec.ofNat 24 (field j 0 24)
/-- CHECK of a joint. -/
def jointCheck (j : Word) : BitVec 32 := BitVec.ofNat 32 (field j 32 32)

/-- The joint of a record's end. -/
def ChanRec.joint (r : ChanRec) : Word :=
  BitVec.ofNat 64 (r.inc.toNat * 2 ^ 32 + (if r.side = .tenon then 1 else 2) * 2 ^ 24 + r.number.toNat)

/-- The move number by which messages address a record (R126). -/
def ChanRec.myMove (r : ChanRec) : BitVec 32 := if r.side = .tenon then r.tmove else r.move

/-- 2^LDEPTH. -/
def ChanRec.depth (r : ChanRec) : Nat := 2 ^ r.ldepth.toNat

/-- The element of a sequence. -/
def ChanRec.elem (r : ChanRec) (q : BitVec 32) : Nat := q.toNat % r.depth

/-- The record that a joint instruction uses (R118, R123): the newest of its channel, side and incarnation that is not a stub. -/
def State.liveRec (s : State) (core : Nat) (side : Side) (number : BitVec 24) (inc : BitVec 32) : Option (Nat × ChanRec) :=
  (s.chain core side number).find? fun e => e.2.number == number && e.2.inc == inc && ! e.2.isStub

/-- The live record of an end held as a joint. -/
def State.endRec (s : State) (core : Nat) (j : Word) : Option (Nat × ChanRec) :=
  if jointKind j = 1 then s.liveRec core .tenon (jointNumber j) (jointCheck j)
  else if jointKind j = 2 then s.liveRec core .mortise (jointNumber j) (jointCheck j)
  else none

/-! ### Messages (R126) -/

/-- A message without a payload, of the partition of a record. -/
def Msg.plain (kind : MsgKind) (r : ChanRec) (side : Side) (move : BitVec 32) (src dst : Nat) : Msg where
  kind := kind
  value := 0
  inc := r.inc
  number := r.number
  side := side
  move := move
  smove := 0
  new := 0
  aux := 0
  src := src
  dst := dst
  dstVcn := false
  part := r.part
  fin := false
  fwd := false
  esize := 0
  payload := []

/-- The occurrence of a message's arrival. -/
def arrivalOf (m : Msg) : Instr :=
  match m.kind with
  | .data | .endM => .channelDataArrival m
  | .ack => .ackArrival m
  | .broken => .brokenArrival m
  | .repoint => .repointArrival m
  | .drain => .drainArrival m
  | .claim => .claimArrival m
  | .announce => .announceArrival m
  | .release => .releaseArrival m

/-- The flits of a message: its header of 32 bytes and its payload. -/
def msgFlits (m : Msg) : Nat := (32 + m.payload.length + 63) / 64

/-- Sends a message from a core: its router charges it to the channel class, and it arrives in its own time (R126, R185). -/
def State.send (s : State) (core : Nat) (m : Msg) : State := s.emit core (budgetKey m.part 2) (msgFlits m) (arrivalOf m)

/-- SendTenonSide (R131): TSENT counts it, and AUX carries the count. -/
def State.sendTenonSide (s : State) (core slot : Nat) (r : ChanRec) (m : Msg) : State :=
  let r := { r with tsent := r.tsent + 1 }
  (s.setRec core slot r).send core { m with side := .tenon, dst := r.tloc, move := r.tmove, aux := r.tsent }

/-- The passing on of a message by a claimed stub: only DST and MOVE change, and FWD is set (R126, R130). -/
def State.forward (s : State) (core : Nat) (r : ChanRec) (m : Msg) : State :=
  s.send core { m with dst := r.target, dstVcn := r.targetVcn, move := r.myMove + 1, fwd := true }

/-! ### What FENCE c follows (Table 4.4) -/

/-- Changes what is known of the messages of a channel that are on their way. -/
def State.modTransit (s : State) (part : Nat) (number : BitVec 24) (inc : BitVec 32) (ack : Bool) (f : Transit → Option Transit) : State :=
  { s with sys := { s.sys with
      transit := s.sys.transit.filterMap fun t =>
        if t.part = part ∧ t.number = number ∧ t.inc = inc ∧ t.ack = ack then f t else some t } }

/-- The current strand has sent a message or an acknowledgement of a channel. -/
def State.track (s : State) (r : ChanRec) (ack : Bool) (value : BitVec 32) : State :=
  let t : Transit :=
    { sid := s.cur.sid, part := r.part, number := r.number, inc := r.inc, ack := ack, value := value, landed := false, held := false }
  { s with sys := { s.sys with transit := s.sys.transit ++ [t] } }

/-- A message is gone: consumed, discarded, or an acknowledgement that has reached its tenon record. -/
def State.settleTransit (s : State) (part : Nat) (number : BitVec 24) (inc : BitVec 32) (ack : Bool) (value : BitVec 32) : State :=
  s.modTransit part number inc ack fun t => if t.value = value then none else some t

/-- A message stands in a buffer, where the mortise resides or not. -/
def State.landTransit (s : State) (r : ChanRec) (value : BitVec 32) (landed : Bool) : State :=
  s.modTransit r.part r.number r.inc false fun t => some (if t.value = value then { t with landed := landed } else t)

/-! ### Arrivals at a mortise-side record (R130) -/

/-- AdvanceFwd: CONS passes what has arrived, and the end marker. -/
def advanceFwd : (fuel : Nat) → ChanRec → ChanRec
  | 0, r => r
  | n + 1, r =>
    if r.pres.getLsbD (r.elem r.cons) then
      advanceFwd n { r with pres := setBit r.pres (r.elem r.cons) false, cons := r.cons + 1 }
    else if r.endv ∧ r.cons = r.endseq then { r with cons := r.cons + 1 }
    else r

/-- The widths of the fields of a carried record (R134): those of Tables 5.5 and 5.6 but STATE, HELD, CLAIMED, TARGET, PRES, the drain
and release fields and LINK, in the order of their table, and then the core it was sent from (log 7). -/
def carriedWidths : Side → List Nat
  | .tenon => [24, 32, 4, 3, 32, 32, 11, 32, 32, 32, 32, 11]
  | .mortise => [24, 32, 4, 3, 19, 32, 32, 1, 32, 11, 32, 32, 11]

/-- The carried fields of a record sent from a core. -/
def ChanRec.carriedFields (r : ChanRec) (core : Nat) : List Nat :=
  let head := [r.number.toNat, r.inc.toNat, r.ldepth.toNat, r.esize.toNat]
  match r.side with
  | .tenon => head ++ [r.next.toNat, r.ackd.toNat, r.route, r.move.toNat, r.tmove.toNat, r.recv.toNat, r.bytes.toNat, core]
  | .mortise =>
    head ++ [r.base.toNat, r.move.toNat, r.cons.toNat, r.endv.toNat, r.endseq.toNat, r.tloc, r.tmove.toNat, r.tsent.toNat, core]

/-- The element that carries an end (R134): the joint in bytes 0 to 7, the carried record in bytes 8 to 63. -/
def ChanRec.carried (r : ChanRec) (j : Word) (core : Nat) : List Byte :=
  toBytes 8 j.toNat ++ toBytes 56 (packFields ((carriedWidths r.side).zip (r.carriedFields core)))

/-- The joint of a marked element. -/
def elemJoint (bs : List Byte) : Word := BitVec.ofNat 64 (ofBytes (bs.take 8))

/-- The carried record of a marked element, and the core it was sent from; none for a peg. -/
def carriedRec (bs : List Byte) : Option (ChanRec × Nat) :=
  let x := ofBytes ((bs.drop 8).take 56)
  let w (n : Nat) : BitVec 32 := BitVec.ofNat 32 n
  if jointKind (elemJoint bs) = 1 then
    match unpackFields (carriedWidths .tenon) x with
    | [num, inc, ld, es, next, ackd, route, move, tmove, recv, bytes, from_] =>
      some ({ ChanRec.blank .tenon (BitVec.ofNat 24 num) (w inc) with
        ldepth := BitVec.ofNat 4 ld, esize := BitVec.ofNat 3 es, next := w next, ackd := w ackd, route := route, move := w move
        tmove := w tmove, recv := w recv, bytes := w bytes }, from_)
    | _ => none
  else if jointKind (elemJoint bs) = 2 then
    match unpackFields (carriedWidths .mortise) x with
    | [num, inc, ld, es, base, move, cons, endv, endseq, tloc, tmove, tsent, from_] =>
      some ({ ChanRec.blank .mortise (BitVec.ofNat 24 num) (w inc) with
        ldepth := BitVec.ofNat 4 ld, esize := BitVec.ofNat 3 es, base := BitVec.ofNat 19 base, move := w move, cons := w cons
        endv := endv == 1, endseq := w endseq, tloc := tloc, tmove := w tmove, tsent := w tsent }, from_)
    | _ => none
  else none

/-- The record that a received end makes on its new core (Table 5.10). -/
def buildRec (c : ChanRec) (part : Nat) (base : BitVec 19) : ChanRec :=
  let r := { c with part := part, upp := true }
  if c.side = .tenon then { r with recv := 0, tmove := c.tmove + 1, newt := c.tmove + 1 }
  else
    { r with
      state := if c.endv ∧ later c.cons c.endseq then .endSeen else .openS
      move := c.move + 1, base := base, df := c.cons, dnew := c.move + 1, dtm := c.tmove }

/-- What a new record announces (Table 5.10): ANNOUNCE to the route of a tenon, REPOINT to the tenon side of a mortise whose end
marker has not been consumed. -/
def State.announce (s : State) (core slot : Nat) (r : ChanRec) : State :=
  if r.side = .tenon then s.send core { Msg.plain .announce r .mortise r.move core r.route with smove := r.tmove }
  else if r.endv ∧ later r.cons r.endseq then s
  else s.sendTenonSide core slot r { Msg.plain .repoint r .tenon 0 core 0 with smove := r.move }

/-- A new record of a core: in its slot, the newest of its chain. -/
def State.newRec (s : State) (core slot : Nat) (r : ChanRec) : State × ChanRec :=
  let s := s.putRec core slot r
  (s, s.readRec core r.side slot)

/-- Receives an end (R134): a new record, its CLAIM to the stub it came from, and its notice; none when no slot suits. -/
def State.receiveEnd (s : State) (core : Nat) (c : ChanRec) (from_ : Nat) (base : BitVec 19) : Option (State × Nat) :=
  match freeSlot (s.recsAt core) c.side with
  | none => none
  | some k =>
    let (s, r) := s.newRec core k (buildRec c (s.partOf core) base)
    let s := s.send core { Msg.plain .claim r c.side (r.myMove - 1) core from_ with smove := r.myMove }
    some (s.announce core k r, k)

/-! ### Retirement (Table 5.11) -/

/-- Whether a mortise-side record's drain fields allow its retirement. -/
def ChanRec.drained (r : ChanRec) : Bool := ! later r.df r.cons && ! later r.dtm r.tmove

/-- Whether a record retires. -/
def ChanRec.retires (r : ChanRec) : Bool :=
  match r.state with
  | .mstub =>
    r.claimed && ! r.upp && ((r.endv && later r.cons r.endseq) || ((r.dfin || later r.dnew r.move) && r.drained))
  | .shut => ! r.held && ! r.upp && r.dfin && r.drained && r.drops.isEmpty && r.marks == 0
  | .endSeen => ! r.held && ! r.upp
  | .tstub => r.claimed && ! r.upp && r.upr == r.upn && later r.newt r.tmove && (! r.dnv || r.recv == r.dn)
  | .tail | .broken => ! r.held && ! r.upp && r.upr == r.upn && r.dnv && r.recv == r.dn
  | .openS => false

/-- Retires a record whose conditions hold, with the message it owes (R137). -/
def State.settleRec (s : State) (core slot : Nat) : State :=
  match (s.recsAt core).find slot with
  | none => s
  | some r =>
    if ! r.retires then s
    else
      let s := s.delRec core slot
      match r.state with
      | .mstub =>
        s.send core { Msg.plain .drain r .mortise (r.move + 1) core r.target with
          dstVcn := r.targetVcn, value := r.df, new := r.dnew, fin := r.dfin, smove := r.dtm, fwd := true }
      | .tstub =>
        s.send core { Msg.plain .release r .tenon (r.tmove + 1) core r.target with
          dstVcn := r.targetVcn, value := r.fwdn, new := r.newt, fwd := true }
      | _ => s

/-! ### Sending, closing and dropping (R129, R133) -/

/-- The message that carries an element or an end marker; ESIZE is the size code of its payload, 7 for a joint (R295). -/
def ChanRec.dataMsg (r : ChanRec) (kind : MsgKind) (core : Nat) (payload : List Byte) (esize : BitVec 3) : Msg :=
  { Msg.plain kind r .mortise r.move core r.route with value := r.next, payload := payload, esize := esize }

/-- CLOSE of a tenon (Table 5.9). -/
def State.closeTenon (s : State) (core slot : Nat) (r : ChanRec) : State :=
  if r.state = .openS then
    (s.send core (r.dataMsg .endM core [] 0)).setRec core slot { r with state := .tail, next := r.next + 1 }
  else s

/-- CONS of a record that is shut: the lowest sequence not arrived; PRES is cleared (Table 5.9). -/
def ChanRec.shut (r : ChanRec) : ChanRec := { (advanceFwd 257 r) with pres := 0, state := .shut }

/-- CLOSE of a mortise (Table 5.9). Its marked elements are taken and dropped. -/
def State.closeMortise (s : State) (core slot : Nat) (r : ChanRec) : State :=
  if r.state = .openS then
    let s := s.sendTenonSide core slot r.shut { Msg.plain .broken r .tenon 0 core 0 with fin := true }
    let s := s.modTransit r.part r.number r.inc false fun t => if t.landed then none else some t
    if r.marks = 0 then s else s.post (.takeAndDrop core slot)
  else s

/-- CLOSE of an end's record. -/
def State.closeEnd (s : State) (core slot : Nat) (r : ChanRec) : State :=
  if r.side = .tenon then s.closeTenon core slot r else s.closeMortise core slot r

/-- The drop of an end's record: as CLOSE, then HELD := 0 (Table 5.9). -/
def State.dropEnd (s : State) (core slot : Nat) : State :=
  match (s.recsAt core).find slot with
  | none => s
  | some r =>
    ((s.closeEnd core slot r).modRec core slot fun x => { x with held := false }).settleRec core slot

/-- Drops a joint, as DROPJ does (R299); a peg has no record. -/
def State.dropJoint (s : State) (core : Nat) (j : Word) : State :=
  match s.endRec core j with
  | some (k, _) => s.dropEnd core k
  | none => s

/-- A marked element is taken and dropped (R133): the end is received and dropped; false while no slot suits. -/
def State.takeDrop (s : State) (core : Nat) (bs : List Byte) : State × Bool :=
  match carriedRec bs with
  | none => (s, true)
  | some (c, from_) =>
    match s.receiveEnd core c from_ 0 with
    | none => (s, false)
    | some (t, k) => (t.dropEnd core k, true)

/-- The bytes of an element of a mortise buffer. -/
def State.elemAt (s : State) (core : Nat) (r : ChanRec) (k : Nat) : List Byte :=
  Memory.readList s.mem (lsKey core (r.elemOff k)) (elemBytes r.esize)

/-- A marked element of a buffer is gone from the record `r`: its bytes are zeroed, its mark and its seals cleared (R297, R298). -/
def State.clearElem (s : State) (core slot : Nat) (r : ChanRec) (k : Nat) : State :=
  ((s.storeBytes (lsKey core (r.elemOff k)) (List.replicate (elemBytes r.esize) 0)).setRec core slot
    { r with marks := setBit r.marks k false }).unseal core (r.elemSectors k)

/-- The drops that a SHUT record owes: its marked elements, in order, while record slots suffice. -/
def State.dropElems (s : State) (core slot : Nat) : List Nat → State × Bool
  | [] => (s, true)
  | k :: rest =>
    match (s.recsAt core).find slot with
    | none => (s, true)
    | some r =>
      let (t, ok) := s.takeDrop core (s.elemAt core r k)
      if ! ok then (s, false)
      else
        match (t.recsAt core).find slot with
        | none => (t, true)
        | some x => (t.clearElem core slot x k).dropElems core slot rest

/-- The joints that reached a SHUT record later. -/
def State.dropLate (s : State) (core slot : Nat) : List (List Byte) → State × Bool
  | [] => (s, true)
  | bs :: rest =>
    let (t, ok) := s.takeDrop core bs
    if ok then (t.modRec core slot fun x => { x with drops := rest }).dropLate core slot rest else (s, false)

/-- TAKE_AND_DROP's effect (R133): the drop waits while no record slot suits. -/
def State.takeDrops (s : State) (core slot : Nat) : State :=
  match (s.recsAt core).find slot with
  | none => s
  | some r =>
    if r.state ≠ .shut then s
    else
      let (s, a) := s.dropElems core slot (setBits r.marks)
      let (s, b) := s.dropLate core slot r.drops
      if a && b then s.settleRec core slot else s.post (.takeAndDrop core slot)

/-! ### Arrivals -/

/-- Where a message is delivered: its core, or the core that holds its VCN now; none while the VCN's tenant is saved (R416). -/
def State.msgCore (s : State) (m : Msg) : Option Nat :=
  if ! m.dstVcn then some m.dst
  else if ((s.partAt m.part).saved.find m.dst).isSome then none
  else s.vcnCore m.part m.dst

/-- The record a message addresses: of its channel, side, incarnation and move number (R123). -/
def State.msgRec (s : State) (core : Nat) (m : Msg) : Option (Nat × ChanRec) :=
  (s.chain core m.side m.number).find? fun e => e.2.number == m.number && e.2.inc == m.inc && e.2.myMove == m.move

/-- Stores an arrived element in the mortise buffer; a joint sets the element's mark and seals its sectors (R130, R295). -/
def State.storeElem (s : State) (core slot : Nat) (r : ChanRec) (k : Nat) (m : Msg) : State :=
  let joint := m.esize == 7
  let s := s.storeBytes (lsKey core (r.elemOff k)) ((m.payload ++ List.replicate 64 0).take (elemBytes r.esize))
  let s := s.setRec core slot { r with pres := setBit r.pres k true, marks := setBit r.marks k joint }
  if joint then s.seal core (r.elemSectors k) else s

/-- A mortise-side record after an arrival (R130): what has arrived is noted, a joint at a SHUT record is owed its drop, and a record that
keeps nothing advances its CONS. -/
def ChanRec.noteArrival (r : ChanRec) (m : Msg) : ChanRec :=
  let x :=
    if m.kind = .endM then { r with endv := true, endseq := m.value }
    else if r.state = .shut ∧ m.esize = 7 then { r with pres := setBit r.pres (r.elem m.value) true, drops := r.drops ++ [m.payload] }
    else { r with pres := setBit r.pres (r.elem m.value) true }
  if r.state = .shut ∨ (r.state = .mstub ∧ r.claimed) then advanceFwd 257 x else x

/-- Whether a mortise-side record stores the elements that arrive (R130). -/
def ChanRec.stores (r : ChanRec) : Bool := r.state == .openS || (r.state == .mstub && ! r.claimed)

/-- A DATA or END at a mortise-side record (R130). -/
def State.mortiseArrive (s : State) (core slot : Nat) (r : ChanRec) (m : Msg) : State :=
  let s := if m.kind ≠ .endM ∧ r.stores then s.storeElem core slot r (r.elem m.value) m else s.setRec core slot (r.noteArrival m)
  match r.state with
  | .mstub => if r.claimed then s.forward core r m else s
  | .shut =>
    let s := s.settleTransit r.part r.number r.inc false m.value
    if m.kind ≠ .endM ∧ m.esize = 7 then s.post (.takeAndDrop core slot) else s
  | _ => s.landTransit r m.value true

/-- The count of a message from the mortise side (R132). -/
def ChanRec.count (r : ChanRec) (m : Msg) : ChanRec := if m.fwd then { r with upr := r.upr + 1 } else { r with recv := r.recv + 1 }

/-- A final message that comes directly announces the direct total (R132). -/
def ChanRec.noteFin (r : ChanRec) (m : Msg) : ChanRec :=
  if m.fin ∧ ! m.fwd then { r with dn := m.aux, dnv := true } else r

/-- A claimed tenon stub forwards what arrives, and counts it (R136). -/
def State.tstubForward (s : State) (core slot : Nat) (r : ChanRec) (m : Msg) : State :=
  (s.setRec core slot { r with fwdn := r.fwdn + 1 }).forward core r m

/-- An ACK at a tenon-side record (R132, R136). -/
def State.ackArrive (s : State) (core slot : Nat) (r : ChanRec) (m : Msg) : State :=
  let r := r.count m
  let ackd := latest r.ackd m.value
  if r.state = .tstub then
    if r.claimed then s.tstubForward core slot r m
    else
      (s.modTransit r.part r.number r.inc true fun t =>
        some (if t.value = m.value ∨ t.held then { t with value := ackd, held := true } else t)).setRec core slot
          { r with ackd := ackd, ha := true }
  else (s.settleTransit r.part r.number r.inc true m.value).setRec core slot { (r.noteFin m) with ackd := ackd }

/-- The DRAIN a record sends when it meets BROKEN (R132). -/
def ChanRec.finalDrain (r : ChanRec) (core : Nat) : Msg :=
  { Msg.plain .drain r .mortise r.move core r.route with value := r.next, new := r.move, fin := true, smove := r.tmove }

/-- A BROKEN at a tenon-side record (R132, R136). -/
def State.brokenArrive (s : State) (core slot : Nat) (r : ChanRec) (m : Msg) : State :=
  let r := r.count m
  if r.state = .tstub then
    if r.claimed then s.tstubForward core slot r m else s.setRec core slot { r with hb := true }
  else
    let r := r.noteFin m
    let drain := r.finalDrain core
    if r.state = .openS then (s.setRec core slot { r with state := .broken }).send core drain
    else if r.state = .tail then (s.setRec core slot r).send core drain
    else s.setRec core slot r

/-- A REPOINT at a tenon-side record (R132, R136). -/
def State.repointArrive (s : State) (core slot : Nat) (r : ChanRec) (m : Msg) : State :=
  let r := r.count m
  if r.state = .tstub then
    if r.claimed then s.tstubForward core slot r m
    else if later m.smove r.move then s.setRec core slot { r with route := m.src, move := m.smove, hp := true }
    else s.setRec core slot r
  else
    let r := r.noteFin m
    if later m.smove r.move then
      let t := { r with route := m.src, move := m.smove }
      (s.setRec core slot t).send core
        { Msg.plain .drain r .mortise r.move core r.route with value := t.next, new := t.move, smove := t.tmove }
    else s.setRec core slot r

/-- A DRAIN at a mortise-side record or stub (R135). -/
def State.drainArrive (s : State) (core slot : Nat) (r : ChanRec) (m : Msg) : State :=
  s.setRec core slot
    { r with
      df := latest r.df m.value, dnew := latest r.dnew m.new, dfin := r.dfin || m.fin, dtm := latest r.dtm m.smove
      upp := r.upp && ! m.fwd }

/-- A RELEASE at a tenon-side record or stub (R135). -/
def State.releaseArrive (s : State) (core slot : Nat) (r : ChanRec) (m : Msg) : State :=
  let r := { r with newt := latest r.newt m.new }
  s.setRec core slot
    (if m.fwd then { r with upn := m.value, upp := false } else { r with dn := m.value, dnv := true })

/-- An ANNOUNCE at a mortise-side record or stub (R135, R136). -/
def State.announceArrive (s : State) (core slot : Nat) (r : ChanRec) (m : Msg) : State :=
  let newer := later m.smove r.tmove
  if r.state = .mstub then
    let r := if newer then { r with tloc := m.src, tmove := m.smove, hn := r.hn || ! r.claimed } else r
    let s := s.setRec core slot r
    if r.claimed then s.forward core r m else s
  else if newer then
    let s := s.send core
      { Msg.plain .release r .tenon r.tmove core r.tloc with value := r.tsent, new := m.smove }
    let r := { r with tloc := m.src, tmove := m.smove, tsent := 0 }
    let s := s.setRec core slot r
    if r.state = .shut then s.sendTenonSide core slot r { Msg.plain .broken r .tenon 0 core 0 with fin := true } else s
  else s

/-- The stored sequences that a mortise stub forwards once it is claimed, from CONS upward, each with its mark (R136, R295). -/
def State.forwardStored (s : State) (core : Nat) (r : ChanRec) : (n : Nat) → (q : BitVec 32) → State
  | 0, _ => s
  | n + 1, q =>
    let k := r.elem q
    if r.pres.getLsbD k then
      let m := { Msg.plain .data r .mortise r.move core r.target with
        value := q, payload := s.elemAt core r k, esize := if r.marks.getLsbD k then 7 else r.esize }
      (s.forward core r m).forwardStored core r n (q + 1)
    else s.forwardStored core r n (q + 1)

/-- What a mortise stub does when it is claimed (R136). -/
def State.claimMortise (s : State) (core slot : Nat) (r : ChanRec) : State :=
  let s := s.forwardStored core r r.depth r.cons
  let s := if r.endv ∧ ! r.endCarried ∧ ! later r.cons r.endseq then
      s.forward core r { Msg.plain .endM r .mortise r.move core r.target with value := r.endseq }
    else s
  let s := if r.hn then s.forward core r { Msg.plain .announce r .mortise r.move r.tloc r.target with smove := r.tmove } else s
  (s.setRec core slot { (advanceFwd 257 r) with marks := 0, hn := false }).unseal core r.sealedSectors

/-- What a tenon stub does when it is claimed: one forward for each held item, each counted (R136). -/
def State.claimTenon (s : State) (core slot : Nat) (r : ChanRec) : State :=
  let s := if r.ha then s.forward core r { Msg.plain .ack r .tenon r.tmove core r.target with value := r.ackd } else s
  let s := if r.hp then s.forward core r { Msg.plain .repoint r .tenon r.tmove r.route r.target with smove := r.move } else s
  let s := if r.hb then s.forward core r { Msg.plain .broken r .tenon r.tmove core r.target with fin := true } else s
  s.setRec core slot
    { r with fwdn := r.fwdn + BitVec.ofNat 32 (r.ha.toNat + r.hp.toNat + r.hb.toNat), ha := false, hp := false, hb := false }

/-- A CLAIM at a stub (R136). -/
def State.claimArrive (s : State) (core slot : Nat) (r : ChanRec) (m : Msg) : State :=
  if ! r.isStub ∨ r.claimed then s
  else
    let r := { r with target := m.src, targetVcn := false, claimed := true }
    if r.state = .mstub then s.claimMortise core slot r else s.claimTenon core slot r

/-- A message that matches no record is dropped and counted (R123). -/
def State.dropMsg (s : State) (m : Msg) : State :=
  (s.settleTransit m.part m.number m.inc (m.kind == .ack) m.value).modPart m.part fun p => { p with chdisc := p.chdisc + 1 }

/-- The arrival of a message: it waits at the router while its VCN is unmapped (R416); one that matches no record is dropped and
counted (R123); otherwise its record handles it, and may retire. -/
def State.arrive (s : State) (m : Msg) (f : State → Nat → Nat → ChanRec → State) : State :=
  match s.msgCore m with
  | none => s.post (arrivalOf m)
  | some core =>
    match s.msgRec core m with
    | none => s.dropMsg m
    | some (k, r) => (f s core k r).settleRec core k

/-! ### The move of an end away from its core (R134) -/

/-- The sender's record becomes an unclaimed stub. An end marker that had arrived travels in the carried record (Table 5.10), so the
stub does not forward it again (log 16). -/
def ChanRec.stub (r : ChanRec) : ChanRec :=
  { r with state := if r.side = .tenon then .tstub else .mstub, held := false, claimed := false, endCarried := r.endv }

/-- An end's record becomes a stub: what stands in its buffer is not where the mortise resides, but an end marker travels with it. -/
def State.leaveStub (s : State) (core slot : Nat) (r : ChanRec) : State :=
  (s.modTransit r.part r.number r.inc false fun t =>
    some (if r.side = .mortise ∧ ! (r.endv ∧ t.value = r.endseq) then { t with landed := false } else t)).setRec core slot r.stub

/-- Every end that the registers of a slot hold is dropped; its pegs are discarded (R121). -/
def State.dropEnds (s : State) (core k : Nat) : State :=
  let x := s.slotAt core k
  (setBits x.tags).foldl (fun t i => t.dropJoint core x.g[i]!) s

end Sys2Proof.Machine
end

