-- ==== Sys2Proof/Machine/Deque.lean ====
section
/-! DEFINITION. Physical accesses of the hardware's own, continuation records, and the ready deque with its spill segment (R172,
R175 to R177, R414). -/

namespace Sys2Proof.Machine

/-! ### Untranslated accesses of the hardware to physical memory -/

/-- Writes bytes of one line at its home: copies are recalled, live launches that touched the granule are aborted (R151). -/
def State.physWriteLine (s : State) (part pa : Nat) (bs : List Byte) : State :=
  let s := s.settleLine (pa / 64) true
  (s.directWrite part (pa / 2048)).storeBytes pa bs

/-- Reads bytes of one line at its home, gathering update-only copies first (R86). -/
def State.physReadLine (s : State) (pa n : Nat) : List Byte × State :=
  let s := s.settleLine (pa / 64) false
  (Memory.readList s.mem pa n, s)

/-- Writes bytes to physical memory, line by line. -/
def State.physWrite (s : State) (part : Nat) : (ps : List (Word × Nat)) → List Byte → State
  | [], _ => s
  | (a, n) :: rest, bs => (s.physWriteLine part a.toNat (bs.take n)).physWrite part rest (bs.drop n)

/-- Reads bytes from physical memory, line by line. -/
def State.physRead (s : State) : List (Word × Nat) → List Byte × State
  | [] => ([], s)
  | (a, n) :: rest =>
    let (bs, s) := s.physReadLine a.toNat n
    let (cs, s) := s.physRead rest
    (bs ++ cs, s)

/-- A core's deque and context cache as they wait for the handlers' lists of soft lines (R75). -/
def State.hardware (s : State) (core : Nat) : Agent :=
  { core := core, slot := 16, part := s.partOf core, asid := 0, super := false, engine := false, copy := false, unit := deqUnit + core, tag := 0
    launch := none, admitted := false, feed := false }

/-- The pieces of a physical range. -/
def physPieces (pa n : Nat) : List (Word × Nat) := pieces (BitVec.ofNat 64 pa) n

/-- Whether a physical range lies within a partition's memory regions (R32). -/
def State.regionOk (s : State) (part pa n : Nat) : Bool :=
  (List.range (n / 2 ^ 30 + 2)).all fun i =>
    let a := if i = 0 then pa else (pa / 2 ^ 30 + i) * 2 ^ 30
    decide (pa + n ≤ a) || s.homeCheck part a == .ok

/-! ### Continuation records (Table 7.6) -/

/-- The fields of a continuation record. -/
structure Rec where
  arg   : BitVec 32
  l     : Bool
  tk    : Bool
  tvcn  : BitVec 11
  t     : Bool
  m     : Bool
  nb    : Bool
  lnum  : BitVec 16
  join  : Word
  frame : Word
  pc    : Word
  deriving DecidableEq, Repr

/-- A record with its program counter, frame and argument; every other field is zero. -/
def Rec.of (pc frame : Word) (arg : BitVec 32) : Rec where
  arg := arg
  l := false
  tk := false
  tvcn := 0
  t := false
  m := false
  nb := false
  lnum := 0
  join := 0
  frame := frame
  pc := pc

/-- The image of a record. -/
def Rec.pack (r : Rec) : BitVec 256 :=
  BitVec.ofNat 256 (r.pc.toNat + r.frame.toNat * 2 ^ 64 + r.join.toNat * 2 ^ 128 + r.lnum.toNat * 2 ^ 192 + r.nb.toNat * 2 ^ 208
    + r.m.toNat * 2 ^ 209 + r.t.toNat * 2 ^ 210 + r.tvcn.toNat * 2 ^ 211 + r.tk.toNat * 2 ^ 222 + r.l.toNat * 2 ^ 223
    + r.arg.toNat * 2 ^ 224)

/-- The fields of an image. -/
def Rec.unpack (x : BitVec 256) : Rec where
  arg := BitVec.ofNat 32 (field x 224 32)
  l := bit x 223
  tk := bit x 222
  tvcn := BitVec.ofNat 11 (field x 211 11)
  t := bit x 210
  m := bit x 209
  nb := bit x 208
  lnum := BitVec.ofNat 16 (field x 192 16)
  join := BitVec.ofNat 64 (field x 128 64)
  frame := BitVec.ofNat 64 (field x 64 64)
  pc := BitVec.ofNat 64 (field x 0 64)

/-- A record as a pushing agent of a launch, or of none, sets it (R414). TK and TVCN are the hardware's own. -/
def Rec.pushedBy (r : Rec) (member : Bool) (lnum : BitVec 16) : Rec :=
  { r with l := member, lnum := if member then lnum else 0 }

/-! ### The ready deque (R175) -/

/-- The local-store key of the record at a deque index. -/
def deqKey (core idx : Nat) : Nat := lsKey core (0x70000 + 32 * (idx % 512))

/-- The physical address of batch `i` of a core's spill segment. -/
def State.spillAddr (s : State) (core i : Nat) : Nat := (s.coreAt core).spb.toNat + s.vcnOf core * 0x10000 + 8192 * i

/-- The images of `n` records from a deque index. -/
def State.deqRead (s : State) (core : Nat) (idx : BitVec 32) (n : Nat) : List Byte :=
  (List.range n).flatMap fun i => Memory.readList s.mem (deqKey core (idx.toNat + i)) 32

/-- Writes record images from a deque index. -/
def State.deqWrite (s : State) (core : Nat) : (idx : Nat) → (n : Nat) → List Byte → State
  | _, 0, _ => s
  | idx, n + 1, bs => (s.storeBytes (deqKey core idx) (bs.take 32)).deqWrite core (idx + 1) n (bs.drop 32)

/-- The refusal of a hardware access outside the partition's regions: the fault record of R32. -/
def State.refuseSpill (s : State) (core : Nat) (write : Bool) (pa : Nat) : State :=
  s.postAccessFault (s.partOf core) core write false pa 0

/-- What comes of a push: the record stands in the deque, the deque and its segment are full, or the spill waits for the lists of soft lines. -/
inductive Pushed
  | put
  | full
  | held
  deriving DecidableEq, Repr

/-- Moves the 256 oldest records to the spill segment, unless the segment is full or refused. -/
def State.deqSpill (s : State) (core : Nat) : State × Pushed :=
  let c := s.coreAt core
  let pa := s.spillAddr core c.batches
  if c.spb = 0 ∨ 8 ≤ c.batches then (s, .full)
  else if ! s.regionOk (s.partOf core) pa 8192 then (s.refuseSpill core true pa, .full)
  else
    let (s, free) := s.freeSoft (s.hardware core) pa 8192
    if ! free then (s, .held)
    else
      let s := s.physWrite (s.partOf core) (physPieces pa 8192) (s.deqRead core c.dqt 256)
      (s.modCore core fun c => { c with dqt := c.dqt + 256, batches := c.batches + 1 }, .put)

/-- Writes a record at DQB. -/
def State.deqPut (s : State) (core : Nat) (r : BitVec 256) : State :=
  let s := s.store (deqKey core (s.coreAt core).dqb.toNat) 32 r.toNat
  s.modCore core fun c => { c with dqb := c.dqb + 1 }

/-- PushBottom (R175): no record is pushed when the deque and its spill segment are full, or the spill must wait. -/
def State.pushBottom (s : State) (core : Nat) (r : BitVec 256) : State × Pushed :=
  if (s.coreAt core).deqLen < 512 then (s.deqPut core r, .put)
  else
    match s.deqSpill core with
    | (s, .put) => (s.deqPut core r, .put)
    | res => res

/-- A push by an armed action, a join, a release or placement: it waits at a full deque (R175). -/
def State.pushOrWait (s : State) (core : Nat) (r : Rec) : State :=
  match s.pushBottom core r.pack with
  | (t, .put) => t
  | (t, _) => (t.modCore core fun c => { c with deqWait := c.deqWait ++ [r.pack] }).post (.dequePushResume core)

/-- Refills an empty deque with the newest batch of its spill segment. -/
def State.deqRefill (s : State) (core : Nat) : State :=
  let c := s.coreAt core
  if c.deqLen ≠ 0 ∨ c.batches = 0 then s
  else
    let pa := s.spillAddr core (c.batches - 1)
    if ! s.regionOk (s.partOf core) pa 8192 then s.refuseSpill core false pa
    else
      let (s, free) := s.freeSoft (s.hardware core) pa 8192
      if ! free then s
      else
        let (bs, s) := s.physRead (physPieces pa 8192)
        (s.deqWrite core c.dqb.toNat 256 bs).modCore core fun c => { c with dqb := c.dqb + 256, batches := c.batches - 1 }

/-- A pop: the 64th, and every 64th after it, takes the oldest record, every other the newest (R176). -/
def State.deqPop (s : State) (core : Nat) : State × Option (BitVec 256) :=
  let s := s.deqRefill core
  let c := s.coreAt core
  if c.deqLen = 0 then (s, none)
  else
    let old := c.popN = 63
    let idx := if old then c.dqt else c.dqb - 1
    let r := BitVec.ofNat 256 (s.load (deqKey core idx.toNat) 32)
    (s.modCore core fun c =>
      { c with popN := c.popN + 1, dqt := if old then c.dqt + 1 else c.dqt, dqb := if old then c.dqb else c.dqb - 1 }, some r)

/-- A steal takes the record at DQT (R177). -/
def State.deqSteal (s : State) (core : Nat) : State × Option (BitVec 256) :=
  let c := s.coreAt core
  if c.deqLen = 0 then (s, none)
  else
    let r := BitVec.ofNat 256 (s.load (deqKey core c.dqt.toNat) 32)
    (s.modCore core fun c => { c with dqt := c.dqt + 1 }, some r)

/-- The pushes that wait at a deque proceed in order while there is room. -/
def State.resumePushes (s : State) (core : Nat) : List (BitVec 256) → State
  | [] => s.modCore core fun c => { c with deqWait := [] }
  | r :: rest =>
    match s.pushBottom core r with
    | (t, .put) => t.resumePushes core rest
    | (t, _) => (t.modCore core fun c => { c with deqWait := r :: rest }).post (.dequePushResume core)

/-- DEQUE_PUSH_RESUME (R175). -/
def execDequePushResume (core : Nat) (s : State) : Host.Outcome State Fault Refusal :=
  .next (if (s.coreAt core).deqWait = [] then s else s.resumePushes core (s.coreAt core).deqWait)

/-- Every record of a core: in its deque, its spill segment, or waiting at its deque. -/
def State.recordsOf (s : State) (core : Nat) : List Rec :=
  let c := s.coreAt core
  let inDeque := (List.range (if c.deqLen ≤ 512 then c.deqLen else 512)).map fun i =>
    Rec.unpack (BitVec.ofNat 256 (s.load (deqKey core (c.dqt.toNat + i)) 32))
  let spilled := (List.range (256 * c.batches)).map fun i =>
    Rec.unpack (BitVec.ofNat 256 (s.load (s.spillAddr core 0 + 32 * i) 32))
  inDeque ++ spilled ++ c.deqWait.map Rec.unpack

end Sys2Proof.Machine
end

