-- ==== Sys2Proof/Machine/StrandOps.lean ====
section
/-! DEFINITION. Strands as a whole: join decrements (R173), starting from a record (R172), ending and being discarded (R158, R159,
R283, R368), context entries (R370), pending work of a launch (R156), and the classifier (R350). -/

namespace Sys2Proof.Machine

/-! ### Launches of a partition -/

/-- The launch of a partition that a ticket names. -/
def Part.byTicket (p : Part) (t : Nat) : Option Launch := p.launches.find? fun l => l.ticket == t

/-- Changes the launch of a ticket. -/
def State.modLaunch (s : State) (part t : Nat) (f : Launch → Launch) : State :=
  s.modPart part fun p => { p with launches := p.launches.map fun l => if l.ticket = t then f l else l }

/-- The join block address that names a launch's join counter in system space (R304): bit 63 and the ticket (log 17). -/
def launchJb (ticket : Nat) : Word := BitVec.ofNat 64 (2 ^ 63 + ticket)

/-- The outcome of a flattened child whose last strand has ended (R160). -/
def Part.childOutcome (p : Part) (parent : BitVec 16) : BitVec 8 :=
  match p.liveLaunch parent with
  | some _ => 0
  | Option.none =>
    match p.launches.find? fun l => l.parent.isNone && l.numbered && l.lnum == parent && l.phase == .over with
    | some l => l.outcome.getD 0x23
    | Option.none => 0x23

/-- A decrement of a launch's join counter (R304); one of a counter that is gone has no effect. -/
def State.launchDecrement (s : State) (part ticket : Nat) (failed : Bool) : State :=
  s.modLaunch part ticket fun l =>
    { l with
      pending := l.pending - 1
      failed := if failed ∧ l.failed ≠ 0xFFFF then l.failed + 1 else l.failed }

/-! ### Join blocks (R173) -/

/-- What a decrement leads to: nothing more, or the record of a block whose PENDING has reached zero, with the core that OWNER
names. -/
abbrev JoinEnd := Option (Rec × Nat)

/-- Word 0 of a join block after a decrement (Table 7.7); a block with nothing awaited is left. -/
def joinWord (failed : Bool) (w : Nat) : Nat :=
  let word := BitVec.ofNat 64 w
  let f := field word 32 16
  let f := if failed ∧ f < 0xFFFF then f + 1 else f
  if field word 0 32 = 0 then w else (setField (setField word 0 32 (field word 0 32 - 1)) 32 16 f).toNat

/-- JoinDecrement on a block in memory (R173): the whole block is resolved as an atomic place, its record is read if the decrement is the
last, then word 0 takes one RMW at its home. -/
def joinBlock (ag : Agent) (jb : Word) (failed : Bool) : Exec JoinEnd := do
  if jb.toNat % 16 ≠ 0 then trap Cause.align jb
  let ps := (← placePieces ag .join false true 0 (pieces jb 48)).map fun p => (p.1, p.2.1, p.2.2.1)
  let w ← match ps with
    | (_, _, p) :: _ => readPlace ag 8 p
    | [] => pure 0
  let last := field (BitVec.ofNat 64 w) 0 32 = 1
  let block ← if last then readPieces ag 0 ps else pure []
  let old ← match ps with
    | (_, _, .ls c off) :: _ => rmwLs ag c off 8 (joinWord failed)
    | (_, _, .phys pa leaf) :: _ => rmwPhys ag pa 8 leaf true (joinWord failed)
    | _ => pure 0
  endAccess ag
  let word := BitVec.ofNat 64 old
  if field word 0 32 = 0 then trap Cause.barrier jb
  if last then
    let s ← get
    let owner := (s.vcnCore ag.part (field word 48 16)).getD ag.core
    return some (Rec.unpack (BitVec.ofNat 256 (ofBytes (block.drop 16))), owner)
  else return none

/-- JoinDecrement (R173, R304): on a block in memory or on a launch's own counter. -/
def joinDecrement (ag : Agent) (jb : Word) (failed : Bool) : Exec JoinEnd := do
  if bit jb 63 then
    upd fun s => s.launchDecrement ag.part (field jb 0 62) failed
    return none
  else joinBlock ag jb failed

/-- The push that a decrement to zero makes (R173, R414), over the mesh to another core. -/
def State.joinPush (s : State) (x : Slot) (e : JoinEnd) : State :=
  match e with
  | none => s
  | some (r, core) =>
    (if core = s.core then s else s.countPair s.core (core / 4) 1 1).pushOrWait core (r.pushedBy x.member x.lnum)

/-! ### Context entries (Table 16.4) and vector frames (Table 16.5) -/

/-- The image of a context entry. -/
def Slot.entry (x : Slot) (frame : Nat) : List Byte :=
  (x.g.toList.flatMap fun w => toBytes 8 w.toNat) ++ toBytes 8 x.pc.toNat ++ toBytes 4 x.status.toNat ++ toBytes 2 x.tags.toNat
    ++ toBytes 2 0 ++ toBytes 8 x.jb.toNat ++ toBytes 2 x.lnum.toNat
    ++ toBytes 1 (1 + 2 * x.pin.toNat + 4 * x.trapped.toNat + 8 * x.stopped.toNat + 16 * x.member.toNat + 32 * x.swapWait.toNat)
    ++ toBytes 1 frame ++ toBytes 4 x.xstat.toNat ++ toBytes 2 x.xcause.toNat ++ toBytes 1 x.asid.toNat ++ toBytes 5 0
    ++ toBytes 8 x.xvalue.toNat ++ toBytes 8 x.xpc.toNat ++ toBytes 8 x.xtgt.toNat ++ toBytes 8 x.reps.toNat
    ++ toBytes 8 x.repa.toNat ++ toBytes 2 x.pend.toNat ++ toBytes 46 0

/-- A number of `n` bytes at an offset of an image. -/
def imgAt (img : List Byte) (off n : Nat) : Nat := ofBytes ((img.drop off).take n)

/-- The slot that a context entry restores; a strand without a frame starts with the state that VREL leaves (R371). -/
def Slot.ofEntry (old : Slot) (img : List Byte) : Slot :=
  let fl := BitVec.ofNat 8 (imgAt img 0x9A 1)
  { old.fresh with
    g := Vector.ofFn fun i : Fin 16 => BitVec.ofNat 64 (imgAt img (8 * i.val) 8)
    pc := BitVec.ofNat 64 (imgAt img 0x80 8)
    status := BitVec.ofNat 32 (imgAt img 0x88 4)
    tags := BitVec.ofNat 16 (imgAt img 0x8C 2)
    jb := BitVec.ofNat 64 (imgAt img 0x90 8)
    lnum := BitVec.ofNat 16 (imgAt img 0x98 2)
    member := bit fl 4, pin := bit fl 1, trapped := bit fl 2, stopped := bit fl 3, swapWait := bit fl 5
    xstat := BitVec.ofNat 64 (imgAt img 0x9C 4)
    xcause := BitVec.ofNat 64 (imgAt img 0xA0 2 % 512)
    asid := BitVec.ofNat 8 (imgAt img 0xA2 1)
    xvalue := BitVec.ofNat 64 (imgAt img 0xA8 8)
    xpc := BitVec.ofNat 64 (imgAt img 0xB0 8)
    xtgt := BitVec.ofNat 64 (imgAt img 0xB8 8)
    reps := BitVec.ofNat 64 (imgAt img 0xC0 8)
    repa := BitVec.ofNat 64 (imgAt img 0xC8 8)
    pend := BitVec.ofNat 16 (imgAt img 0xD0 2) }

/-- What a strand that goes into context entry `e` keeps hidden. -/
def Slot.keep (x : Slot) (e : Nat) : Kept := { entry := e, sid := x.sid, entered := x.entered, slotPos := x.slotPos, ahead := x.aheadN }

/-- A strand out of context entry `e` with what it has kept hidden; one that a supervisor has written there takes the serial number given, and
its PC counts as entered (R369, log 18). -/
def Slot.recall (x : Slot) (kept : List Kept) (e sid : Nat) : Slot :=
  match kept.find? fun q => q.entry == e with
  | some q => { x with sid := q.sid, entered := q.entered, slotPos := q.slotPos, aheadN := q.ahead, occupied := true }
  | none => { x with sid := sid, occupied := true }

/-- The image of a vector frame (8 KiB): v, m, the lineages, DSTAT and the lane images. -/
def Slot.frame (x : Slot) : List Byte :=
  (x.v.toList.flatMap fun v => toBytes 128 v.toNat) ++ (x.m.toList.flatMap fun m => toBytes 4 m.toNat)
    ++ (x.d.toList.flatMap fun d => toBytes 2 d.lineage.toNat) ++ toBytes 8 0 ++ toBytes 8 x.dstat.toNat
    ++ List.replicate (0xC00 - 0x838) 0 ++ (x.d.toList.flatMap fun d => toBytes 768 d.image.toNat)
    ++ List.replicate (0x2000 - 0xC00 - 4 * 768) 0

/-- A slot with the registers of a vector frame. -/
def Slot.withFrame (x : Slot) (img : List Byte) : Slot :=
  { x with
    v := Vector.ofFn fun i : Fin 16 => BitVec.ofNat 1024 (imgAt img (128 * i.val) 128)
    m := Vector.ofFn fun i : Fin 8 => BitVec.ofNat 32 (imgAt img (0x800 + 4 * i.val) 4)
    d := Vector.ofFn fun i : Fin 4 =>
      { image := BitVec.ofNat 6144 (imgAt img (0xC00 + 768 * i.val) 768), lineage := BitVec.ofNat 16 (imgAt img (0x820 + 2 * i.val) 2) }
    dstat := BitVec.ofNat 64 (imgAt img 0x830 8) }

/-- The address of a vector frame. -/
def State.frameAddr (s : State) (part vcn f : Nat) : Nat := s.saveRegion part vcn + 0xB0000 + 0x2000 * f

/-- Writes a vector frame; memory that the partition does not own takes none of it. -/
def State.putFrame (s : State) (part vcn f : Nat) (x : Slot) : State :=
  let pa := s.frameAddr part vcn f
  if s.regionOk part pa 0x2000 then s.physWrite part (physPieces pa 0x2000) x.frame else s

/-- Reads a vector frame into a slot. -/
def State.getFrame (s : State) (part vcn f : Nat) (x : Slot) : State × Slot :=
  let (bs, s) := s.physRead (physPieces (s.frameAddr part vcn f) 0x2000)
  (s, x.withFrame bs)

/-- The cache order's entries, oldest first (Table 16.3). -/
def State.cacheOrder (s : State) (core : Nat) : List Nat :=
  ((Memory.readList s.mem (lsKey core 0x7C800) 8).map (·.toNat)).filter (· < 8)

/-- Writes the cache order. -/
def State.setCacheOrder (s : State) (core : Nat) (es : List Nat) : State :=
  s.storeBytes (lsKey core 0x7C800) (((es.map fun e => BitVec.ofNat 8 e) ++ List.replicate 8 0xFF).take 8)

/-- The entries of the cache that hold a context: those in the order whose V bit is set, whoever has written them (R369). -/
def State.cached (s : State) (core : Nat) : List Nat :=
  ((s.cacheOrder core).filter fun e => bit (BitVec.ofNat 8 (s.load (lsKey core (cacheEntryOff e + 0x9A)) 1)) 0).eraseDups

/-- Saves a strand into cache entry `e`, at the end of the order; its vector frame goes to a VCN's save region (R371). -/
def State.saveContext (s : State) (core vcn e : Nat) (x : Slot) : State :=
  let part := s.partOf core
  let frame := if x.anchored then 16 + e else 0xFF
  let s := if x.anchored then s.putFrame part vcn (16 + e) x else s
  let s := s.storeBytes (lsKey core (cacheEntryOff e)) (x.entry frame)
  let s := s.setCacheOrder core (((s.cached core).filter (· != e)) ++ [e])
  (s.modCore core fun c => { c with kept := (c.kept.filter fun q => q.entry != e) ++ [x.keep e] })

/-- Takes the context of cache entry `e` out of the cache: the slot it restores. -/
def State.takeContext (s : State) (core slot e : Nat) : State × Slot :=
  let img := Memory.readList s.mem (lsKey core (cacheEntryOff e)) 256
  let x := (s.slotAt core slot).ofEntry img
  let f := imgAt img 0x9B 1
  let (s, x) := if f = 0xFF then (s, x) else s.getFrame (s.partOf core) (s.vcnOf core) f x
  let s := s.setCacheOrder core ((s.cached core).filter (· != e))
  let s := s.storeBytes (lsKey core (cacheEntryOff e + 0x9A)) [0]
  let kept := (s.coreAt core).kept
  ({ (s.modCore core fun c => { c with kept := c.kept.filter fun q => q.entry != e }) with serial := s.serial + 1 },
    x.recall kept e s.serial)

/-- Restores a context into a vacant slot; the restore completes as an occurrence of its own (R354). -/
def State.restoreContext (s : State) (core slot e : Nat) : State :=
  let (s, x) := s.takeContext core slot e
  let x := { x with restoring := true }
  let s := s.setSlot core slot x
  let s := if x.trapped then
      s.pushTrap core { w0 := trapWord0 0 0 slot (bit x.xcause 8) (BitVec.ofNat 8 x.xcause.toNat), w1 := x.xvalue }
    else s
  s.post (.contextRestoreComplete core slot)

/-! ### Pending work of a launch (R156) -/

/-- Whether a slot's strand belongs to a launch. -/
def Slot.ofLaunch (x : Slot) (lnum : BitVec 16) : Bool := x.occupied && x.member && x.lnum == lnum

/-- Whether a context entry's image belongs to a launch. -/
def entryOfLaunch (img : List Byte) (lnum : BitVec 16) : Bool :=
  bit (BitVec.ofNat 8 (imgAt img 0x9A 1)) 4 && imgAt img 0x98 2 == lnum.toNat

/-- What is looked for among strands: in a slot, in the image of a context entry, in a record. -/
structure Sought where
  strand : Slot → Bool
  image  : List Byte → Bool
  record : Rec → Bool

/-- The strands and records of a launch. -/
def soughtLaunch (lnum : BitVec 16) : Sought where
  strand := fun x => x.ofLaunch lnum
  image := fun img => entryOfLaunch img lnum
  record := fun r => r.l && r.lnum == lnum

/-- The strands and records whose join block is the one given. -/
def soughtJoin (jb : Word) : Sought where
  strand := fun x => x.occupied && x.jb == jb
  image := fun img => imgAt img 0x90 8 == jb.toNat
  record := fun r => r.join == jb

/-- Whether a core holds what is sought: among its strands, cached contexts and records. -/
def State.coreHolds (s : State) (core : Nat) (w : Sought) : Bool :=
  ((s.coreAt core).slots.any fun k => w.strand k.2)
    || ((s.cached core).any fun e => w.image (Memory.readList s.mem (lsKey core (cacheEntryOff e)) 256))
    || ((s.recordsOf core).any w.record)

/-- Whether a saved tenant holds what is sought: among its contexts, records and waiting pushes. -/
def State.savedHolds (s : State) (part vcn : Nat) (t : SavedTenant) (w : Sought) : Bool :=
  let r := s.saveRegion part vcn
  let top := s.load (r + 0xE2E10) 4
  let len := (s.load (r + 0xE2E14) 4 + 2 ^ 32 - top) % 2 ^ 32
  let mine (x : BitVec 256) : Bool := w.record (Rec.unpack x)
  let order := ((Memory.readList s.mem (r + 0x7C800) 8).map (·.toNat)).filter (· < 8)
  let images := (List.range 15).map (fun k => r + 0xE0000 + 256 * k) ++ order.map fun e => r + 0x7C000 + 256 * e
  (images.any fun a => s.load (a + 0x9A) 1 % 2 == 1 && w.image (Memory.readList s.mem a 256))
    || ((List.range (if len ≤ 512 then len else 512)).any fun i =>
      mine (BitVec.ofNat 256 (s.load (r + 0x70000 + 32 * ((top + i) % 512)) 32)))
    || ((List.range (256 * t.batches)).any fun i =>
      mine (BitVec.ofNat 256 (s.load ((s.coreAt t.from_).spb.toNat + vcn * 0x10000 + 32 * i) 32)))
    || t.waits.any mine

/-- Whether a partition holds what is sought, in a core, on its way to one, or in a saved tenant. -/
def State.holds (s : State) (part : Nat) (w : Sought) : Bool :=
  (s.cores.any fun c => s.partOf c.1 == part && s.coreHolds c.1 w)
    || (s.quads.any fun q => q.2.landing.any fun m => m.part == part && w.strand m.slot)
    || ((s.partAt part).saved.any fun t => s.savedHolds part t.1 t.2 w)

/-- Whether a core has accepted commands of a launch that have not ended: armed entries, truss commands. -/
def Core.commandsOf (c : Core) (part : Nat) (lnum : BitVec 16) : Bool :=
  (c.armed.any fun a => a.owner.inLaunch part lnum) || (c.truss.any fun t => t.owner.inLaunch part lnum)

/-- Whether a quad has commands of a launch: copies, dependence-table entries. -/
def Quad.commandsOf (q : Quad) (part : Nat) (lnum : BitVec 16) : Bool :=
  (q.copies.any fun c => c.owner.inLaunch part lnum) || (q.dep.any fun e => e.2.state != .free && e.2.owner.inLaunch part lnum)

/-- Whether a saved tenant has commands of a launch. -/
def SavedTenant.commandsOf (t : SavedTenant) (part : Nat) (lnum : BitVec 16) : Bool :=
  (t.copies.any fun c => c.owner.inLaunch part lnum)
    || (t.armed.any fun a => a.owner.inLaunch part lnum)
    || (t.truss.any fun k => k.owner.inLaunch part lnum)

/-- Whether a reduction of a launch is on its way: its access is not yet performed (R113). -/
def redsDue (s : State) (part : Nat) (lnum : BitVec 16) : List Instr → Bool
  | [] => false
  | .redAtHome r :: rest => (r.launch == some lnum && s.partOf r.core == part) || redsDue s part lnum rest
  | _ :: rest => redsDue s part lnum rest

/-- Whether a launch has pending work. -/
def State.pendingWork (s : State) (part : Nat) (lnum : BitVec 16) : Bool :=
  s.holds part (soughtLaunch lnum)
    || (s.cores.any fun c => s.partOf c.1 == part && c.2.commandsOf part lnum)
    || (s.quads.any fun q => q.2.commandsOf part lnum)
    || (s.dies.any fun d => d.2.feeds.any fun f => f.owner.inLaunch part lnum)
    || ((s.partAt part).saved.any fun t => t.2.commandsOf part lnum)
    || ((s.partAt part).launches.any fun l => l.parent == some lnum && l.phase == .queued)
    || redsDue s part lnum s.events

/-! ### The end of a flattened child (R160) -/

/-- A strand has ended whose join block is `jb`. Where that names the join counter of a flattened child, and no strand or record of the
child is left, the child's outcome is recorded (R160). A child's strands are its initial ones and the continuations that carry their
obligation on, all of which have the counter as their join block (R281, R304; DEDUCED, log 79). -/
def State.childEnd (s : State) (part : Nat) (jb : Word) : State :=
  if ! bit jb 63 then s
  else
    match (s.partAt part).byTicket (field jb 0 62) with
    | none => s
    | some l =>
      match l.parent with
      | none => s
      | some n =>
        if l.phase ≠ .live ∨ s.holds part (soughtJoin jb) then s
        else s.modLaunch part l.ticket fun k => { k with phase := .over, outcome := some ((s.partAt part).childOutcome n) }

/-! ### The end of a strand -/

/-- The reductions of a strand that has gone count for no slot. -/
def orphanReds (core slot : Nat) : List Instr → List Instr
  | [] => []
  | .redAtHome r :: rest =>
    (if r.core = core ∧ r.slot = slot then .redAtHome { r with slot := 16 } else .redAtHome r) :: orphanReds core slot rest
  | e :: rest => e :: orphanReds core slot rest

/-- A gang member's end clears its LIVE bit in every member (R170). -/
def State.leaveGang (s : State) (core slot : Nat) : State :=
  if (s.slotAt core slot).isGang then
    (quadCores core).foldl
      (fun t c =>
        if (t.slotAt c slot).isGang then t.modSlot c slot fun x => { x with status := setBit x.status (16 + core % 4) false } else t)
      s
  else s

/-- The slot becomes vacant. -/
def State.vacate (s : State) (core slot : Nat) : State :=
  let s := (s.leaveGang core slot).dropHost core slot
  let s := s.setSlot core slot (s.slotAt core slot).fresh
  { s with events := orphanReds core slot s.events }

/-- A failure of a strand of a live launch aborts the launch, unless it is tolerant (R159). -/
def State.failLaunch (s : State) (part : Nat) (x : Slot) (fault : Bool) : State :=
  if ! x.member then s
  else
    match (s.partAt part).liveLaunch x.lnum with
    | none => s
    | some l => if l.tolerant then s else s.abortTag part l.tag (if fault then 0x22 else 0x23)

/-- The failed decrement of a discarded strand (R283): one that faults is reported as a strand trap of its slot; false while its
home makes it wait. -/
def State.failedDecrement (s : State) (core slot : Nat) : State × Bool :=
  let x := s.slotAt core slot
  if x.jb = 0 then (s, true)
  else
    let t := { s with core := core, slot := slot }
    let back (u : State) : State := { u with core := s.core, slot := s.slot }
    match joinDecrement t.me x.jb true t with
    | .ok (e, u) => (back (u.joinPush x e), true)
    | .error (.trap c _ mal) => (s.pushTrap core { w0 := trapWord0 0 0 slot mal c, w1 := x.jb }, true)
    | .error (.trapIn u c _ mal) => (back (u.pushTrap core { w0 := trapWord0 0 0 slot mal c, w1 := x.jb }), true)
    | .error (.quit u) => (back u, true)
    | .error (.wait _ u) => (back u, false)

/-- Discards a strand (R121, R283, R159): its ends are dropped, its failed decrement is made, the slot becomes vacant, and its
launch may abort. `fault`: by an unrecoverable fault, else by a kill. -/
def State.discard (s : State) (core slot : Nat) (fault : Bool) : State :=
  let x := s.slotAt core slot
  if ! x.occupied then s
  else
    let s := ((s.dropEnds core slot).dropHeld core slot).modSlot core slot fun y =>
      { y with tags := 0, status := setBit y.status 13 false }
    let (s, done) := s.failedDecrement core slot
    if ! done then s.modSlot core slot fun y => { y with kill := some fault }
    else
      let part := s.partOf core
      ((s.vacate core slot).failLaunch part x fault).childEnd part x.jb

/-! ### Starting from a record (R172) -/

/-- The slot of a strand that a record starts. -/
def Rec.start (r : Rec) (old : Slot) (asid : BitVec 8) : Slot :=
  let g12 : Word := if r.tk then BitVec.ofNat 64 (r.tvcn.toNat * 2 ^ 32 + r.arg.toNat) else zx64 r.arg
  let x := { old.fresh with
    pc := r.pc, entered := true, jb := r.join, lnum := if r.l then r.lnum else 0, member := r.l, asid := asid
    g := (Slot.vacant.g.set! 12 g12).set! 13 r.frame }
  { x with status := setBit (setBit 0 14 r.nb) 13 r.m }

/-- Starts a strand from a record in a slot; one whose launch is not live ends at once (R414, R158). Its address space is its
launch's, or HASID's (R417). -/
def State.startRecord (s : State) (core slot : Nat) (r : Rec) : State :=
  let part := s.partOf core
  let hasid := (s.coreAt core).hasid
  if ! r.l then s.seat core slot (r.start (s.slotAt core slot) hasid)
  else
    match (s.partAt part).liveLaunch r.lnum with
    | some l => s.seat core slot (r.start (s.slotAt core slot) l.asid)
    | none => (s.seat core slot (r.start (s.slotAt core slot) hasid)).discard core slot false

/-! ### The classifier (R350) -/

/-- Whether a placement control word is one that a write would take (R353). -/
def controlOk (w : Word) : Bool := field w 24 40 == 0 && field w 11 5 == 0 && field w 3 3 == 0 && field w 6 5 != 0

/-- The placement control word of a partition on a die, at its reset value while no valid word has been written (Table 15.1). -/
def Die.control (d : Die) (part : Nat) : Word :=
  let reset : Word := BitVec.ofNat 64 (64 * 2 ^ 16 + 4 * 2 ^ 6 + 1)
  let w := d.placement.get reset part
  if controlOk w then w else reset

/-- The class of counts under a threshold: 1 Compute, 2 Memory (R350). -/
def classOf (ithr ops bytes : Nat) : BitVec 2 := if ithr ≠ 0 ∧ ithr * bytes ≤ ops then 1 else 2

/-- ITHR of a partition, on the die of its root core. -/
def State.ithr (s : State) (part : Nat) : Nat := field ((s.dieAt (s.rootCore part / 256)).control part) 16 8

/-- Records the class of a launch under its ENTRY, the least recently used entry giving way (R350). -/
def State.classify (s : State) (part : Nat) (l : Launch) : State :=
  let k := classOf (s.ithr part) l.ops l.bytes
  s.modPart part fun p =>
    { p with classes := ((l.entry, k) :: p.classes.filter fun e => e.1 != l.entry).take 32 }

end Sys2Proof.Machine
end

