-- ==== Sys2Proof/Machine/CallArea.lean ====
section
/-! DEFINITION. Call frames: the aperture and its doorbell, the checks of the port die, call areas, replies and fault records
(R382 to R385, R387, R388). -/

namespace Sys2Proof.Machine

/-! ### The header of a frame (Table 17.1) -/

/-- CALL. -/
def hdrCall (bs : List Byte) : Nat := imgAt bs 0x00 4
/-- LENGTH. -/
def hdrLength (bs : List Byte) : Nat := imgAt bs 0x04 4
/-- TAG. -/
def hdrTag (bs : List Byte) : Nat := imgAt bs 0x08 8
/-- REPLY. -/
def hdrReply (bs : List Byte) : Nat := imgAt bs 0x10 8
/-- PASID. -/
def hdrPasid (bs : List Byte) : BitVec 32 := BitVec.ofNat 32 (imgAt bs 0x18 4)
/-- VEC. -/
def hdrVec (bs : List Byte) : Nat := imgAt bs 0x1C 2
/-- PRIO. -/
def hdrPrio (bs : List Byte) : Nat := imgAt bs 0x1E 1
/-- ASID. -/
def hdrAsid (bs : List Byte) : BitVec 8 := BitVec.ofNat 8 (imgAt bs 0x1F 1)
/-- `n` bytes of the arguments at an offset. -/
def hdrArg (bs : List Byte) (off n : Nat) : Nat := imgAt bs (0x40 + off) n

/-- The MSI-X vectors of a function (Table 17.4). -/
def msixVectors : Nat := 16

/-- Check 1 of R383. -/
def frameMalformed (bs : List Byte) (x : Word) : Bool :=
  x.toNat != hdrTag bs || decide (4024 < hdrLength bs) || hdrLength bs % 8 != 0 || decide (msixVectors ≤ hdrVec bs)
    || field (hdrPasid bs) 20 11 != 0 || hdrPrio bs / 8 != 0 || (bs.drop 0x20).take 32 != List.replicate 32 0

/-! ### Call areas (R384): function 0 has the operator's, VFn its partition's -/

/-- The function whose call area the call registers of a core reach: its partition's; but on CD0's root core, core 0, PF0's, unless that core
is the root core of its partition, too. On another core of no partition they reach none (log 25). -/
def State.callFn (s : State) (core : Nat) : Nat :=
  if core = 0 ∧ (s.coreAt 0).vcn ≠ some 0 then 0 else s.partOf core + 1

/-- The partition that holds a function's translations: VFn is partition n - 1 (Table 7.3); PF0's stand apart. -/
def fnPart (f : Nat) : Nat := if f = 0 then noPart else f - 1

/-- The frame slots in use. -/
def State.frames (s : State) (f : Nat) : Map Frame := if f = 0 then (s.fnAt 0).calls else (s.partAt (fnPart f)).frames

/-- Replaces the frame slots of a function. -/
def State.setFrames (s : State) (f : Nat) (m : Map Frame) : State :=
  if f = 0 then s.modFn 0 fun x => { x with calls := m } else s.modPart (fnPart f) fun x => { x with frames := m }

/-- The queue: slot indexes, head first. -/
def State.callQ (s : State) (f : Nat) : List Nat := if f = 0 then (s.fnAt 0).callQ else (s.partAt (fnPart f)).callQ

/-- Replaces the queue of a function. -/
def State.setCallQ (s : State) (f : Nat) (q : List Nat) : State :=
  if f = 0 then s.modFn 0 fun x => { x with callQ := q } else s.modPart (fnPart f) fun x => { x with callQ := q }

/-- The bytes of a frame as a call reads them: PASID does not apply to a peer (R388). -/
def Frame.args (x : Frame) : List Byte := if x.peer.isNone then x.bytes else x.bytes.take 0x18 ++ toBytes 4 0 ++ x.bytes.drop 0x1C

/-- Whether a slot has become free: popped, and, where REPLY is not 0, replied to. -/
def Frame.done (x : Frame) : Bool := x.popped && (x.replied || hdrReply x.bytes == 0)

/-- Replaces a frame, or frees its slot. -/
def State.putFrameSlot (s : State) (f k : Nat) (x : Frame) : State :=
  s.setFrames f (if x.done then Map.erase (s.frames f) k else (s.frames f).set k x)

/-- CALLH (Table 17.6). -/
def State.callHead (s : State) (f : Nat) : Word :=
  match s.callQ f with
  | k :: _ => BitVec.ofNat 64 (2 ^ 63 + k)
  | [] => 0

/-- CALLPOP: the head frame is retired. -/
def State.callPop (s : State) (f : Nat) : State :=
  match s.callQ f with
  | [] => s
  | k :: rest =>
    let s := s.setCallQ f rest
    match (s.frames f).find k with
    | some x => s.putFrameSlot f k { x with popped := true }
    | none => s

/-! ### Replies (R385, R388) -/

/-- The reply image (R385). -/
def replyImage (tag status r0 r1 : Nat) : List Byte := toBytes 8 tag ++ toBytes 1 status ++ toBytes 7 0 ++ toBytes 8 r0 ++ toBytes 8 r1

/-- A reply to a peer: a purlin write to its REPLY, then a completion flit (R388). That the link its frame came by carries it is the model's
choice; the spec names no link (DESIGN CHOICE, log 22). -/
def State.purlinReply (s : State) (link addr : Nat) (img : List Byte) : State :=
  { s with sys := { s.sys with purlin := s.sys.purlin ++ [{ link := link, addr := BitVec.ofNat 64 addr, bytes := img }] } }

/-- Writes a reply to a frame, then its MSI-X vector; while the write waits for the host, the answer is the state that holds it (`error`). A
refused reply becomes a fault record of PF0, and a peer's reply leaves by a link (R388). -/
def State.sendReply (s : State) (f : Nat) (bs : List Byte) (peer : Option Nat) (img : List Byte) : Except State State :=
  if hdrReply bs = 0 then .ok s
  else
    match peer with
    | some link => .ok (s.purlinReply link (hdrReply bs) img)
    | none =>
      match s.hostWrite f (hdrPasid bs) (hdrReply bs) 32 with
      | .held t => .error t
      | .refused t => .ok (t.postFault 0 4 f (toBytes 4 0 ++ toBytes 8 (hdrTag bs) ++ toBytes 8 (hdrReply bs)))
      | .sendTo t ta =>
        .ok ((t.storeBytes (hostKey ta) img).modFn f fun x => { x with msix := x.msix ++ [BitVec.ofNat 16 (hdrVec bs)] })

/-- A reply to the frame in a slot: it is sent and the slot may become free. -/
def State.replyFrame (s : State) (f k : Nat) (img : List Byte) : Except State State :=
  match (s.frames f).find k with
  | none => .ok s
  | some x => (s.sendReply f x.bytes x.peer img).map fun t => t.putFrameSlot f k { x with replied := true }

/-- Sends a reply of the port die itself, or keeps it until the host has answered for it (R383). -/
def State.portReply (s : State) (f : Nat) (bs : List Byte) (peer : Option Nat) (img : List Byte) : State :=
  match s.sendReply f bs peer img with
  | .ok t => t
  | .error t => t.modFn f fun x => { x with owed := x.owed ++ [(bs, img)] }

/-- The replies of the port die that a function owes are tried again, in their order. -/
def State.sendOwed (s : State) (f : Nat) : State :=
  (s.fnAt f).owed.foldl (fun t e => t.portReply f e.1 none e.2) (s.modFn f fun x => { x with owed := [] })

/-! ### Submission (R382, R383) -/

/-- Whether a call may be made in the present stage (Table 17.5). -/
def State.stageAllows (s : State) (f call : Nat) : Bool :=
  decide (2 ≤ s.sys.stage) || (f == 0 && decide (1 ≤ call ∧ call ≤ 4))

/-- The free slots of a call area. -/
def State.freeFrames (s : State) (f : Nat) : List Nat :=
  (List.range 64).filter fun k => ((s.frames f).find k).isNone

/-- Writes a frame into a call area at CALB: a partition's, if it owns the memory, or PF0's, once the operator has given it (R384). -/
def State.storeFrame (s : State) (f k : Nat) (bs : List Byte) : State :=
  let base := (s.partAt (fnPart f)).calb.toNat
  let pa := base + 4096 * k
  if (f = 0 ∧ base ≠ 0) ∨ (f ≠ 0 ∧ s.regionOk (fnPart f) pa 4096) then s.physWrite (fnPart f) (physPieces pa 0xFF8) (bs.take 0xFF8) else s

/-- Submits a frame: the port die's checks in order, each answered by the port die itself, then a free slot of the queue. -/
def State.submit (s : State) (f : Nat) (bs : List Byte) (peer : Option Nat) (x : Word) : State :=
  let refuse (status : Nat) : State := s.portReply f bs peer (replyImage (hdrTag bs) status 0 0)
  if frameMalformed bs x then refuse 0x02
  else if ! s.stageAllows f (hdrCall bs) then refuse 0x07
  else
    match s.freeFrames f with
    | [] => refuse 0x05
    | k0 :: ks =>
      let k := (k0 :: ks).getD (Config.frameSlot s.tick % (ks.length + 1)) k0
      let s := s.storeFrame f k bs
      (s.setFrames f ((s.frames f).set k { bytes := bs, popped := false, replied := false, peer := peer })).setCallQ f (s.callQ f ++ [k])

/-- Whether a function's aperture is mapped: PF0's once power is on, an enabled VF's. -/
def State.fnMapped (s : State) (f : Nat) : Bool :=
  s.sys.powered && (f == 0 || (decide (f ≤ 32) && (s.fnAt f).enabled))

/-- The frame in a function's buffer. -/
def State.bufferFrame (s : State) (f : Nat) : List Byte := (List.range 4096).map fun i => (s.fnAt f).buffer.get 0 i

/-- Stores a posted write into the frame buffer, byte by byte. -/
def storeBuffer (m : Map Byte) (off : Nat) : List Byte → Map Byte
  | [] => m
  | b :: rest => storeBuffer (m.set off b) (off + 1) rest

/-- A posted write to an aperture (R382): to the doorbell it submits; one of another size or alignment is discarded and counted. -/
def State.aperture (s : State) (f off n : Nat) (x : Word) : State :=
  if ! s.fnMapped f ∨ 4096 ≤ off then s
  else if (n ≠ 4 ∧ n ≠ 8) ∨ off % n ≠ 0 then s.modFn f fun y => { y with discarded := y.discarded + 1 }
  else if off = 0xFF8 ∧ n = 8 then s.submit f (s.bufferFrame f) none x
  else s.modFn f fun y => { y with buffer := storeBuffer y.buffer off (toBytes n x.toNat) }

/-- APERTURE_WRITE (R382). -/
def execApertureWrite (fn offset bytes : Nat) (x : Word) (s : State) : Host.Outcome State Fault Refusal :=
  .next (s.aperture fn offset bytes x)

/-- What a read of the aperture returns: all ones (R382). -/
def apertureRead (n : Nat) : List Byte := List.replicate n 0xFF

/-- APERTURE_READ (R382): the read is answered, and nothing else changes. -/
def execApertureRead (fn _offset bytes : Nat) (s : State) : Host.Outcome State Fault Refusal :=
  .next (if s.fnMapped fn then s.modFn fn fun x => { x with returned := x.returned ++ [apertureRead bytes] } else s)

/-- DOORBELL (R383). -/
def execDoorbell (fn : Nat) (x : Word) (s : State) : Host.Outcome State Fault Refusal := .next (s.aperture fn 0xFF8 8 x)

/-- PURLIN_FRAME (R388): a peer's frame that arrives on a link, of the 18 of the port dies (R1), addressed to this pod node, is submitted to a
partition's function. -/
def execPurlinFrame (port : PurlinPort) (frame : List Byte) (x : Word) (s : State) : Host.Outcome State Fault Refusal :=
  .next (if port.node ≠ s.sys.node ∨ port.fn = 0 ∨ 18 ≤ port.link ∨ ! s.fnMapped port.fn then s
    else s.submit port.fn ((frame ++ List.replicate 4096 0).take 4096) (some port.link) x)

/-! ### Fault records by FREC (R387, R409) -/

/-- Posts the record of a 64-byte image: types 1, 2 and 4 go to PF0; the hardware supplies SEQ. A request of type 3 is outstanding
from then on (R410). -/
def State.postRecord (s : State) (f : Nat) (img : List Byte) : State :=
  let type := imgAt img 0 1
  let dest := if type = 1 ∨ type = 2 ∨ type = 4 then 0 else f
  let s := s.postFault dest type (imgAt img 1 1) (img.drop 4)
  if type = 3 ∧ f ≠ 0 then
    s.modPart (fnPart f) fun p => { p with emuAsked := p.emuAsked ++ [BitVec.ofNat 32 (imgAt img 4 4)] }
  else s

end Sys2Proof.Machine
end

