-- ==== Sys2Proof/Machine/Gcm.lean ====
section
/-! DEFINITION. The cipher that R390 names for the bounce pages of a sealed partition: AES-256 in Galois counter mode. The spec names the
cipher and gives none of its steps: they are the published standards' (PRESUMED, log 9). The keys that a session yields stay open (Config). -/

namespace Sys2Proof.Machine

/-! ### AES-256 -/

/-- Twice an element of the field of 256 elements. -/
def aesDouble (x : Byte) : Byte := (x <<< 1) ^^^ (if x.getLsbD 7 then 0x1B else 0)

/-- The product of two elements, over the low `n` bits of the second. -/
def aesMul : (n : Nat) → (x y acc : Byte) → Byte
  | 0, _, _, acc => acc
  | n + 1, x, y, acc => aesMul n (aesDouble x) (y >>> 1) (if y.getLsbD 0 then acc ^^^ x else acc)

/-- The 254th power, which is the inverse, and 0 of 0: the product of the powers 2, 4, 8, 16, 32, 64 and 128. -/
def aesInverse (x : Byte) : Byte :=
  ((List.range 7).foldl (fun (p : Byte × Byte) _ => let q := aesMul 8 p.1 p.1 0; (q, aesMul 8 p.2 q 0)) (x, 1)).2

/-- The substitution of a byte. -/
def aesSub (x : Byte) : Byte :=
  let y := aesInverse x
  y ^^^ y.rotateLeft 1 ^^^ y.rotateLeft 2 ^^^ y.rotateLeft 3 ^^^ y.rotateLeft 4 ^^^ 0x63

/-- The sum of two byte strings. -/
def aesAdd (a b : List Byte) : List Byte := List.zipWith (· ^^^ ·) a b

/-- The key's words from the last eight on, oldest first: `n` more, the next being number `i`, with the round constant `c`. -/
def aesExpand : (n i : Nat) → (c : Byte) → (last : List (List Byte)) → List (List Byte)
  | 0, _, _, _ => []
  | n + 1, i, c, last =>
    let x := last.getD 7 []
    let y :=
      if i % 8 = 0 then aesAdd (((x.drop 1) ++ x.take 1).map aesSub) [c, 0, 0, 0]
      else if i % 8 = 4 then x.map aesSub
      else x
    let w := aesAdd (last.getD 0 []) y
    w :: aesExpand n (i + 1) (if i % 8 = 0 then aesDouble c else c) (last.drop 1 ++ [w])

/-- The fifteen round keys, 16 bytes each. -/
def aesKeys (key : BitVec 256) : List (List Byte) :=
  let bytes := toBigEndian 32 key.toNat
  let first := (List.range 8).map fun i => (bytes.drop (4 * i)).take 4
  let all := (first ++ aesExpand 52 8 1 first).flatten
  (List.range 15).map fun i => (all.drop (16 * i)).take 16

/-- The rows of a block, its columns in sequence, are turned: row r by r places. -/
def aesShift (b : List Byte) : List Byte := (List.range 16).map fun i => b.getD ((i + 4 * (i % 4)) % 16) 0

/-- Each column is multiplied by the fixed matrix. -/
def aesMix (b : List Byte) : List Byte :=
  (List.range 16).map fun i =>
    let at_ (k : Nat) : Byte := b.getD (i / 4 * 4 + (i + k) % 4) 0
    aesDouble (at_ 0) ^^^ aesDouble (at_ 1) ^^^ at_ 1 ^^^ at_ 2 ^^^ at_ 3

/-- The rounds after the first key is added; the last one mixes no columns. -/
def aesRounds : List (List Byte) → List Byte → List Byte
  | [], b => b
  | [k], b => aesAdd (aesShift (b.map aesSub)) k
  | k :: ks, b => aesRounds ks (aesAdd (aesMix (aesShift (b.map aesSub))) k)

/-- The encryption of a block of 16 bytes, a big-endian number, under round keys. -/
def aesBlock (keys : List (List Byte)) (x : Nat) : Nat :=
  bigEndian (aesRounds (keys.drop 1) (aesAdd (toBigEndian 16 x) (keys.getD 0 [])))

/-! ### Galois counter mode -/

/-- The product of two hash blocks, over the high `n` bits of the first that are still to come; the leftmost bit is the unit. -/
def gcmMul : (n : Nat) → (x v z : BitVec 128) → BitVec 128
  | 0, _, _, z => z
  | n + 1, x, v, z =>
    gcmMul n x ((v >>> 1) ^^^ (if v.getLsbD 0 then BitVec.ofNat 128 (0xE1 * 2 ^ 120) else 0)) (if x.getLsbD n then z ^^^ v else z)

/-- The hash of blocks under the hash key. -/
def gcmHash (h : BitVec 128) (blocks : List Nat) : BitVec 128 :=
  blocks.foldl (fun z x => gcmMul 128 (z ^^^ BitVec.ofNat 128 x) h 0) 0

/-- The blocks of 16 bytes of a message of whole blocks, as big-endian numbers. -/
def gcmBlocks (bs : List Byte) : List Nat := (List.range (bs.length / 16)).map fun i => bigEndian ((bs.drop (16 * i)).take 16)

/-- A message of whole blocks combined with the key stream of an IV, which begins at counter 2. -/
def gcmStream (keys : List (List Byte)) (iv : BitVec 96) (bs : List Byte) : List Byte :=
  ((gcmBlocks bs).zipIdx.map fun e => toBigEndian 16 (e.1 ^^^ aesBlock keys (iv.toNat * 2 ^ 32 + (e.2 + 2)))).flatten

/-- The tag of a ciphertext of whole blocks, with no further data. -/
def gcmTag (keys : List (List Byte)) (iv : BitVec 96) (bs : List Byte) : List Byte :=
  toBigEndian 16 (aesBlock keys (iv.toNat * 2 ^ 32 + 1) ^^^
    (gcmHash (BitVec.ofNat 128 (aesBlock keys 0)) (gcmBlocks bs ++ [8 * bs.length])).toNat)

/-! ### Bounce pages (R390) -/

/-- The encryption of a page of a partition in a session, with its tag after it. -/
def sealClose (part session : Nat) (inbound : Bool) (iv : BitVec 96) (plain : List Byte) : List Byte :=
  let keys := aesKeys (Config.sealKey part session inbound)
  let c := gcmStream keys iv plain
  c ++ gcmTag keys iv c

/-- The decryption of a page and the tag after it; `none` when the tag fails. -/
def sealOpen (part session : Nat) (inbound : Bool) (iv : BitVec 96) (page : List Byte) : Option (List Byte) :=
  let keys := aesKeys (Config.sealKey part session inbound)
  let c := page.take 4096
  if gcmTag keys iv c = page.drop 4096 then some (gcmStream keys iv c) else none

end Sys2Proof.Machine
end

