-- ==== Sys2Proof/Machine/Engine.lean ====
section
/-! DEFINITION. Barrier objects (R67, R68, R180 to R182), the dependence table's releases (R287 to R292, R352), and copy commands
(R265 to R271): issue checks, starting, chunks, deliveries, suspension, completion. -/

namespace Sys2Proof.Machine

/-! ### Copy commands: their shape and issue checks -/

/-- The format C words of a copy instruction. -/
def copyForm : Instr → Option CForm
  | .cpy _ _ _ _ c => some c
  | .cpy2 _ _ _ _ c => some c
  | .cpym _ _ _ _ c => some c
  | .cpyq _ _ _ _ c => some c
  | _ => none

/-- A command owned by nothing, the default of a look-up. -/
def Owner.none : Owner :=
  { part := 0, core := 0, slot := 0, sid := 0, lnum := 0, member := false, asid := 0, super := false }

/-- The cores that a CPYM mask selects: bit i selects core i[1:0] of quad (x0 + i[2], y0 + i[3]) (R268). -/
def peers (core : Nat) (mask : BitVec 16) : List Nat :=
  let q := core / 4 % 64
  let x0 := q % 8 / 2 * 2
  let y0 := q / 8 / 2 * 2
  (setBits mask).map fun i => core / 256 * 256 + ((y0 + i / 8) * 8 + x0 + i / 4 % 2) * 4 + i % 4

/-- The cores whose local stores a command names by a mask: a CPYM's. -/
def maskTargets (core : Nat) : Instr → List Nat
  | .cpym _ _ _ _ f => peers core f.xf
  | _ => []

/-- A copy command that has not started. -/
def CopyCmd.of (i : Instr) (a b c : Word) (o : Owner) (t : TokenDest) (dtask : Option Nat) : CopyCmd where
  index := 0
  instr := i
  a := a
  b := b
  c := c
  owner := o
  token := t
  done := 0
  dropped := false
  susp := Option.none
  quiesced := false
  dtask := dtask
  waiting := false
  buf := Option.none
  store := o.core
  targets := maskTargets o.core i

/-- The ring that a source value names (R270). -/
def ringSource (b : Word) : Option Nat := if field b 3 61 = 0xFF00000000000000 / 8 then some (field b 0 3) else none

/-- The offset of the barrier that a command names (Table 9.6). -/
def CForm.barrier (c : CForm) : Nat := 16 * c.boff.toNat

/-- The fault of an issue check: cause and XVALUE. -/
abbrev IssueFault := Option (BitVec 8 × Word)

/-- Whether a length fits a ring of slots (R270). -/
def badRingLength (r : RingDesc) (n : Nat) : Bool := n == 0 || n % r.slotBytes != 0

/-- The issue checks of a copy (Table 12.9, R269, R270); a register number names the operand refused. When a check of the form and that of
BOFF both fail, the form's is taken: the spec gives no order (DESIGN CHOICE, log 72). -/
def copyCheck (s : State) (core : Nat) (i : Instr) (a b c : Word) : IssueFault :=
  let off : IssueFault := match copyForm i with
    | some f => if f.bv ∧ programEnd ≤ CForm.barrier f then some (Cause.protect, BitVec.ofNat 64 (CForm.barrier f)) else none
    | none => none
  let long (r : GReg) : IssueFault := if 2 ^ 32 ≤ c.toNat then some (Cause.illegal, regValue r) else none
  let own : IssueFault := match i with
    | .cpy _ _ _ rc _ =>
      match long rc, ringSource b with
      | some f, _ => some f
      | none, some n =>
        let r := s.ring core n
        if ! r.valid ∨ r.ckind ≠ 1 ∨ badRingLength r c.toNat then some (Cause.ring, BitVec.ofNat 64 n) else none
      | none, none => none
    | .cpy2 _ _ _ rc f =>
      if c = 0 ∨ 2 ^ 32 ≤ f.yf.toNat * c.toNat then some (Cause.illegal, regValue rc) else none
    | .cpym _ ra _ rc f =>
      match long rc with
      | some e => some e
      | none =>
        if field a 19 45 ≠ 0 then some (Cause.illegal, regValue ra)
        else if programEnd < a.toNat + c.toNat then
          some (Cause.protect, if a.toNat < programEnd then BitVec.ofNat 64 programEnd else a)
        else if (peers core f.xf).any fun p => s.partOf p != s.partOf core then some (Cause.protect, a)
        else none
    | .cpyq _ q _ _ _ =>
      let r := s.ring core q.toNat
      if ! r.valid ∨ r.pkind ≠ 1 ∨ badRingLength r c.toNat then some (Cause.ring, zx64 q) else none
    | _ => none
  match own with
  | some e => some e
  | none => off

/-- The bytes of a copy. -/
def CopyCmd.total (k : CopyCmd) : Nat :=
  match k.instr with
  | .cpy2 _ _ _ _ f => f.yf.toNat * k.c.toNat
  | _ => k.c.toNat

/-- The slot size of the ring that a copy reads or writes, if it has one. -/
def CopyCmd.ring (k : CopyCmd) : Option Nat :=
  match k.instr with
  | .cpy _ _ _ _ _ => ringSource k.b
  | .cpyq _ q _ _ _ => some q.toNat
  | _ => none

/-- The smaller of two numbers. -/
def least (a b : Nat) : Nat := if a < b then a else b

/-- The source address of a chunk. -/
def CopyCmd.source (k : CopyCmd) : Word :=
  match k.instr with
  | .cpy2 _ _ _ _ f => k.b + BitVec.ofNat 64 (k.done / k.c.toNat * f.sstr.toNat + k.done % k.c.toNat)
  | _ => k.b + BitVec.ofNat 64 k.done

/-- The bytes of the next chunk: to a multiple of 512, the end of a row or slot, or the end of the data (R266); in a sealed partition to the end
of a source page too, where a failed tag suspends the command (R390, log 24). -/
def CopyCmd.chunk (k : CopyCmd) (s : State) : Nat :=
  let n := least (512 - k.done % 512) (k.total - k.done)
  let n := if (s.partAt k.owner.part).sealed then least n (4096 - k.source.toNat % 4096) else n
  match k.instr, k.ring with
  | .cpy2 _ _ _ _ _, _ => least n (k.c.toNat - k.done % k.c.toNat)
  | _, some q =>
    let sb := (s.ring k.store q).slotBytes
    least n (sb - k.done % sb)
  | _, none => n

/-! ### Tokens and completion -/

/-- The owner record of the issuing strand. -/
def State.owner (s : State) : Owner :=
  let x := s.cur
  { part := s.myPart, core := s.core, slot := s.slot, sid := x.sid, lnum := x.lnum, member := x.member, asid := s.me.asid
    super := s.slot == 15 }

/-- The handle of a copy (Table 12.7). -/
def copyHandle (index : Nat) : BitVec 16 := BitVec.ofNat 16 (index % 64)

/-- Marks a token register pending (R265). -/
def markPending (r : GReg) : Exec Unit := modCur fun x => { x with pend := setBit x.pend r.toNat true }

/-- The kick of a command with a token register (R265): the register must hold no joint, an earlier token must have been written,
and every earlier access is complete (R109). -/
def kickToken (rd : GReg) : Exec Unit := do
  checkDest rd
  scoreboard [rd]
  releaseNow

/-- The lowest index that no command of a quad uses. -/
def Quad.freeIndex (q : Quad) : Nat :=
  ((List.range (q.copies.length + 1)).find? fun i => ! q.copies.any fun c => c.index == i).getD q.copies.length

/-- The ranges that a copy reads or writes by address, row by row. -/
def CopyCmd.spans (k : CopyCmd) : List (Word × Nat) :=
  match k.instr with
  | .cpy2 _ _ _ _ f =>
    (List.range f.yf.toNat).flatMap fun i =>
      [(k.a + BitVec.ofNat 64 (i * f.dstr.toNat), k.c.toNat), (k.b + BitVec.ofNat 64 (i * f.sstr.toNat), k.c.toNat)]
  | .cpy _ _ _ _ _ => (k.a, k.c.toNat) :: if (ringSource k.b).isSome then [] else [(k.b, k.c.toNat)]
  | _ => [(k.b, k.c.toNat)]

/-- Whether a range of addresses meets the window of a core's tenant (R27). -/
def State.meetsWindow (s : State) (part core : Nat) (r : Word × Nat) : Bool :=
  (s.partAt part).vcnMap.any fun e =>
    e.2 == core && decide (r.1.toNat < windowBase + (e.1 + 1) * 2 ^ 19 ∧ windowBase + e.1 * 2 ^ 19 < r.1.toNat + r.2)

/-- The copies that a swap suspends: issued by a strand of either core, or with a source or destination in either's store (R359). -/
def State.copyTouches (s : State) (p q : Nat) (k : CopyCmd) : Bool :=
  ((k.owner.core :: k.store :: k.targets).any fun c => c == p || c == q)
    || k.spans.any fun r => s.meetsWindow k.owner.part p r || s.meetsWindow k.owner.part q r

/-- Puts a command into a quad's copy engine; one that a swap in progress touches is suspended at once (R359). -/
def State.startCopy (s : State) (quad : Nat) (k : CopyCmd) : State :=
  let i := (s.quadAt quad).freeIndex
  let held := s.dies.any fun d => d.2.swaps.any fun w => s.copyTouches w.p w.q k
  (s.modQuad quad fun q => { q with copies := q.copies ++ [{ k with index := i, quiesced := held }] }).post (.copyChunkDone quad i)

/-- The command of a quad with an index. -/
def Quad.copy (q : Quad) (i : Nat) : Option CopyCmd := q.copies.find? fun c => c.index == i

/-- Replaces a command of a quad. -/
def State.setCopy (s : State) (quad : Nat) (k : CopyCmd) : State :=
  s.modQuad quad fun q => { q with copies := q.copies.map fun c => if c.index = k.index then k else c }

/-- The end of a command: the mailbox release, then the token or completion word (R109, R266), and the retirement of the entry that
released it (R291). -/
def State.endCopy (s : State) (quad : Nat) (k : CopyCmd) (v : Word) : State :=
  let s := (s.dropEngineHost k.owner.part (copyUnit quad k.index)).modQuad quad fun q =>
    { q with copies := q.copies.filter fun c => c.index != k.index }
  (s.complete k.owner k.token v).retireTask k.dtask

/-- A fault suspends the command: its offset goes to the supervisor of its core, with the mark of a malformed entry (R267, R19). It holds no
count of an access to the host. -/
def State.suspendCopy (s : State) (quad : Nat) (k : CopyCmd) (cause : BitVec 8) (mal : Bool) : State :=
  ((s.dropEngineHost k.owner.part (copyUnit quad k.index)).setCopy quad { k with susp := some cause, buf := Option.none }).postSuspend
    k.owner.core k.owner.slot (copyHandle k.index) cause mal k.done

/-- Starts the command of a 64-byte image (Table 12.6): one that fails a check writes that check's cause to its completion word, and a copy of
no bytes completes at once. R264 names no cause for a non-zero fd or non-zero last bytes, and no outcome for a completion word that is not
8-aligned or not in the program range: the model writes ILLEGAL for the first and nothing for the second (DESIGN CHOICE, log 73). -/
def State.startImage (s : State) (quad : Nat) (img : List Byte) (o : Owner) (dtask : Option Nat) : State :=
  let w := imgAt img 0x28 8
  let a := BitVec.ofNat 64 (imgAt img 0x10 8)
  let b := BitVec.ofNat 64 (imgAt img 0x18 8)
  let c := BitVec.ofNat 64 (imgAt img 0x20 8)
  let wordOk := w % 8 == 0 && decide (w + 8 ≤ programEnd)
  let fail (code : BitVec 8) : State :=
    (if wordOk then s.complete o (.word o.core w) (code.zeroExtend 64) else s).retireTask dtask
  match decodeBytes (img.take 16) with
  | .error .length => fail Cause.length
  | .error _ => fail Cause.illegal
  | .ok i =>
    let rd : Nat := match i with
      | .cpy r _ _ _ _ => r.toNat
      | .cpy2 r _ _ _ _ => r.toNat
      | .cpym r _ _ _ _ => r.toNat
      | .cpyq r _ _ _ _ => r.toNat
      | _ => 16
    if rd ≠ 0 ∨ imgAt img 0x30 16 ≠ 0 ∨ w % 8 ≠ 0 then fail Cause.illegal
    else if ! wordOk then fail Cause.protect
    else
      match copyCheck s o.core i a b c with
      | some (code, _) => fail code
      | none =>
        if o.member ∧ ((s.partAt o.part).liveLaunch o.lnum).isNone then fail ((s.partAt o.part).childOutcome o.lnum)
        else
          let k := CopyCmd.of i a b c o (.word o.core w) dtask
          if k.total = 0 then (s.complete o k.token 0).retireTask dtask else s.startCopy quad k

/-! ### The dependence table's releases (R291, R352) -/

/-- An entry of a quad's table. -/
def Quad.depAt (q : Quad) (i : Nat) : DepEntry := q.dep.get State.retireTask.default i

/-- Replaces an entry. -/
def State.setDep (s : State) (quad i : Nat) (e : DepEntry) : State := s.modQuad quad fun q => { q with dep := q.dep.set i e }

/-- Whether a range of a local store is sealed against what a strand's armed action or release reads there (R298). -/
def State.sealedFrom (s : State) (o : Owner) (core off n : Nat) : Bool := ! o.super && ((s.coreAt core).firstSealed off n).isSome

/-- Releases an entry: its record is pushed as a task, or its image is started (R291). One in a sealed sector is refused, and the entry
retires without it: the spec names no other outcome (R298; DESIGN CHOICE, log 74). -/
def State.releaseTask (s : State) (quad i : Nat) : State :=
  let e := (s.quadAt quad).depAt i
  let s := s.setDep quad i { e with state := .released }
  let o := e.owner
  if s.sealedFrom o o.core e.off (if e.image then 64 else 32) then s.retireTask (some (256 * quad + i))
  else if e.image then s.startImage quad (Memory.readList s.mem (lsKey o.core e.off) 64) o (some (256 * quad + i))
  else
    let r := Rec.unpack (BitVec.ofNat 256 (s.load (lsKey o.core e.off) 32))
    s.pushOrWait o.core
      { (r.pushedBy o.member o.lnum) with
        arg := BitVec.ofNat 32 e.name.toNat, tvcn := BitVec.ofNat 11 (field e.name 32 11), tk := true }

/-- Releases an entry that waits for nothing any more. -/
def State.releaseIfReady (s : State) (quad i : Nat) : State :=
  let e := (s.quadAt quad).depAt i
  if e.state = .waiting ∧ e.waits = [] ∧ ! e.hold then s.releaseTask quad i else s

/-- Re-examines the entries of a table after an entry has retired, which then is free (R292). -/
def State.retireEntry (s : State) (quad i : Nat) : State :=
  let s := s.modQuad quad fun q =>
    { q with dep := (q.dep.filter fun e => e.1 != i).map fun e => (e.1, { e.2 with waits := e.2.waits.filter (· != i) }) }
  ((s.quadAt quad).dep.map (·.1)).foldl (fun t j => t.releaseIfReady quad j) s

/-- Frees the retired entries of a quad's table. -/
def State.sweepDep (s : State) (quad : Nat) : State :=
  (((s.quadAt quad).dep.filter fun e => e.2.state == .retired).map (·.1)).foldl (fun t i => t.retireEntry quad i) s

/-- An armed release of an entry (R352): it has effect only on an entry that waits with H = 1. -/
def State.satisfyHold (s : State) (quad i : Nat) : State :=
  let e := (s.quadAt quad).depAt i
  if e.state = .waiting ∧ e.hold then (s.setDep quad i { e with hold := false }).releaseIfReady quad i else s

/-! ### The deferred queue (R68) -/

/-- The local-store key of entry `i` of a quad's deferred queue (Table 2.4). -/
def deferredKey (quad i : Nat) : Nat := lsKey (quad * 4) (0x78100 + 16 * i)

/-- An entry's image. -/
def State.deferredAt (s : State) (quad i : Nat) : BitVec 128 := BitVec.ofNat 128 (s.load (deferredKey quad i) 16)

/-- Whether an entry is valid and names a barrier. -/
def deferredFor (x : BitVec 128) (core off : Nat) : Bool :=
  field x 96 32 != 0 && field x 21 2 == core % 4 && field x 0 19 == off

/-- The entries of a quad's queue that are free. -/
def State.deferredRoom (s : State) (quad : Nat) : List Nat :=
  (List.range 16).filter fun i => field (s.deferredAt quad i) 96 32 == 0

/-- Parks a count for a later phase in the lowest free entry (DESIGN CHOICE, log 83); false while the queue is full. -/
def State.park (s : State) (core off phase n : Nat) : State × Bool :=
  let quad := core / 4
  match s.deferredRoom quad with
  | [] => (s, false)
  | i :: _ => (s.store (deferredKey quad i) 16 (n * 2 ^ 96 + phase * 2 ^ 52 + core % 4 * 2 ^ 21 + off), true)

/-- Removes the entries of a barrier for which a test holds; the bytes they held. -/
def State.unpark (s : State) (core off : Nat) (f : BitVec 128 → Bool) : State × Nat :=
  (List.range 16).foldl
    (fun (acc : State × Nat) i =>
      let x := acc.1.deferredAt (core / 4) i
      if deferredFor x core off ∧ f x then (acc.1.store (deferredKey (core / 4) i) 16 0, acc.2 + field x 96 32) else acc)
    (s, 0)

/-! ### Barrier objects (Table 2.10, R180, R181) -/

/-- The first word of a barrier object. -/
def State.barWord (s : State) (core off : Nat) : Word := BitVec.ofNat 64 (s.load (lsKey core off) 8)
/-- COUNT. -/
def State.barCount (s : State) (core off : Nat) : Word := BitVec.ofNat 64 (s.load (lsKey core off + 8) 8)
/-- PHASE. -/
def barPhase (w : Word) : Nat := field w 0 12
/-- PEND. -/
def barPend (w : Word) : Nat := field w 12 16
/-- RELOAD. -/
def barReload (w : Word) : Nat := field w 28 16
/-- Whether a must-be-zero bit of the object is set. -/
def barMalformed (w : Word) : Bool := field w 45 19 != 0

/-- Writes the object. -/
def State.setBar (s : State) (core off : Nat) (w count : Word) : State :=
  (s.store (lsKey core off) 8 w.toNat).store (lsKey core off + 8) 8 count.toNat

/-- BARRIER_OVERRUN, when the object asks for it (R181). -/
def State.overrun (s : State) (core off : Nat) (w : Word) : State :=
  if bit w 44 then s.postEvent core Cause.barrierOverrun (BitVec.ofNat 64 off) else s

/-- An armed action (Table 12.5), for an entry that belongs to a core; a record or image in a sealed sector is refused, and nothing is pushed
or started (R298; log 74). -/
def State.fire (s : State) (core : Nat) (a : Armed) : State :=
  let o := { a.owner with core := core }
  if a.action ≠ 2 ∧ s.sealedFrom o core a.arg.toNat (if a.action = 0 then 32 else 64) then s
  else if a.action = 0 then
    let r := Rec.unpack (BitVec.ofNat 256 (s.load (lsKey core a.arg.toNat) 32))
    s.pushOrWait core (r.pushedBy o.member o.lnum)
  else if a.action = 1 then s.startImage (core / 4) (Memory.readList s.mem (lsKey core a.arg.toNat) 64) o none
  else s.satisfyHold (core / 4) (field a.arg 0 8)

/-- Fires the armed entries of a barrier for the phase it has reached (R182). -/
def State.fireArmed (s : State) (core off phase : Nat) : State :=
  let due (a : Armed) : Bool := a.off == off && a.phase.toNat == phase
  let dues := (s.coreAt core).armed.filter due
  dues.foldl (fun t a => t.fire core a) (s.modCore core fun c => { c with armed := c.armed.filter fun a => ! due a })

/-- The completion of the open phase: PEND takes RELOAD, PHASE moves on, the counts parked for it are applied (R180). -/
def State.completePhase (s : State) (core off : Nat) (w : Word) : State :=
  let phase := (barPhase w + 1) % 4096
  let w := setField (setField w 12 16 (barReload w)) 0 12 phase
  let (s, n) := s.unpark core off fun x => field x 52 12 == phase
  let count : Word := 0 - BitVec.ofNat 64 n
  let s := s.setBar core off w count
  let s := if barPend w = 0 ∧ n ≠ 0 then s.overrun core off w else s
  s.fireArmed core off phase

/-- An update of a well-formed object, with its completion check and overrun (R180, R181, R258). -/
def State.barUpdate (s : State) (core off : Nat) (pend : Nat) (count : Word) : State :=
  let w := s.barWord core off
  let was := barPend w == 0 && (s.barCount core off).slt 0
  let w := setField w 12 16 pend
  if pend = 0 ∧ count = 0 then (s.setBar core off w count).completePhase core off w
  else
    let s := s.setBar core off w count
    if pend = 0 ∧ count.slt 0 ∧ ! was then s.overrun core off w else s

/-- Whether a barrier object takes no delivery: a must-be-zero bit is set, or its sector is sealed against a user's command
(R269, R298). -/
def State.barRefuses (s : State) (core off : Nat) (super : Bool) : Bool :=
  barMalformed (s.barWord core off) || (! super && ((s.coreAt core).firstSealed off 16).isSome)

/-- Delivers a count to one core's barrier (R266): the state, and whether the count was dropped. -/
def State.deliver (s : State) (core off phase n : Nat) (super : Bool) : State × Bool :=
  if s.barRefuses core off super then (s, true)
  else
    let w := s.barWord core off
    let d := (phase + 4096 - barPhase w) % 4096
    if d = 0 then (s.barUpdate core off (barPend w) (s.barCount core off - BitVec.ofNat 64 n), false)
    else if d ≤ 2047 then ((s.park core off phase n).1, false)
    else (s, true)

/-- Whether a delivery would have to park a count. -/
def State.wouldPark (s : State) (core off phase : Nat) (super : Bool) : Bool :=
  let d := (phase + 4096 - barPhase (s.barWord core off)) % 4096
  ! s.barRefuses core off super && decide (1 ≤ d ∧ d ≤ 2047)

/-- Whether every quad that must park a count has room for it. -/
def State.roomFor (s : State) (cores : List Nat) (off phase : Nat) (super : Bool) : Bool :=
  let parking := cores.filter fun c => s.wouldPark c off phase super
  parking.all fun c => decide ((parking.filter fun d => d / 4 == c / 4).length ≤ (s.deferredRoom (c / 4)).length)

/-! ### Running a copy (R266) -/

/-- The core whose barrier a destination address names: the core of its local store, else the issuing core (R269). -/
def State.barrierCore (s : State) (ag : Agent) (va : Word) : Nat :=
  let a := va.toNat
  if windowBase ≤ a ∧ a < windowBase + 2 ^ 30 then (s.vcnCore ag.part (a / 2 ^ 19 % 2048)).getD ag.core else ag.core

/-- The destination address of a chunk. -/
def CopyCmd.dest (k : CopyCmd) : Word :=
  match k.instr with
  | .cpy2 _ _ _ _ f => k.a + BitVec.ofNat 64 (k.done / k.c.toNat * f.dstr.toNat + k.done % k.c.toNat)
  | _ => k.a + BitVec.ofNat 64 k.done

/-- The address of a slot's byte in the own-store alias. -/
def aliasAddr (off : Nat) : Word := BitVec.ofNat 64 (aliasBase + off)

/-- The address of a byte of the local store that a copy's own-store operands name: in the alias, or through the window of a store that a swap has
moved away from the strand (R360). -/
def CopyCmd.ownAddr (k : CopyCmd) (s : State) (off : Nat) : Word :=
  if k.store = k.owner.core then aliasAddr off else windowAt (s.vcnOf k.store) + BitVec.ofNat 64 off

/-! #### Bounce pages of a sealed partition (R390) -/

/-- The IV of a bounce page: its index, then the use count. -/
def Bounce.iv (b : Bounce) : BitVec 96 := BitVec.ofNat 96 (b.index * 2 ^ 32 + b.uses % 2 ^ 32)

/-- The bytes of a piece of a sealed partition's source: a bounce page and its tag are read from the host and the page is decrypted; a failed tag
is BUS_ERROR. A piece `i` has three numbers: its own bytes, its page and its tag. -/
def sealedPiece (ag : Agent) (i : Nat) (va : Word) (n : Nat) : Exec (List Byte) := do
  if (← get).sentPiece ag (3 * i + 1) || (← get).sentPiece ag (3 * i + 2) then stallOrFail ag va Cause.bus
  match ← resolve ag .load va n with
  | .host ua _ => do
    match (← get).bounce ag .load ua.toNat with
    | none => trapIn Cause.protect va
    | some b => do
      let page ← hostRequest ag (BitVec.ofNat 64 b.page) va 4096 (3 * i + 1) none Cause.bus (injectHost ag false 4096)
      let tag ← hostRequest ag (BitVec.ofNat 64 b.tagAt) va 16 (3 * i + 2) none Cause.bus (injectHost ag false 16)
      match sealOpen ag.part ((← get).partAt ag.part).session true b.iv (page ++ tag) with
      | none => trapIn Cause.bus va
      | some plain => return (plain.drop (ua.toNat % 4096)).take n
  | p => return toBytes n (← readPlace ag n p)

/-- Reads the pieces of a sealed partition's copy; a piece that must wait leaves those before it as they have been read. -/
def sealedRead (ag : Agent) : (i : Nat) → List (Word × Nat) → Exec (List Byte)
  | _, [] => pure []
  | i, (va, n) :: rest => do
    let x ← match ((← get).progOf ag).got.find (3 * i) with
      | some bs => pure bs
      | none => do
        let bs ← sealedPiece ag i va n
        upd fun s => s.notePiece ag (3 * i) bs
        pure bs
    let xs ← sealedRead ag (i + 1) rest
    return x ++ xs

/-- The pages of inbound windows that a written chunk has read to their ends have been used once more (log 24). -/
def usePages (ag : Agent) : List (Word × Nat) → State → State
  | [], s => s
  | (va, n) :: rest, s =>
    let s := match resolve ag .load va n s with
      | .ok (.host ua _, _) =>
        match s.bounce ag .load ua.toNat with
        | some b =>
          if (ua.toNat + n) % 4096 = 0 then
            s.modPart ag.part fun p => { p with bounceIn := p.bounceIn.map (·.use b) }
          else s
        | none => s
      | _ => s
    usePages ag rest s

/-- Writes a piece of a sealed partition's copy: a page of an outbound window is encrypted anew, under its next use count, with its new bytes. -/
def sealedStore (ag : Agent) (i : Nat) (va : Word) (bs : List Byte) : Exec Unit := do
  match ← resolve ag .store va bs.length with
  | .host ua _ =>
    match (← get).bounce ag .store ua.toNat with
    | none => trapIn Cause.protect va
    | some b =>
      let ta ← hostResolve ag (BitVec.ofNat 64 b.page) va 4096 (3 * i + 1) false true
      let tt ← hostResolve ag (BitVec.ofNat 64 b.tagAt) va 16 (3 * i + 2) false true
      injectHost ag true 4112
      let s ← get
      let session := (s.partAt ag.part).session
      let old := (sealOpen ag.part session false b.iv (Memory.readList s.mem (hostKey ta) 4096 ++ Memory.readList s.mem (hostKey tt) 16)).getD
        (List.replicate 4096 0)
      let o := ua.toNat % 4096
      let new := sealClose ag.part session false { b with uses := b.uses + 1 }.iv (old.take o ++ bs ++ old.drop (o + bs.length))
      upd fun s => ((s.storeBytes (hostKey ta) (new.take 4096)).storeBytes (hostKey tt) ((new.drop 4096).take 16)).modPart ag.part fun p =>
        { p with bounceOut := p.bounceOut.map (·.use b) }
  | p => writePlace ag 0 bs p

/-- Writes the pieces of a sealed partition's copy in order; a piece that must wait leaves those before it written. -/
def sealedWrite (ag : Agent) : (i : Nat) → List (Word × Nat) → List Byte → Exec Unit
  | _, [], _ => pure ()
  | i, (va, n) :: rest, bs => do
    if ((← get).progOf ag).stored ≤ i then
      sealedStore ag i va (bs.take n)
      upd fun s => s.setProg ag { (s.progOf ag) with stored := i + 1 }
    sealedWrite ag (i + 1) rest (bs.drop n)

/-- Whether a piece of a source lies in an inbound window. -/
def inbound (ag : Agent) : List (Word × Nat) → Exec Bool
  | [] => pure false
  | (va, n) :: rest => do
    match ← resolve ag .load va n with
    | .host _ _ => return true
    | _ => inbound ag rest

/-- The destination of an inbound copy must be sealed: S = 1 on every page of it. -/
def sealedDest (ag : Agent) : List (Word × Nat) → Exec Unit
  | [] => pure ()
  | (va, n) :: rest => do
    match ← resolve ag .store va n with
    | .phys _ e => if ! bit e 7 then trapIn Cause.protect va
    | _ => trapIn Cause.protect va
    sealedDest ag rest

/-- A copy command as an agent. -/
def State.copyAgent (s : State) (quad : Nat) (k : CopyCmd) : Agent :=
  { s.agentOf k.owner with copy := true, unit := copyUnit quad k.index }

/-- An inbound copy writes sealed pages only. -/
def inboundCheck (ag : Agent) (k : CopyCmd) (n : Nat) : Exec Unit := do
  let s ← get
  if (s.partAt ag.part).sealed && (ringSource k.b).isNone then
    let b ← inbound ag (pieces k.source n)
    if b then
      match k.instr with
      | .cpym _ _ _ _ _ => trapIn Cause.protect k.a
      | .cpyq _ _ _ _ _ => trapIn Cause.protect 0
      | _ => sealedDest ag (pieces k.dest n)

/-- Reads a chunk's source: memory, or the slot at TAIL (R63, R270). -/
def copyRead (ag : Agent) (k : CopyCmd) (n : Nat) : Exec (List Byte) := do
  let s ← get
  match k.instr, ringSource k.b with
  | .cpy _ _ _ _ _, some q =>
    let r := s.ring k.store q
    if r.filled = 0 then stall .memory
    readBytes ag .load (k.ownAddr s (r.slotOff r.tail + k.done % r.slotBytes)) n
  | _, _ =>
    if (s.partAt ag.part).sealed then
      let bs ← sealedRead ag 0 (pieces k.source n)
      endAccess ag
      return bs
    else readBytes ag .load k.source n

/-- A source slot that has been read whole is freed (R270), and the bounce pages that have been read are used. -/
def copyFree (ag : Agent) (k : CopyCmd) (n : Nat) : Exec Unit := do
  match k.instr, ringSource k.b with
  | .cpy _ _ _ _ _, some q =>
    let r := (← get).ring k.store q
    if (k.done + n) % r.slotBytes = 0 then upd fun s => s.setTail k.store q (r.tail + 1)
  | _, _ => if ((← get).partAt ag.part).sealed then upd (usePages ag (pieces k.source n))

/-- Writes the chunk to the local stores that a CPYM selects; one that must wait leaves those before it written. -/
def writePeers (ag : Agent) (va : Word) (off : Nat) (bs : List Byte) : (i : Nat) → List Nat → Exec Unit
  | _, [] => pure ()
  | i, p :: rest => do
    if ((← get).progOf ag).stored ≤ i then
      writePlace ag 0 bs (← reachLs ag .store va p off bs.length)
      upd fun s => s.setProg ag { (s.progOf ag) with stored := i + 1 }
    writePeers ag va off bs (i + 1) rest

/-- Writes a chunk on to every destination; a ring slot is published once it is whole (R62). -/
def copyWrite (ag : Agent) (k : CopyCmd) (bs : List Byte) : Exec Unit := do
  let s ← get
  match k.instr with
  | .cpym _ _ _ _ _ => do
    writePeers ag (k.a + BitVec.ofNat 64 k.done) (k.a.toNat + k.done) bs 0 k.targets
    endAccess ag
  | .cpyq _ q _ _ _ =>
    let r := s.ring k.store q.toNat
    if r.free = 0 then stall .memory
    writeBytes ag (k.ownAddr s (r.slotOff r.head + k.done % r.slotBytes)) bs
    if (k.done + bs.length) % r.slotBytes = 0 then upd fun s => s.setHead k.store q.toNat (r.head + 1)
  | _ =>
    if (s.partAt ag.part).sealed then
      sealedWrite ag 0 (pieces k.dest bs.length) bs
      endAccess ag
    else writeBytes ag k.dest bs

/-- The cores whose barriers a chunk of `n` bytes at the command's offset is delivered to, each with the bytes it receives (R269). -/
def CopyCmd.receivers (k : CopyCmd) (s : State) (n : Nat) : List (Nat × Nat) :=
  match k.instr with
  | .cpym _ _ _ _ _ => k.targets.map fun c => (c, n)
  | .cpyq _ _ _ _ _ => [(k.store, n)]
  | _ =>
    let ag := { s.agentOf k.owner with core := k.store }
    let m := least n (2 ^ 19 - k.dest.toNat % 2 ^ 19)
    let first := s.barrierCore ag k.dest
    let next := s.barrierCore ag (k.dest + BitVec.ofNat 64 m)
    if m = n ∨ first = next then [(first, n)] else [(first, m), (next, n - m)]

/-- After a written chunk of `n` bytes: it is delivered, DONE moves on, and the command ends or goes on. While a count finds no
room, or a user's command finds its barrier locked, the command stalls with the chunk written (R68, R168). -/
def State.advanceCopy (s : State) (quad : Nat) (k : CopyCmd) (n : Nat) : State :=
  let f := (copyForm k.instr).getD default
  let cs := k.receivers s n
  let off := CForm.barrier f
  let locked := ! k.owner.super && cs.any fun c => (s.coreAt c.1).locked off 16
  if f.bv ∧ (locked ∨ ! s.roomFor (cs.map (·.1)) off f.bph.toNat k.owner.super) then
    (s.setCopy quad { k with waiting := true }).post (.deferredQueueRoom quad)
  else
    let (s, dropped) := if f.bv then
        cs.foldl
          (fun (acc : State × Bool) c =>
            let (t, d) := acc.1.deliver c.1 off f.bph.toNat c.2 k.owner.super
            (t, acc.2 || d))
          (s, k.dropped)
      else (s, k.dropped)
    let k := { k with done := k.done + n, dropped := dropped, waiting := false }
    if k.done < k.total then (s.setCopy quad k).post (.copyChunkDone quad k.index)
    else s.endCopy quad k (tokenValue 0 (if dropped then Cause.barrier else 0))

/-- The read of a chunk, unless it has been read. -/
def copyFetch (ag : Agent) (k : CopyCmd) (n : Nat) : Exec (List Byte) :=
  match k.buf with
  | some bs => pure bs
  | none => do
    inboundCheck ag k n
    copyRead ag k n

/-- One chunk of a copy (R266): read, written, delivered. A chunk that waits stays due, keeping what it has read; one that faults suspends
the command. -/
def State.copyStep (s : State) (quad : Nat) (k : CopyCmd) : State :=
  let n := k.chunk s
  let ag := s.copyAgent quad k
  let again (t : State) : State := t.post (.copyChunkDone quad k.index)
  let fault (t : State) (c : BitVec 8) (mal : Bool) : State :=
    if ((t.quadAt quad).copy k.index).isSome then t.suspendCopy quad k c mal else t
  match copyFetch ag k n s with
  | .error (.wait _ t) => again t
  | .error (.quit t) => t
  | .error (.trap c _ mal) => fault s c mal
  | .error (.trapIn t c _ mal) => fault t c mal
  | .ok (bs, s1) =>
    match (do copyWrite ag k bs; copyFree ag k n) s1 with
    | .ok ((), t) => t.advanceCopy quad { k with buf := none } n
    | .error (.wait _ t) => again (t.setCopy quad { k with buf := some bs })
    | .error (.quit t) => t
    | .error (.trap c _ mal) => fault s1 c mal
    | .error (.trapIn t c _ mal) => fault t c mal

/-- A command beyond the 32 that an engine holds takes a number once one is free (R265). -/
def State.renumber (s : State) (quad : Nat) (k : CopyCmd) : State :=
  let i := (s.quadAt quad).freeIndex
  if i < 32 then
    (s.modQuad quad fun q => { q with copies := q.copies.map fun c => if c.index = k.index then { c with index := i } else c }).post
      (.copyChunkDone quad i)
  else s.post (.copyChunkDone quad k.index)

/-- Resumes or ends a suspended command (R271, R43). -/
def State.resumeCopy (s : State) (quad : Nat) (k : CopyCmd) (abort : Bool) : State :=
  if abort then
    let s := s.endCopy quad k (tokenValue k.done (k.susp.getD 0))
    if k.owner.member then
      match (s.partAt k.owner.part).liveLaunch k.owner.lnum with
      | some l => s.abortTag k.owner.part l.tag 0x22
      | none => s
    else s
  else
    (s.setCopy quad { k with susp := none }).post
      (if k.waiting then .deferredQueueRoom quad else .copyChunkDone quad k.index)

end Sys2Proof.Machine
end

