-- ==== Sys2Proof/Machine/Tensor.lean ====
section
/-! DEFINITION. Tensor descriptors (R335, R336), exact sums, the Hadamard transform (R217) and the truss step (R216), and the truss
planes as images (R374). -/

namespace Sys2Proof.Machine

/-! ### Descriptors (Table 14.3) -/

/-- A descriptor image. -/
abbrev Desc := BitVec 512

/-- FMT, a format code of Table 10.1. -/
def descFmt (d : Desc) : Nat := field d 384 4
/-- LAYOUT: 0 row-major, 1 bit-plane, 2 bit-packed. -/
def descLayout (d : Desc) : Nat := field d 388 2
/-- NDIM. -/
def descNdim (d : Desc) : Nat := field d 390 3
/-- DIMk. -/
def descDim (d : Desc) (k : Nat) : Nat := field d (192 + 16 * k) 16
/-- STRIDEk. -/
def descStride (d : Desc) (k : Nat) : Nat := field d (256 + 32 * k) 32
/-- BASE. -/
def descBase (d : Desc) : Nat := field d 0 64
/-- SCALE. -/
def descScale (d : Desc) : Nat := field d 64 64
/-- SEED. -/
def descSeed (d : Desc) : Word := BitVec.ofNat 64 (field d 128 64)
/-- LOGG. -/
def descLogg (d : Desc) : Nat := field d 393 4
/-- HAD. -/
def descHad (d : Desc) : Bool := bit d 397

/-- Bits of an element of a format (Table 10.1); 0 for a refused code. -/
def fmtBits (f : Nat) : Nat := [8, 16, 32, 64, 4, 3, 0, 0, 32, 16, 16, 8, 8, 4, 0, 0].getD f 0

/-- Whether a format is one of the sub-byte ones, which are scaled. -/
def fmtSub (f : Nat) : Bool := f == 4 || f == 5 || f == 13

/-- Bytes of an element of a layout-0 format. -/
def descElem (d : Desc) : Nat := fmtBits (descFmt d) / 8

/-- Whether TDSET refuses an image (R336). -/
def descRefused (d : Desc) : Bool :=
  let f := descFmt d
  let sub := fmtSub f
  let lay := descLayout d
  let n := descNdim d
  let g := descLogg d
  let inside (k : Nat) : Bool := decide (k < n)
  field d 398 114 != 0 || field d 57 7 != 0 || field d 121 7 != 0
    || fmtBits f == 0 || lay == 3
    || sub != (lay != 0)
    || n == 0 || decide (4 < n)
    || (List.range 4).any (fun k => if inside k then descDim d k == 0 else descDim d k != 0 || descStride d k != 0)
    || descStride d 0 != (if lay = 0 then descElem d else 0)
    || (lay == 1 && (descDim d 0 % 64 != 0 || (List.range 4).any fun k => k != 0 && descStride d k % 8 != 0))
    || (if f = 4 ∨ f = 5 then decide (g < 3 ∨ 7 < g) else if f = 13 then g != 5 else g != 0)
    || (descScale d == 0) == sub
    || (lay == 0 && descBase d % descElem d != 0) || (lay == 1 && descBase d % 8 != 0)

/-- The descriptor entry of a core. -/
def State.descAt (s : State) (core : Nat) (t : TReg) : Desc := (s.coreAt core).descs.get 0 t.toNat

/-- TDSET (R336): the checked image replaces the entry. -/
def execTdset (ra : GReg) (t : TReg) (s : State) : Host.Outcome State Fault Refusal :=
  runStrand (issuePlain 8 [ra] [] do
    let a ← srcG ra
    if a.toNat % 64 ≠ 0 then trap Cause.align a
    let img : Desc := BitVec.ofNat 512 (ofBytes (← readBytes (← get).me .load a 64))
    if descRefused img then trap Cause.tensor a
    upd fun s => s.modCore s.core fun c => { c with descs := c.descs.set t.toNat img }) s

/-- TDGET (R336). -/
def execTdget (ra : GReg) (t : TReg) (s : State) : Host.Outcome State Fault Refusal :=
  runStrand (issuePlain 8 [ra] [] do
    let a ← srcG ra
    let s ← get
    writeBytes s.me a (toBytes 64 (s.descAt s.core t).toNat)) s

/-- The rows of the two-dimensional view: a one-dimensional tensor is one row. -/
def descRows (d : Desc) : Nat := if descNdim d = 1 then 1 else descDim d 1

/-- The byte address of element (column, row) of a layout-0 tensor. -/
def descAddr (d : Desc) (col row : Nat) : Word :=
  BitVec.ofNat 64 (descBase d + col * descStride d 0 + row * descStride d 1)

/-! ### Element values -/

/-- The floating format of a format code. -/
def fmtOf (f : Nat) : Fmt :=
  if f = 8 then fp32 else if f = 9 then bf16 else if f = 10 then fp16 else if f = 11 then e4m3 else if f = 12 then e5m2 else e2m1

/-- An E8M0 scale (R212). -/
def e8m0 (x : Nat) : Ext := if x = 255 then .nan else .fin false 1 ((x : Int) - 127)

/-- The exact value of a weight: its code, and for a scaled format its scale (R212, R216). The spec gives no sign to the zero that a zero
code and a negative scale give: the model takes that of the product, -0 (DESIGN CHOICE, log 75). -/
def weightValue (wfmt code scale : Nat) : Ext :=
  if wfmt = 4 ∨ wfmt = 5 then (Ext.mul (Ext.ofInt (BitVec.ofNat 4 code).toInt) (bf16.value scale)).1
  else if wfmt = 13 then (Ext.mul (e2m1.value code) (e8m0 scale)).1
  else (fmtOf wfmt).value code

/-- The exact sum of values: -0 when every one is -0, else a zero sum is +0; NaN and infinities as R216 and R217 give. -/
def exactSum (xs : List Ext) : Ext := xs.foldl (fun a x => (Ext.add .rne a x).1) (.fin true 0 0)

/-! ### The Hadamard transform (R217) -/

/-- Sign(seed, k): true for -1. -/
def hadSign (seed k : Word) : Bool :=
  let x := (seed ^^^ k) * 0x9F4C2B71E5A3D86B
  let x := (x ^^^ (x >>> 32)) * 0x6A1D93C5F0B2E47D
  bit x 63

/-- Output `i` of the transform of one block of 32 whose first element has index `k0`, exact; a zero is +0. -/
def hadOutput (a : List Ext) (seed : Word) (k0 i : Nat) : Ext :=
  let terms := (a.zipIdx).map fun e =>
    let flip := popCount (BitVec.ofNat 5 (i &&& e.2)) % 2 == 1
    if flip != hadSign seed (BitVec.ofNat 64 (k0 + e.2)) then e.1.neg else e.1
  match exactSum terms with
  | .fin _ 0 e => .fin false 0 e
  | x => x

/-- The transform of a block of 32. -/
def hadBlock (a : List Ext) (seed : Word) (k0 : Nat) : List Ext := (List.range 32).map (hadOutput a seed k0)

/-! ### The truss step (R216) -/

/-- A value times 2^n. -/
def Ext.scale (x : Ext) (n : Int) : Ext :=
  match x with
  | .fin s m e => .fin s m (e + n)
  | y => y

/-- TrussStep: the activation row is given after the transform. -/
def trussStep (old : Nat) (a w : List Ext) (had : Bool) : Nat :=
  let s := exactSum ((a.zip w).map fun e => (Ext.mul e.1 e.2).1)
  let s := if had then s.scale (-5) else s
  (fp32.ofExt .rne false (Ext.add .rne (fp32.value old) s).1).1

/-! ### Planes -/

/-- W of a width code. -/
def widthOf (c : BitVec 2) : Nat := 128 * 2 ^ c.toNat

/-- Rows of the plate under a plane (R337). -/
def Plane.plateRows (p : Plane) : Nat := 32768 / widthOf p.width

/-- The width code of a weight format (R340). -/
def widthCode (wfmt : Nat) : BitVec 2 := if wfmt = 9 then 0 else if wfmt = 11 ∨ wfmt = 12 then 1 else 2

/-- Bits of a weight in a plane's cells: INT3 takes four (R374). -/
def cellBits (wfmt : Nat) : Nat := if wfmt = 5 then 4 else fmtBits wfmt

/-- The place of weight (k, n) in the cells. -/
def cellBit (wfmt k n : Nat) : Nat :=
  let w := cellBits wfmt
  16 * (128 * k + n / (16 / w)) + w * (n % (16 / w))

/-- The exact value of weight (k, n) of a plane: of a column that a load has brought beside the old ones, or of the plane's own (R340). -/
def Plane.weight (p : Plane) (k n : Nat) : Ext :=
  match p.cols.find n with
  | some c => weightValue c.fmt.toNat (c.codes.getD k 0) (c.scales.getD (k / 8) 0)
  | none =>
    let f := p.wfmt.toNat
    weightValue f (field p.cells (cellBit f k n) (cellBits f)) (field p.scales (16 * (512 * (k / 8) + n)) 16)

/-- The column of 64 weights. -/
def Plane.column (p : Plane) (n : Nat) : List Ext := (List.range 64).map fun k => p.weight k n

/-- Writes a column into the cells and scales, in the layout of its own format (R374). -/
def Plane.setColumn (p : Plane) (n : Nat) (c : LoadedColumn) : Plane :=
  let f := c.fmt.toNat
  let cells := (c.codes.zipIdx).foldl (fun (x : BitVec 131072) e => setField x (cellBit f e.2 n) (cellBits f) e.1) p.cells
  let sc := (c.scales.zipIdx).foldl (fun (x : BitVec 65536) e => setField x (16 * (512 * e.2 + n)) 16 e.1) p.scales
  { p with cells := cells, scales := sc }

/-- The cells and scales with every column that a load has brought. -/
def Plane.settled (p : Plane) : Plane := p.cols.foldl (fun q e => q.setColumn e.1 e.2) p

end Sys2Proof.Machine
end

