-- ==== Sys2Proof/Machine/Truss.lean ====
section
/-! DEFINITION. The truss: its commands, plane exchanges and row steps (R302, R337 to R347, R418), and the occurrences that carry
them out. -/

namespace Sys2Proof.Machine

/-! ### Commands -/

/-- The format T words of a truss command. -/
def trussForm : Instr → TForm
  | .lsta _ t => t
  | .mstrm _ t => t
  | .mstrmRing _ _ t => t
  | .mout _ _ t => t
  | .moutRing _ _ _ t => t
  | .mzero _ t => t
  | _ => default

/-- Whether a command streams activation rows. -/
def streamsRows : Instr → Bool
  | .mstrm _ _ => true
  | .mstrmRing _ _ _ => true
  | _ => false

/-- The ring of a command, if it uses one. -/
def trussRing : Instr → Option QReg
  | .mstrmRing _ q _ => some q
  | .moutRing _ q _ _ => some q
  | _ => none

/-- Whether a descriptor gives no two-dimensional view (R339). -/
def viewRefused (d : Desc) : Bool := descNdim d == 0 || decide (1 < descDim d 2) || decide (1 < descDim d 3)

/-- p of LSTA. -/
def lstaP (t : TForm) : Nat := field t.count 0 4

/-- LSTA's refusals (R340). -/
def lstaRefused (d : Desc) (t : TForm) : Bool :=
  let f := descFmt d
  let k := t.koff.toNat
  viewRefused d || ! [9, 11, 12, 4, 5, 13].contains f || k % 32 != 0 || (descLayout d == 1 && k % 64 != 0)
    || (lstaP t != 0 && (descLayout d != 1 || decide (fmtBits f < lstaP t)))

/-- The row bounds of a command under a plane (R342, R343). -/
def rowsRefused (p : Plane) (t : TForm) : Bool := decide (p.plateRows < t.row0.toNat + t.count.toNat)

/-- MSTRM's refusals with TENSOR (R342); the ring form uses no field of the descriptor but its format. -/
def mstrmRefused (p : Plane) (d : Desc) (t : TForm) (ring : Bool) : Bool :=
  (! ring && viewRefused d) || ! [9, 11, 12].contains (descFmt d) || descLayout d != 0 || rowsRefused p t
    || (p.had && t.koff.toNat % 32 != 0)

/-- MOUT's refusals with TENSOR (R343). -/
def moutRefused (p : Plane) (d : Desc) (t : TForm) (ring : Bool) : Bool :=
  (! ring && viewRefused d) || ! [8, 9, 10, 11, 12].contains (descFmt d) || descLayout d != 0 || rowsRefused p t

/-- Whether rows of a size do not fit the slots of a ring, or the ring has another kind (R342, R343). -/
def ringRowsRefused (r : RingDesc) (kind rowBytes count : Nat) : Bool :=
  ! r.valid || kind != 3 || rowBytes == 0 || decide (r.slotBytes < rowBytes) || r.slotBytes % rowBytes != 0
    || count % (r.slotBytes / rowBytes) != 0

/-- The issue checks of a truss command on the truss of a core: the cause and XVALUE of the first that refuses it. -/
def trussCheck (s : State) (core : Nat) (i : Instr) : IssueFault :=
  let t := trussForm i
  let d := s.descAt core t.ta
  let p := (s.coreAt core).active
  let tensor (b : Bool) : IssueFault := if b then some (Cause.tensor, 0) else none
  let ring (q : QReg) (b : Bool) : IssueFault := if b then some (Cause.ring, zx64 q) else none
  match i with
  | .lsta _ _ => tensor (lstaRefused d t)
  | .mstrm _ _ => tensor (mstrmRefused p d t false)
  | .mstrmRing _ q _ =>
    match tensor (mstrmRefused p d t true) with
    | some e => some e
    | none =>
      let r := s.ring core q.toNat
      ring q (ringRowsRefused r r.ckind (64 * descElem d) t.count.toNat)
  | .mout _ _ _ => tensor (moutRefused p d t false)
  | .moutRing _ q _ _ =>
    match tensor (moutRefused p d t true) with
    | some e => some e
    | none =>
      let r := s.ring core q.toNat
      ring q (ringRowsRefused r r.pkind (widthOf p.width * descElem d) t.count.toNat)
  | .mzero _ _ => tensor (rowsRefused p t)
  | _ => none

/-- Accepts a command or swap on the truss of a core (R341). -/
def State.acceptTruss (s : State) (core : Nat) (k : TrussCmd) : State :=
  (s.modCore core fun c => { c with truss := c.truss ++ [k] }).due (k.due core)

/-- Whether a truss has no room for another command or swap (R418). -/
def State.trussFull (s : State) (core : Nat) : Bool := decide (32 ≤ (s.coreAt core).truss.length)

/-- Whether a command with no rows completes at once (R339). -/
def trussEmpty (i : Instr) : Bool := ! onWeightPath i && (trussForm i).count == 0

/-- The command of a kick: its descriptors are copied now. -/
def TrussCmd.of (s : State) (core : Nat) (i : Instr) (stream : Nat) (rd : GReg) (remote : Bool) : TrussCmd where
  instr := i
  swap := false
  stream := stream
  owner := s.owner
  token := rd
  started := false
  offset := 0
  susp := none
  ta := s.descAt core (trussForm i).ta
  tb := 0
  remote := remote

/-- A kick of a truss command on the strand's own core (R265, R337, R338). -/
def kickTruss (rd : GReg) (i : Instr) : Exec Unit := do
  checkDest rd
  let s ← get
  match trussCheck s s.core i with
  | some (c, v) => trap c v
  | none => pure ()
  kickToken rd
  if s.trussFull s.core then stall .memory
  if trussEmpty i then writeG rd 0
  else
    let k := TrussCmd.of s s.core i (s.slot % 4) rd false
    markPending rd
    upd fun s => s.acceptTruss s.core k

/-- LSTA (R340). -/
def execLsta (rd : GReg) (t : TForm) (s : State) : Host.Outcome State Fault Refusal :=
  runStrand (issuePlain 12 [] [] (kickTruss rd (.lsta rd t))) s

/-- MSTRM (R342). -/
def execMstrm (rd : GReg) (t : TForm) (s : State) : Host.Outcome State Fault Refusal :=
  runStrand (issuePlain 12 [] [] (kickTruss rd (.mstrm rd t))) s

/-- MSTRM from a ring (R342). -/
def execMstrmRing (rd : GReg) (q : QReg) (t : TForm) (s : State) : Host.Outcome State Fault Refusal :=
  runStrand (issuePlain 12 [] [] (kickTruss rd (.mstrmRing rd q t))) s

/-- MOUT (R343). -/
def execMout (rd : GReg) (clear : Bool) (t : TForm) (s : State) : Host.Outcome State Fault Refusal :=
  runStrand (issuePlain 12 [] [] (kickTruss rd (.mout rd clear t))) s

/-- MOUT to a ring (R343). -/
def execMoutRing (rd : GReg) (q : QReg) (clear : Bool) (t : TForm) (s : State) : Host.Outcome State Fault Refusal :=
  runStrand (issuePlain 12 [] [] (kickTruss rd (.moutRing rd q clear t))) s

/-- MZERO (R344). -/
def execMzero (rd : GReg) (t : TForm) (s : State) : Host.Outcome State Fault Refusal :=
  runStrand (issuePlain 12 [] [] (kickTruss rd (.mzero rd t))) s

/-- MSWAP (R341): accepted; the strand, its pc after the MSWAP, is not ready on memory until the exchange (R376). -/
def execMswap (s : State) : Host.Outcome State Fault Refusal :=
  runStrand (issuePlain 8 [] [] do
    let s ← get
    if s.trussFull s.core then stall .memory
    let k := { TrussCmd.of s s.core (.mswap) (s.slot % 4) 0 false with swap := true, ta := 0 }
    upd fun s => s.acceptTruss s.core k
    modCur fun x => { x with swapWait := true }) s

/-! ### MCMD (R302) -/

/-- The command that MCMD sends: fb and fc of word 0 are zero (R338). -/
def mcmdInstr (op : Nat) (rd : GReg) (t : TForm) : Option Instr :=
  if op = 0xD2 then some (.lsta rd t)
  else if op = 0xD4 then some (.mstrm rd t)
  else if op = 0xD5 then some (.mout rd false t)
  else if op = 0xD6 then some (.mzero rd t)
  else none

/-- The core and stream that accept a peg's command; none when the target refuses it. -/
def State.pegTarget (s : State) (j : Word) (i : Instr) : Option (Nat × Nat) :=
  match s.vcnCore s.myPart (field j 13 11) with
  | none => none
  | some c =>
    let g := (s.coreAt c).grants.get (0, 0) (field j 0 6)
    if g.1 = BitVec.ofNat 32 (field j 32 32) ∧ i.wf ∧ (trussCheck s c i).isNone then some (c, g.2.toNat) else none

/-- MCMD (R302): the target answers at once. -/
def execMcmd (rd ra rb : GReg) (t : TForm) (s : State) : Host.Outcome State Fault Refusal :=
  runStrand (issuePlain 12 [ra, rb] [] do
    let op ← srcG rb
    let s ← get
    let j := s.cur.g[ra.toNat]!
    if ! (s.cur.tags.getLsbD ra.toNat && field j 24 2 == 3) then trap Cause.chanKind (regValue ra)
    checkDest rd
    match (if op.toNat < 256 then mcmdInstr op.toNat rd t else none) with
    | none => trap Cause.illegal (regValue rb)
    | some i =>
      kickToken rd
      match s.pegTarget j i with
      | none => trap Cause.grant (BitVec.ofNat 64 (field j 0 32))
      | some (c, stream) =>
        if s.trussFull c then stall .memory
        if trussEmpty i then writeG rd 0
        else
          let k := TrussCmd.of s c i stream rd (c != s.core)
          markPending rd
          upd fun s => s.acceptTruss c k) s

/-! ### How commands run -/

/-- A command's agent on the truss of a core (R25, R417). -/
def TrussCmd.agent (k : TrussCmd) (s : State) (core : Nat) : Agent := { s.agentOf k.owner with core := core, unit := k.unit core }

/-- Replaces the command at a position of a core's list. -/
def State.setTruss (s : State) (core i : Nat) (k : TrussCmd) : State :=
  s.modCore core fun c => { c with truss := c.truss.set i k }

/-- Removes the command at a position. -/
def State.delTruss (s : State) (core i : Nat) : State :=
  s.modCore core fun c => { c with truss := c.truss.eraseIdx i }

/-- The end of a command: the mailbox release, then its token (R109); the truss goes on with what is left. -/
def State.endTruss (s : State) (core i : Nat) (k : TrussCmd) (v : Word) : State :=
  (((s.dropEngineHost k.owner.part (k.unit core)).delTruss core i).writeToken k.owner k.token v).wakeTruss core

/-- A fault suspends a command: its offset goes to the supervisor of the truss's core, with the mark of a malformed entry (R267, R302,
R19). -/
def State.suspendTruss (s : State) (core i : Nat) (k : TrussCmd) (cause : BitVec 8) (mal : Bool) : State :=
  ((s.dropEngineHost k.owner.part (k.unit core)).setTruss core i { k with susp := some cause }).postSuspend core k.owner.slot
    (BitVec.ofNat 16 (0xC000 + k.stream)) cause mal k.offset

/-- Whether a swap stands before a position: it holds what was accepted after it. -/
def Core.swapBefore (c : Core) (i : Nat) : Bool := (c.truss.take i).any fun k => k.swap

/-- The next command of a stream and its position. -/
def Core.streamHead (c : Core) (stream : Nat) : Option (Nat × TrussCmd) :=
  match c.truss.findIdx? fun k => ! k.swap && ! onWeightPath k.instr && k.stream == stream with
  | some i => (c.truss[i]?).map fun k => (i, k)
  | none => none

/-- The weight load served next and its position. -/
def Core.weightHead (c : Core) : Option (Nat × TrussCmd) :=
  match c.truss.findIdx? fun k => ! k.swap && onWeightPath k.instr with
  | some i => (c.truss[i]?).map fun k => (i, k)
  | none => none

/-- Whether a weight load is in progress: the one served next is not held by a swap. -/
def Core.loading (c : Core) : Bool :=
  match c.weightHead with
  | some (i, _) => ! c.swapBefore i
  | none => false

/-- The value of MSTAT (Table 14.6). -/
def Core.mstat (c : Core) : Word :=
  let bits (f : TrussCmd → Bool) : Nat :=
    ((List.range 4).filter fun n => c.truss.any fun k => ! k.swap && k.stream == n && f k).foldl (fun a n => a + 2 ^ n) 0
  BitVec.ofNat 64
    (c.loading.toNat * 2 ^ 14 + c.active.had.toNat * 2 ^ 13
      + c.newPlane.toNat * 2 ^ 12 + c.shadow.width.toNat * 2 ^ 10 + c.active.width.toNat * 2 ^ 8
      + bits (fun k => k.susp.isSome) * 16 + bits fun _ => true)

/-- MSTAT (R345). -/
def execMstat (e : Bool) (rd : GReg) (s : State) : Host.Outcome State Fault Refusal :=
  runStrand (issue 8 e false [] [rd] do
    checkDest rd
    let v := (← myCore).mstat
    writeG rd v
    return .g rd v) s

/-- The values of a row of codes, padded with zeros to 64. -/
def rowValues (f : Nat) (bs : List Byte) : List Ext :=
  let n := fmtBits f / 8
  (List.range 64).map fun i => (fmtOf f).value (ofBytes ((bs.drop (i * n)).take n))

/-- Whether a ring is still one of the truss with slots of whole rows. -/
def trussSlots (r : RingDesc) (kind rowBytes : Nat) (q : QReg) : Exec Nat := do
  if ringRowsRefused r kind rowBytes 0 then trap Cause.ring (zx64 q)
  return r.slotBytes / rowBytes

/-! #### Sources in a local store (R347) -/

/-- The sectors that a command has read of its source. -/
def State.sectorsOf (s : State) (core : Nat) (k : TrussCmd) : Map (BitVec 128) :=
  if k.started then (s.partAt k.owner.part).sectors.get [] (k.unit core) else []

/-- Notes them. -/
def State.setSectors (s : State) (core : Nat) (k : TrussCmd) (m : Map (BitVec 128)) : State :=
  if (s.partAt k.owner.part).sectors.get [] (k.unit core) = m then s
  else s.modPart k.owner.part fun p => { p with sectors := p.sectors.set (k.unit core) m }

/-- The sectors of the `n` bytes at an address. -/
def sectorsAt (va : Word) (n : Nat) : List Nat := (List.range ((va.toNat % 16 + n + 15) / 16)).map (· + va.toNat / 16)

/-- Reads sectors, each once: those of the `n` bytes at `va`, which lie at a key of the memory, that a choice takes. -/
def State.readSectors (s : State) (key : Nat) (va : Word) (n : Nat) (want : Nat → Bool) (m : Map (BitVec 128)) : Map (BitVec 128) :=
  (sectorsAt va n).foldl
    (fun (m : Map (BitVec 128)) i =>
      if (m.find i).isSome ∨ ! want i then m else m.set i (BitVec.ofNat 128 (s.load (key / 16 * 16 + 16 * (i - va.toNat / 16)) 16))) m

/-- The sectors of the pieces of a source that lie in a local store, read. -/
def State.sourceSectors (s : State) (ag : Agent) (want : Nat → Bool) : List (Word × Nat) → Map (BitVec 128) → Map (BitVec 128)
  | [], m => m
  | (va, n) :: rest, m =>
    s.sourceSectors ag want rest (match resolve ag .load va n s with
      | .ok (.ls c off, _) => s.readSectors (lsKey c off) va n want m
      | _ => m)

/-- The bytes of pieces: of those in a local store, from the sectors read. -/
def sectorBytes (m : Map (BitVec 128)) : List (Word × Nat) → List Byte → List Byte
  | [], _ => []
  | (va, n) :: rest, bs =>
    let is := sectorsAt va n
    (if is.all fun i => (m.find i).isSome then ((is.flatMap fun i => toBytes 16 (m.get 0 i).toNat).drop (va.toNat % 16)).take n else bs.take n)
      ++ sectorBytes m rest (bs.drop n)

/-- Reads ranges of a command's source: each 16-byte sector of a local store is one access, made once, with this row or column or ahead of
it (R347). `next` are the ranges of the next row or column. -/
def readSource (core : Nat) (k : TrussCmd) (rs next : List (Word × Nat)) : Exec (List Byte) := do
  let ag := k.agent (← get) core
  let bs ← readRanges ag .load rs
  let s ← get
  let ps := rs.flatMap fun r => pieces r.1 r.2
  let m := s.sourceSectors ag (fun _ => true) ps (s.sectorsOf core k)
  let ahead := s.sourceSectors ag (Config.readAhead s.tick) (next.flatMap fun r => pieces r.1 r.2) m
  upd fun s => s.setSectors core k ahead
  return sectorBytes m ps bs

/-- The range of an activation row in memory (R342). -/
def rowRange (k : TrussCmd) (offset : Nat) : List (Word × Nat) :=
  let t := trussForm k.instr
  let row := t.noff.toNat + offset
  let col := t.koff.toNat
  let n := least 64 (descDim k.ta 0 - col)
  if t.count.toNat ≤ offset ∨ descRows k.ta ≤ row ∨ n = 0 then [] else [(descAddr k.ta col row, n * descElem k.ta)]

/-- The activation row of a command's offset (R342). -/
def activationRow (core : Nat) (k : TrussCmd) : Exec (List Ext) := do
  let s ← get
  let ag := k.agent s core
  let f := descFmt k.ta
  match trussRing k.instr with
  | some q =>
    let r := s.ring core q.toNat
    let bytes := 64 * descElem k.ta
    let per ← trussSlots r r.ckind bytes q
    if r.filled = 0 then stall .memory
    return rowValues f (← readBytes ag .load (aliasAddr (r.slotOff r.tail + k.offset % per * bytes)) bytes)
  | none => return rowValues f (← readSource core k (rowRange k k.offset) (rowRange k (k.offset + 1)))

/-- Frees the slot whose last row has been read. -/
def freeRow (core : Nat) (k : TrussCmd) : Exec Unit := do
  match trussRing k.instr with
  | none => pure ()
  | some q =>
    let r := (← get).ring core q.toNat
    let per := r.slotBytes / (64 * descElem k.ta)
    if k.offset % per = per - 1 then upd fun s => s.setTail core q.toNat (r.tail + 1)

/-- A plate element of a row under a width. -/
def Core.plateAt (c : Core) (w m n : Nat) : Nat := (c.plate.get 0 (m * w + n)).toNat

/-- Writes a plate row. -/
def Core.setPlate (c : Core) (w m : Nat) (xs : List Nat) : Core :=
  { c with plate := (xs.zipIdx).foldl (fun (p : Map (BitVec 32)) e => p.set (m * w + e.2) (BitVec.ofNat 32 e.1)) c.plate }

/-- MstrmRow (R342). -/
def mstrmRow (core : Nat) (k : TrussCmd) : Exec Unit := do
  let a ← activationRow core k
  freeRow core k
  let t := trussForm k.instr
  upd fun s => s.modCore core fun c =>
    let p := c.active
    let w := widthOf p.width
    let m := t.row0.toNat + k.offset
    let a := if p.had then hadBlock (a.take 32) p.seed t.koff.toNat ++ hadBlock (a.drop 32) p.seed (t.koff.toNat + 32) else a
    c.setPlate w m ((List.range w).map fun n => trussStep (c.plateAt w m n) a (p.column n) p.had)
  upd fun s => s.addWork core k.owner.part (if k.owner.member then some k.owner.lnum else none)
    (64 * widthOf (s.coreAt core).active.width) 0

/-- The code of a plate element in an output format (R343). -/
def plateCode (f x : Nat) : Nat := if f = 8 then x else ((fmtOf f).ofExt .rne false (fp32.value x)).1

/-- One row of MOUT (R343): converted, written, and with fc[0] cleared. -/
def moutRow (core : Nat) (k : TrussCmd) (clear : Bool) : Exec Unit := do
  let s ← get
  let ag := k.agent s core
  let t := trussForm k.instr
  let c := s.coreAt core
  let w := widthOf c.active.width
  let m := t.row0.toNat + k.offset
  let f := descFmt k.ta
  let es := descElem k.ta
  let img (n : Nat) : List Byte := (List.range n).flatMap fun j => toBytes es (plateCode f (c.plateAt w m j))
  match trussRing k.instr with
  | some q =>
    let r := s.ring core q.toNat
    let bytes := w * es
    let per ← trussSlots r r.pkind bytes q
    if r.free = 0 then stall .memory
    writeBytes ag (aliasAddr (r.slotOff r.head + k.offset % per * bytes)) (img w)
    if k.offset % per = per - 1 then upd fun s => s.setHead core q.toNat (r.head + 1)
  | none =>
    let row := t.noff.toNat + k.offset
    let col := t.koff.toNat
    let n := least w (descDim k.ta 0 - col)
    if row < descRows k.ta ∧ n ≠ 0 then writeBytes ag (descAddr k.ta col row) (img n)
  if clear then upd fun s => s.modCore core fun c => c.setPlate w m (List.replicate w 0)

/-- One row of MZERO (R344). -/
def mzeroRow (core : Nat) (k : TrussCmd) : Exec Unit :=
  upd fun s => s.modCore core fun c =>
    let w := widthOf c.active.width
    c.setPlate w ((trussForm k.instr).row0.toNat + k.offset) (List.replicate w 0)

/-- One row step of a command (R346). -/
def rowStep (core : Nat) (k : TrussCmd) : Exec Unit :=
  match k.instr with
  | .mout _ clear _ => moutRow core k clear
  | .moutRing _ _ clear _ => moutRow core k clear
  | .mzero _ _ => mzeroRow core k
  | _ => mstrmRow core k

/-- Whether the plate has no row for a command's next step: all rows are checked when it starts, and the row of a step always, since
a swap may change the width under a MOUT or MZERO (R342 to R344). -/
def TrussCmd.noRow (k : TrussCmd) (p : Plane) : Bool :=
  let t := trussForm k.instr
  if k.started then decide (p.plateRows ≤ t.row0.toNat + k.offset) else rowsRefused p t

/-- The position that a command has in its core's list after an access, which may have ended other launches' commands; none when it has
ended itself. -/
def Core.trussAt (c : Core) (k : TrussCmd) : Option Nat :=
  c.truss.findIdx? fun x => ! x.swap && x.owner == k.owner && x.token == k.token && x.instr == k.instr

/-- A step of a command is over: it goes on from its next offset, or ends after `n` of them. -/
def State.nextRow (s : State) (core : Nat) (k : TrussCmd) (n : Nat) (finish : State → Nat → TrussCmd → State) : State :=
  match (s.coreAt core).trussAt k with
  | none => s
  | some i =>
    let k := { k with started := true, offset := k.offset + 1 }
    if k.offset < n then (s.setTruss core i k).due (k.due core) else finish s i k

/-- A step has faulted. -/
def State.rowFault (s : State) (core : Nat) (k : TrussCmd) (cause : BitVec 8) (mal : Bool) : State :=
  match (s.coreAt core).trussAt k with
  | none => s
  | some i => s.suspendTruss core i k cause mal

/-- Whether a command of a stream is suspended: the stream is, with its row steps and weight loads (R339). -/
def Core.streamHeld (c : Core) (stream : Nat) : Bool := c.truss.any fun k => ! k.swap && k.stream == stream && k.susp.isSome

/-- Whether another stream's row step has written part of its row: a row step reads and writes its plate row indivisibly (R346). -/
def State.rowBusy (s : State) (core stream : Nat) : Bool :=
  (s.coreAt core).truss.any fun k =>
    ! k.swap && ! onWeightPath k.instr && k.stream != stream
      && (((s.partAt k.owner.part).engineProg.find (k.unit core)).any fun p => p.stored != 0)

/-- TRUSS_ROW_STEP (R346): a row step of a stream. A step that waits stays due, and a fault suspends the stream (R339). -/
def State.trussRowStep (s : State) (core stream : Nat) : State :=
  match (s.coreAt core).streamHead stream with
  | none => s
  | some (i, k) =>
    if (s.coreAt core).streamHeld stream then s
    else if (streamsRows k.instr ∧ (s.coreAt core).swapBefore i) ∨ s.rowBusy core stream then s.due (.trussRowStep core stream)
    else if k.noRow (s.coreAt core).active then s.suspendTruss core i k Cause.tensor false
    else
      match rowStep core k s with
      | .ok ((), t) => t.nextRow core k (trussForm k.instr).count.toNat fun t i k => t.endTruss core i k 0
      | .error (.wait _ t) => t.due (.trussRowStep core stream)
      | .error (.quit t) => t.due (.trussRowStep core stream)
      | .error (.trap c _ mal) => s.rowFault core k c mal
      | .error (.trapIn t c _ mal) => t.rowFault core k c mal

/-- TRUSS_ROW_STEP. -/
def execTrussRowStep (core stream : Nat) (s : State) : Host.Outcome State Fault Refusal := .next (s.trussRowStep core stream)

/-! ### The weight-load path (R340) -/

/-- Bits `w` wide from bit `lo` of bytes. -/
def bitsAt (bs : List Byte) (lo w : Nat) : Nat := ofBytes bs / 2 ^ lo % 2 ^ w

/-- The bytes that hold the codes of a column inside the tensor. -/
def columnRange (d : Desc) (t : TForm) (row : Nat) : Option (Word × Nat) :=
  let w := fmtBits (descFmt d)
  let col := t.koff.toNat
  let n := least 64 (descDim d 0 - col)
  let base := descBase d + row * descStride d 1
  if descRows d ≤ row ∨ n = 0 then none
  else if descLayout d = 1 then
    some (BitVec.ofNat 64 (base + col / 64 * (8 * w)), 8 * (if lstaP t = 0 then w else lstaP t))
  else some (BitVec.ofNat 64 (base + col * w / 8), (n * w + 7) / 8)

/-- The value that `p` planes give element `i`. -/
def planeBits (w i words : Nat) : (p : Nat) → Nat
  | 0 => 0
  | j + 1 => planeBits w i words j + words / 2 ^ (64 * j + i) % 2 * 2 ^ (w - 1 - j)

/-- The codes of the 64 weights of a column from its bytes, sign-extended for INT3; elements outside the tensor are zero. -/
def columnCodes (d : Desc) (t : TForm) (bs : List Byte) : List Nat :=
  let f := descFmt d
  let w := fmtBits f
  let n := least 64 (descDim d 0 - t.koff.toNat)
  let wide (x : Nat) : Nat := if f = 5 then (BitVec.ofInt 4 (BitVec.ofNat 3 x).toInt).toNat else x
  if bs = [] then List.replicate 64 0
  else if descLayout d = 1 then (List.range 64).map fun i => wide (planeBits w i (ofBytes bs) (if lstaP t = 0 then w else lstaP t))
  else (List.range 64).map fun i => if i < n then wide (bitsAt bs (i * w) w) else 0

/-- The first group of a column's scales, and the one after the last, inside the tensor (R212). -/
def scaleGroups (d : Desc) (t : TForm) : Nat × Nat :=
  let g := 2 ^ descLogg d
  let col := t.koff.toNat
  (col / g, least ((descDim d 0 + g - 1) / g) ((col + 63) / g + 1))

/-- Bytes of a scale: E8M0 or BF16. -/
def scaleBytes (d : Desc) : Nat := if descFmt d = 13 then 1 else 2

/-- The bytes that hold the scales of a column (R212). -/
def scaleRange (d : Desc) (t : TForm) (row : Nat) : Option (Word × Nat) :=
  let (first, last) := scaleGroups d t
  let groups := (descDim d 0 + 2 ^ descLogg d - 1) / 2 ^ descLogg d
  if ! fmtSub (descFmt d) ∨ descRows d ≤ row ∨ last ≤ first ∨ descDim d 0 ≤ t.koff.toNat then none
  else some (BitVec.ofNat 64 (descScale d + (row * groups + first) * scaleBytes d), (last - first) * scaleBytes d)

/-- The scales of a column's eight row blocks from their bytes (R374). -/
def columnScales (d : Desc) (t : TForm) (bs : List Byte) : List Nat :=
  let size := scaleBytes d
  let col := t.koff.toNat
  if bs = [] then List.replicate 8 0
  else (List.range 8).map fun b =>
    if descDim d 0 ≤ col + 8 * b then 0
    else ofBytes ((bs.drop (((col + 8 * b) / 2 ^ descLogg d - (scaleGroups d t).1) * size)).take size)

/-- The ranges of a column's codes and scales. -/
def columnRanges (k : TrussCmd) (offset : Nat) : List (Word × Nat) :=
  let t := trussForm k.instr
  let row := t.noff.toNat + offset
  (columnRange k.ta t row).toList ++ (scaleRange k.ta t row).toList

/-- Loads the column of a command's offset into the shadow plane. -/
def loadColumn (core : Nat) (k : TrussCmd) : Exec Unit := do
  let t := trussForm k.instr
  let codes := columnRange k.ta t (t.noff.toNat + k.offset)
  let last := k.offset + 1 = widthOf (widthCode (descFmt k.ta))
  let bs ← readSource core k (columnRanges k k.offset) (if last then [] else columnRanges k (k.offset + 1))
  let n := (codes.map (·.2)).getD 0
  let c : LoadedColumn :=
    { fmt := BitVec.ofNat 4 (descFmt k.ta), codes := columnCodes k.ta t (bs.take n), scales := columnScales k.ta t (bs.drop n) }
  upd fun s => s.modCore core fun x => { x with shadow := { x.shadow with cols := x.shadow.cols.set k.offset c } }

/-- The end of a weight load: its columns are the plane's, and the shadow plane's record is set (R340). -/
def State.finishLoad (s : State) (core i : Nat) (k : TrussCmd) : State :=
  let d := k.ta
  let w := widthOf (widthCode (descFmt d))
  let s := s.modCore core fun c =>
    let p := { c.shadow with cols := c.shadow.cols.filter fun e => decide (e.1 < w) }
    { c with
      newPlane := true
      shadow := { p.settled with
        cols := [], wfmt := BitVec.ofNat 4 (descFmt d), width := widthCode (descFmt d), had := descHad d, seed := descSeed d
        koff := (trussForm k.instr).koff } }
  s.endTruss core i k 0

/-- LSTA_COMPLETE (R340): the load served next takes one column further; the last one ends it. -/
def State.lstaComplete (s : State) (core : Nat) : State :=
  match (s.coreAt core).weightHead with
  | none => s
  | some (i, k) =>
    if (s.coreAt core).streamHeld k.stream then s
    else if (s.coreAt core).swapBefore i then s.due (.lstaComplete core)
    else
      match loadColumn core k s with
      | .ok ((), t) => t.nextRow core k (widthOf (widthCode (descFmt k.ta))) fun t i k => t.finishLoad core i k
      | .error (.wait _ t) => t.due (.lstaComplete core)
      | .error (.quit t) => t.due (.lstaComplete core)
      | .error (.trap c _ mal) => s.rowFault core k c mal
      | .error (.trapIn t c _ mal) => t.rowFault core k c mal

/-- LSTA_COMPLETE. -/
def execLstaComplete (core : Nat) (s : State) : Host.Outcome State Fault Refusal := .next (s.lstaComplete core)

/-! ### MSWAP (R341) -/

/-- The strand of a performed swap becomes ready again, in its slot or in the context cache. -/
def State.wakeSwap (s : State) (core : Nat) (sid : Nat) : State :=
  let co := s.coreAt core
  match co.slotOf sid with
  | some k => s.modSlot core k fun x => { x with swapWait := false }
  | none =>
    match co.kept.find? fun e => e.sid == sid with
    | some e =>
      let a := lsKey core (cacheEntryOff e.entry + 0x9A)
      let fl := s.load a 1
      s.store a 1 (setBit (BitVec.ofNat 8 fl) 5 false).toNat
    | none => s

/-- MSWAP_PERFORM (R341): the first pending swap is performed once no LSTA and no MSTRM accepted before it remains, between row steps (R346). -/
def State.mswapPerform (s : State) (core : Nat) : State :=
  let c := s.coreAt core
  match c.truss.findIdx? fun k => k.swap with
  | none => s
  | some i =>
    if ((c.truss.take i).any fun k => onWeightPath k.instr || streamsRows k.instr) ∨ s.rowBusy core 4 then s.due (.mswapPerform core)
    else
      let sid := ((c.truss[i]?).map fun k => k.owner.sid).getD 0
      let s := (s.delTruss core i).modCore core fun c => { c with active := c.shadow, shadow := c.active, newPlane := false }
      (s.wakeSwap core sid).due (.mswapPerform core)

/-- MSWAP_PERFORM. -/
def execMswapPerform (core : Nat) (s : State) : Host.Outcome State Fault Refusal := .next (s.mswapPerform core)

end Sys2Proof.Machine
end

