-- ==== Sys2Proof/Machine/Feeds.lean ====
section
/-! DEFINITION. Feeds (R64 to R66, R275, R276) and the resumption of suspended commands (R271). -/

namespace Sys2Proof.Machine

/-! ### Subscriptions -/

/-- Bytes of a row of `n` elements of a tensor; a bit-packed or bit-plane row is carried byte for byte (R65). -/
def rowBytes (d : Desc) (n : Nat) : Nat := (n * fmtBits (descFmt d) + 7) / 8

/-- Columns of tiles in the grid of a tensor (R275). -/
def gridCols (d : Desc) (tc : Nat) : Nat := (descDim d 0 + tc - 1) / tc
/-- Rows of tiles in the grid. -/
def gridRows (d : Desc) (tr : Nat) : Nat := (descRows d + tr - 1) / tr

/-- The TENSOR refusals of a subscription (R275). -/
def feedRefused (d : Desc) (slot tr tc : Nat) (first count : Word) : Bool :=
  let bits := tc * fmtBits (descFmt d)
  bits % 8 != 0 || tr * (bits / 8) != slot || decide (2 ^ 32 ≤ first.toNat) || decide (2 ^ 32 ≤ count.toNat)
    || decide (gridRows d tr * gridCols d tc < first.toNat + count.toNat)

/-- The die of a place, if it has a home. -/
def placeDie : Place → Option Nat
  | .phys pa _ => some (dieOf pa)
  | .ls c _ => some (c / 256)
  | .host _ _ => none

/-- The die that serves a subscription: the home die of the tensor's first element; while that does not resolve, the issuing core's
(log 20). -/
def servingDie (d : Desc) : Exec Nat := fun s =>
  match resolve s.me .load (BitVec.ofNat 64 (descBase d)) 1 s with
  | .ok (p, t) => .ok ((placeDie p).getD (s.core / 256), t)
  | .error _ => .ok (s.core / 256, s)

/-- The subscriptions of a service: a die's infeed or outfeed. -/
def Die.service (d : Die) (inward : Bool) : List FeedSub := d.feeds.filter fun f => f.inward == inward

/-- The occurrence that serves a subscription's next tile. -/
def tileEvent (inward : Bool) (die index : Nat) : Instr := if inward then .infeedTile die index else .outfeedTile die index

/-- ISUB and OSUB (R275); a subscription takes the lowest free index of its service (DESIGN CHOICE, log 83). When several checks fail, the fault is the first of PAGE_NOT_PRESENT, RING for the ring, TENSOR, RING for a full
service: the spec gives no order (DESIGN CHOICE, log 76). -/
def subscribe (inward : Bool) (rd ra rb : GReg) (q : QReg) (c : CForm) : Exec Unit := do
  let first ← srcG ra
  let count ← srcG rb
  checkDest rd
  let s ← get
  let vcn := field c.dstr 0 11
  match s.vcnCore s.myPart vcn with
  | none => trap Cause.notPresent (windowAt vcn)
  | some rc =>
    let r := s.ring rc q.toNat
    if ! r.valid ∨ (if inward then r.pkind else r.ckind) ≠ 2 then trap Cause.ring (zx64 q)
    let d := s.descAt s.core (BitVec.ofNat 6 (field c.sstr 0 6))
    if feedRefused d r.slotBytes c.xf.toNat c.yf.toNat first count then trap Cause.tensor 0
    let die ← servingDie d
    let used := ((← get).dieAt die).service inward
    match (List.range 64).find? fun i => ! used.any fun f => f.index == i with
    | none => trap Cause.ring (zx64 q)
    | some i =>
      kickToken rd
      if count = 0 then writeG rd 0
      else
        let f : FeedSub :=
          { index := i, inward := inward, ringCore := rc, ring := q, desc := d, tr := c.xf.toNat, tc := c.yf.toNat
            first := first.toNat, count := count.toNat, n := 0, owner := s.owner, token := rd, scope := c.scope, unsub := false
            susp := none }
        markPending rd
        upd fun s => (s.modDie die fun x => { x with feeds := x.feeds ++ [f] }).post (tileEvent inward die i)

/-- ISUB (R275). -/
def execIsub (rd ra rb : GReg) (q : QReg) (c : CForm) (s : State) : Host.Outcome State Fault Refusal :=
  runStrand (issuePlain 16 [ra, rb] [] (subscribe true rd ra rb q c)) s

/-- OSUB (R275). -/
def execOsub (rd ra rb : GReg) (q : QReg) (c : CForm) (s : State) : Host.Outcome State Fault Refusal :=
  runStrand (issuePlain 16 [ra, rb] [] (subscribe false rd ra rb q c)) s

/-- UNSUB (R276): of a subscription that the strand made and whose token is pending; the tile in progress is completed and is the last (R66). -/
def execUnsub (rd : GReg) (s : State) : Host.Outcome State Fault Refusal :=
  runStrand (issuePlain 8 [] [] do
    let s ← get
    let sid := s.cur.sid
    let mark (f : FeedSub) : FeedSub :=
      if f.owner.core = s.core ∧ f.owner.sid = sid ∧ f.token = rd then { f with unsub := true } else f
    set { s with dies := s.dies.map fun (d : Nat × Die) => (d.1, { d.2 with feeds := d.2.feeds.map mark }) }) s

/-- A subscription of a die's service. -/
def State.feedAt (s : State) (inward : Bool) (die index : Nat) : Option FeedSub :=
  (s.dieAt die).feeds.find? fun f => f.inward == inward && f.index == index

/-- Changes or, with `none`, removes a subscription. -/
def State.setFeed (s : State) (die : Nat) (f : FeedSub) (g : Option FeedSub) : State :=
  s.modDie die fun x =>
    { x with feeds := x.feeds.filterMap fun e => if e.inward == f.inward && e.index == f.index then g else some e }

/-- The end of a subscription: its mailbox release and token (R65, R66). -/
def State.endFeed (s : State) (die : Nat) (f : FeedSub) (v : Word) : State :=
  ((s.dropEngineHost f.owner.part (f.unit die)).setFeed die f none).writeToken f.owner f.token v

/-- The handle of a subscription (Table 12.7). -/
def FeedSub.handle (f : FeedSub) (die : Nat) : BitVec 16 :=
  BitVec.ofNat 16 ((if f.inward then 1 else 2) * 2 ^ 14 + die * 2 ^ 11 + f.index)

/-- A fault suspends a subscription at its first tile not completed, with the mark of a malformed entry (R43, R66, R19). -/
def State.suspendFeed (s : State) (die : Nat) (f : FeedSub) (cause : BitVec 8) (mal : Bool) : State :=
  ((s.dropEngineHost f.owner.part (f.unit die)).setFeed die f (some { f with susp := some cause })).postSuspend f.owner.core f.owner.slot (f.handle die) cause mal (f.first + f.n)

/-- The places of a tile's row; an element homed on another die than the serving one suspends the subscription with TENSOR (R275). -/
def tilePlaces (ag : Agent) (cls : Access) (die : Nat) : List (Word × Nat) → Exec (List (Word × Nat × Place × Nat))
  | [] => pure []
  | (va, n) :: rest => do
    let p ← resolve ag cls va n
    if placeDie p ≠ some die then trapIn Cause.tensor va
    return (va, n, p, 0) :: (← tilePlaces ag cls die rest)

/-- The rows of a tile inside the tensor: the offset within the slot, the address and the bytes. -/
def FeedSub.rows (f : FeedSub) : List (Nat × Word × Nat) :=
  let d := f.desc
  let tile := f.first + f.n
  let cols := gridCols d f.tc
  let row0 := tile / cols * f.tr
  let col0 := tile % cols * f.tc
  let n := least f.tc (descDim d 0 - col0)
  (List.range f.tr).filterMap fun i =>
    if row0 + i < descRows d then
      some (i * rowBytes d f.tc, BitVec.ofNat 64 (descBase d + col0 * fmtBits (descFmt d) / 8 + (row0 + i) * descStride d 1), rowBytes d n)
    else none

/-- The image of a slot with the bytes of a tile's rows, edges zero (R65). -/
def tileImage (img : BitVec 524288) : List (Nat × Word × Nat) → List Byte → BitVec 524288
  | [], _ => img
  | (off, _, n) :: rest, bs => tileImage (setField img (8 * off) (8 * n) (ofBytes (bs.take n))) rest (bs.drop n)

/-- The address ranges of a tile's rows. -/
def tileRanges (rows : List (Nat × Word × Nat)) : List (Word × Nat) := rows.map fun r => (r.2.1, r.2.2)

/-- The numbers from one to another, both included, in that direction. -/
def between (a b : Nat) : List Nat :=
  if a ≤ b then (List.range (b + 1 - a)).map (· + a) else ((List.range (a + 1 - b)).map (· + b)).reverse

/-- The routers from one core's to another's: along the row of the package's grid of quads, then along the column (log 80). Each is given by
core 0 of its quad. -/
def routersOn (a b : Nat) : List Nat :=
  let quadCore (x y : Nat) : Nat := y / 8 * 1024 + x / 8 * 256 + y % 8 * 32 + x % 8 * 4
  (between (gridX a) (gridX b)).map (fun x => quadCore x (gridY a)) ++ ((between (gridY a) (gridY b)).drop 1).map fun y => quadCore (gridX b) y

/-- Resolves the rows of a tile before any of it is moved: the routers of its homes, by core 0 of the quad, and of the other local stores it
lies in, with the bytes that go there or come from there. -/
def readyTile (ag : Agent) (cls : Access) (die ringCore : Nat) : List (Nat × Word × Nat) → Exec (List (Nat × Nat))
  | [] => pure []
  | (_, va, n) :: rest => do
    let ps ← tilePlaces ag cls die (pieces va n)
    let s ← get
    let here := ps.filterMap fun (p : Word × Nat × Place × Nat) =>
      match p.2.2.1 with
      | .phys pa _ => some (4 * s.homeQuadOf pa, p.2.1)
      | .ls c _ => if c = ringCore then none else some (c, p.2.1)
      | .host _ _ => none
    return here ++ (← readyTile ag cls die ringCore rest)

/-- The number in a tile's progress that says that its traffic is charged. -/
def tileCharged : Nat := 2 ^ 32

/-- Charges a tile's traffic to the copy/feed class in every router it crosses between its homes and the ring's core (R64); it waits while
one of them holds packets back. A tile that has waited since it was charged is not charged again: its progress says so. -/
def chargeTile (ag : Agent) (ringCore : Nat) (traffic : List (Nat × Nat)) : Exec Unit := fun s =>
  let key := budgetKey ag.part ag.cls
  let hops := traffic.flatMap fun e => (routersOn e.1 ringCore).map fun c => (c, (e.2 + 63) / 64)
  if (s.progOf ag).got.find tileCharged = some [] then .ok ((), s)
  else if hops.all fun h => s.admits h.1 key then
    .ok ((), (hops.foldl (fun t h => t.countFlits h.1 key h.2) s).notePiece ag tileCharged [])
  else .error (.wait .memory s)

/-- A subscription as an agent. -/
def State.feedAgent (s : State) (die : Nat) (f : FeedSub) : Agent := { s.agentOf f.owner with feed := true, unit := f.unit die }

/-- One tile of the infeed (R65). -/
def infeedTile (die : Nat) (f : FeedSub) : Exec Unit := do
  let s ← get
  let ag := s.feedAgent die f
  let r := s.ring f.ringCore f.ring.toNat
  if r.free = 0 then stall .memory
  let off := r.slotOff r.head
  let _ ← reachLs ag .store (BitVec.ofNat 64 off) f.ringCore off r.slotBytes
  chargeTile ag f.ringCore (← readyTile ag .load die f.ringCore f.rows)
  let bs ← readRanges ag .load (tileRanges f.rows)
  upd fun s => (s.storeBytes (lsKey f.ringCore off) (toBytes r.slotBytes (tileImage 0 f.rows bs).toNat)).setHead f.ringCore f.ring.toNat (r.head + 1)

/-- One tile of the outfeed (R65). -/
def outfeedTile (die : Nat) (f : FeedSub) : Exec Unit := do
  let s ← get
  let ag := s.feedAgent die f
  let r := s.ring f.ringCore f.ring.toNat
  if r.filled = 0 then stall .memory
  let off := r.slotOff r.tail
  let _ ← reachLs ag .load (BitVec.ofNat 64 off) f.ringCore off r.slotBytes
  chargeTile ag f.ringCore (← readyTile ag .store die f.ringCore f.rows)
  let slot := Memory.readList s.mem (lsKey f.ringCore off) r.slotBytes
  writeRanges ag (tileRanges f.rows) (f.rows.flatMap fun e => (slot.drop e.1).take e.2.2)
  upd fun s => s.setTail f.ringCore f.ring.toNat (r.tail + 1)

/-- A ring's core stands for a VCN, 2^16 above it, while that VCN is saved and unmapped (R376). -/
def savedRing (vcn : Nat) : Nat := 2 ^ 16 + vcn

/-- Whether a ring's core takes no tile: its VCN is being saved or is unmapped (R376). -/
def State.ringAway (s : State) (core : Nat) : Bool :=
  decide (2 ^ 16 ≤ core) || (s.coreAt core).saving.isSome || (s.coreAt core).restVcn.isSome

/-- One tile of a subscription; after it, one that has been unsubscribed ends (R65). A tile that waits stays due. -/
def State.feedStep (s : State) (inward : Bool) (die index : Nat) : State :=
  match s.feedAt inward die index with
  | none => s
  | some f =>
    if f.susp.isSome then s
    else if s.ringAway f.ringCore then s.post (tileEvent inward die index)
    else
      match (if inward then infeedTile die f else outfeedTile die f) s with
      | .ok ((), t) =>
        if f.n + 1 < f.count ∧ ! f.unsub then (t.setFeed die f (some { f with n := f.n + 1 })).post (tileEvent inward die index)
        else t.endFeed die f 0
      | .error (.wait _ t) => t.post (tileEvent inward die index)
      | .error (.quit t) => t.post (tileEvent inward die index)
      | .error (.trap c _ mal) => s.suspendFeed die f c mal
      | .error (.trapIn t c _ mal) => t.suspendFeed die f c mal

/-- INFEED_TILE (R65). -/
def execInfeedTile (die index : Nat) (s : State) : Host.Outcome State Fault Refusal := .next (s.feedStep true die index)

/-- OUTFEED_TILE (R65). -/
def execOutfeedTile (die index : Nat) (s : State) : Host.Outcome State Fault Refusal := .next (s.feedStep false die index)

/-! ### CPYRES (R271) -/

/-- An abort of a command by the supervisor aborts its launch with ABORT_FAULT, whether or not it has flag T (R43). -/
def State.abortOwner (s : State) (o : Owner) : State :=
  if o.member then
    match (s.partAt o.part).liveLaunch o.lnum with
    | some l => s.abortTag o.part l.tag 0x22
    | none => s
  else s

/-- Resumes or aborts the suspended command that a handle names on a core; none when there is none. -/
def State.resumeCommand (s : State) (core : Nat) (h : BitVec 16) (abort : Bool) : Option State :=
  let cls := field h 14 2
  if cls = 0 then
    match (s.quadAt (core / 4)).copies.find? fun k => copyHandle k.index == h && k.owner.core == core && k.susp.isSome with
    | none => none
    | some k => some (s.resumeCopy (core / 4) k abort)
  else if cls = 3 then
    match (s.coreAt core).truss.findIdx? fun k => BitVec.ofNat 16 (0xC000 + k.stream) == h && k.susp.isSome with
    | none => none
    | some i =>
      match (s.coreAt core).truss[i]? with
      | none => none
      | some k =>
        if abort then some (((s.endTruss core i k (tokenValue k.offset (k.susp.getD 0))).abortOwner k.owner))
        else some ((s.setTruss core i { k with susp := none }).wakeTruss core)
  else
    let die := field h 11 3
    match (s.dieAt die).feeds.find? fun f => f.handle die == h && f.owner.core == core && f.susp.isSome with
    | none => none
    | some f =>
      if abort then some ((s.endFeed die f (tokenValue (f.first + f.n) (f.susp.getD 0))).abortOwner f.owner)
      else some ((s.setFeed die f (some { f with susp := none })).post (tileEvent f.inward die f.index))

/-- CPYRES (R271). -/
def execCpyres (rd ra : GReg) (s : State) : Host.Outcome State Fault Refusal :=
  runStrand (issuePlain 8 [ra] [rd] do
    let s ← get
    if s.slot ≠ 15 then trap Cause.privilege 0
    let v ← srcG ra
    checkDest rd
    if field v 17 47 ≠ 0 then trap Cause.illegal (regValue ra)
    match s.resumeCommand s.core (BitVec.ofNat 16 v.toNat) (bit v 16) with
    | none => writeG rd 1
    | some t =>
      set t
      writeG rd 0) s

end Sys2Proof.Machine
end

