-- ==== Sys2Proof/Machine/Launches.lean ====
section
/-! DEFINITION. Launches: queueing, waiting and aborting (R303 to R306), and their placement (R141, R142, R348 to R351). -/

namespace Sys2Proof.Machine

/-- The fields of a launch block's first 32 bytes (Table 8.4). -/
structure Block where
  entry  : Word
  cores  : Nat
  slots  : Nat
  flags  : BitVec 16
  nparam : Nat
  rest   : Nat
  deriving DecidableEq, Repr

/-- Reads a block's image. -/
def Block.of (img : List Byte) : Block where
  entry := BitVec.ofNat 64 (imgAt img 0 8)
  cores := imgAt img 8 4
  slots := imgAt img 0x0C 2
  flags := BitVec.ofNat 16 (imgAt img 0x0E 2)
  nparam := imgAt img 0x10 4
  rest := imgAt img 0x14 12

/-- The cores of a partition. -/
def Part.coreCount (p : Part) : Nat := 4 * p.quads.length

/-- Whether a block is refused with LAUNCH (R303). -/
def Block.refused (b : Block) (p : Part) : Bool :=
  b.cores == 0 || decide (p.coreCount < b.cores) || b.slots == 0 || decide (15 < b.slots) || field b.flags 2 14 != 0
    || decide (64 < b.nparam) || b.rest != 0

/-- A queued launch. -/
def Block.launch (b : Block) (ticket : Nat) (ticketed : Bool) (prio : Nat) (ea : Word) (asid : BitVec 8)
    (parent : Option (BitVec 16)) (call : Option (Option Nat × Nat)) : Launch where
  phase := .queued
  ticket := ticket
  ticketed := ticketed
  prio := prio
  block := ea
  entry := b.entry
  cores := b.cores
  slots := b.slots
  tolerant := bit b.flags 0
  mflag := bit b.flags 1
  asid := asid
  parent := parent
  lnum := 0
  numbered := false
  tag := 0
  pending := b.cores * b.slots
  failed := 0
  outcome := none
  vcns := []
  placed := 0
  ops := 0
  bytes := 0
  call := call

/-- Queues a launch; placement takes it in its own time (R348). -/
def State.enqueue (s : State) (part : Nat) (l : Launch) : State :=
  (s.modPart part fun p => { p with launches := p.launches ++ [l] }).post (.launchPlacement part)

/-- The ticket table is full: 256 launches, of LNCH or of LAUNCH calls, are not yet reported (R303, R304, R348). -/
def Part.ticketsFull (p : Part) : Bool := decide (256 ≤ (p.launches.filter fun l => l.ticketed || l.call.isSome).length)

/-- LNCH (R303): a strand of a live launch makes a flattened child (R160). -/
def execLnch (rd ra rb : GReg) (disp : BitVec 20) (s : State) : Host.Outcome State Fault Refusal :=
  runStrand (issuePlain 8 [ra, rb] [rd] do
    let a := (← srcG ra) + sx64 disp
    let pr ← srcG rb
    checkDest rd
    if a.toNat % 32 ≠ 0 then trap Cause.align a
    if field pr 3 61 ≠ 0 then trap Cause.illegal (regValue rb)
    releaseNow
    let img ← readBytes (← get).me .load a 32
    let s ← get
    let p := s.partAt s.myPart
    let b := Block.of img
    if b.refused p then trap Cause.launch a
    if p.ticketsFull then stall .memory
    let x := s.cur
    let live := x.member && (p.liveLaunch x.lnum).isSome
    let t := p.nextTicket
    upd fun s => (s.enqueue s.myPart
      (b.launch t.toNat true pr.toNat a s.me.asid (if live then some x.lnum else none) none)).modPart s.myPart fun p =>
        { p with nextTicket := p.nextTicket + 1 }
    writeG rd (zx64 t)) s

/-- Whether a launch's outcome may be reported (R305): recorded, and for a launch of its own no work pending. -/
def State.reportable (s : State) (part : Nat) (l : Launch) : Bool :=
  l.outcome.isSome && l.phase == .over && (l.parent.isSome || ! l.numbered || ! s.pendingWork part l.lnum)

/-- The result of Table 13.8. -/
def Launch.report (l : Launch) : Word :=
  let n := if l.parent.isSome ∧ l.placed = 0 then 0 else l.lnum.toNat
  BitVec.ofNat 64 (n * 2 ^ 32 + l.failed.toNat * 2 ^ 16 + l.parent.isSome.toNat * 256 + (l.outcome.getD 0).toNat)

/-- LWAIT (R305), an acquire (R96). -/
def execLwait (rd ra : GReg) (s : State) : Host.Outcome State Fault Refusal :=
  runStrand (issuePlain 8 [ra] [rd] do
    let t ← srcG ra
    checkDest rd
    acquireGate
    let s ← get
    match (s.partAt s.myPart).launches.find? fun l => l.ticketed && l.ticket == t.toNat with
    | none => writeG rd 0xFF
    | some l =>
      if ! s.reportable s.myPart l then stall .message
      upd fun s => s.modPart s.myPart fun p => { p with launches := p.launches.filter fun k => ! (k.ticketed && k.ticket == t.toNat) }
      writeG rd l.report) s

/-- The abort of a launch by its ticket (R306): queued, it is removed; live, it is aborted; a child aborts its parent. -/
def State.abortLaunch (s : State) (part : Nat) (l : Launch) : State :=
  if l.outcome.isSome then s
  else
    match l.phase with
    | .queued => s.modLaunch part l.ticket fun k => { k with phase := .over, outcome := some 0x23, lnum := 0 }
    | .live =>
      match l.parent with
      | none => s.abortTag part l.tag 0x23
      | some n =>
        match (s.partAt part).liveLaunch n with
        | some q => s.abortTag part q.tag 0x23
        | none => s
    | .over => s

/-- LABRT (R306). -/
def execLabrt (ra : GReg) (s : State) : Host.Outcome State Fault Refusal :=
  runStrand (issuePlain 8 [ra] [] do
    let t ← srcG ra
    let s ← get
    let x := s.cur
    if t = BitVec.allOnes 64 then
      match (if x.member then (s.partAt s.myPart).liveLaunch x.lnum else none) with
      | some l => upd fun s => s.abortTag s.myPart l.tag 0x23
      | none => pure ()
    else
      match (s.partAt s.myPart).launches.find? fun l => l.ticketed && l.ticket == t.toNat with
      | some l => upd fun s => s.abortLaunch s.myPart l
      | none => pure ()) s

/-! ### Placement -/

/-- The head of the highest non-empty level (R348, R349). -/
def Part.head (p : Part) : Option Launch :=
  (List.range 8).foldl
    (fun acc pr =>
      match p.launches.find? fun l => l.phase == .queued && l.prio == pr with
      | some l => some l
      | Option.none => acc)
    Option.none

/-- Whether nothing names a tag any more once the sweep has passed: it is not live. -/
def State.tagSpare (s : State) (p : Nat) (t : BitVec 8) : Bool := t != 0 && s.tagState p t != 1

/-- The next spare tag in ascending order after the last assigned, wrapping from 255 to 1 (R142). -/
def State.nextTag (s : State) (p : Nat) : Option (BitVec 8) :=
  ((List.range 255).map fun i => BitVec.ofNat 8 (((s.partAt p).lastTag.toNat + i) % 255 + 1)).find? fun t => s.tagSpare p t

/-- The VER records of a bucket name a tag no more. -/
def State.clearVerTag (s : State) (p b : Nat) (t : BitVec 8) : State :=
  (List.range 16).foldl
    (fun u i =>
      let at_ := overflowAt (u.partAt p).shob (u.partAt p).shos b i
      let h := BitVec.ofNat 256 (u.load at_ 32)
      let v := Ver.unpack h 64
      if bit h 0 ∧ bit h 1 ∧ (v.wt :: v.rt.toList).contains t then
        let keep (x : BitVec 8) : BitVec 8 := if x = t then 0 else x
        u.storeBytes (at_ + 8) (toBytes 8 (Ver.pack { v with wt := keep v.wt, rt := v.rt.map keep }))
      else u)
    s

/-- The background sweep of a tag (R157): what it left is merged or discarded, its granule fields are cleared, and the copies filled
under it, fetched blocks among them, are dropped, so that the tag's next launch finds none of them (R161). -/
def State.sweepTag (s : State) (p : Nat) (t : BitVec 8) : State :=
  let grans (ws : List ShadowWay) : List Nat := (ws.filter fun w => w.part == p && w.tag == t).map (·.gran)
  let gs := (s.dies.flatMap fun d => grans d.2.shadows) ++ grans (s.partAt p).spills
  let s := gs.foldl (fun u g => u.mergeGranule g) s
  let s := if bit (s.partAt p).shos 5 then
      (List.range (2 ^ field (s.partAt p).shos 0 5)).foldl (fun u b => (u.cleanBucket p b).clearVerTag p b t) s
    else s
  let keep (x : BitVec 8) : BitVec 8 := if x = t then 0 else x
  let clear (d : Die) : Die :=
    { d with
      tags := d.tags.map fun e =>
        if s.homeCheck p (e.gran * 2048) = .ok then { e with ver := { e.ver with wt := keep e.ver.wt, rt := e.ver.rt.map keep } } else e
      rdc := d.rdc.filter fun e => ! (e.2.vtag == t && s.homeCheck p (e.1 * 64) == .ok) }
  let s := { s with dies := s.dies.map fun (d : Nat × Die) => (d.1, clear d.2) }
  { s with cores := s.cores.map fun (c : Nat × Core) =>
      if s.partOf c.1 = p then
        (c.1, { c.2 with
          l1 := c.2.l1.filter fun e => e.2.vtag != t
          icache := c.2.icache.filter fun e => e.1 % 256 != t.toNat })
      else c }

/-- The class of a core for placement: 0 Idle, 1 Compute, 2 Memory; all are Memory with ITHR = 0 (R350). -/
def State.coreClass (s : State) (part core : Nat) : BitVec 2 := if s.ithr part = 0 then 2 else (s.coreAt core).winClass

/-- The class of a launch by the classifier table (R350). -/
def State.launchClass (s : State) (part : Nat) (l : Launch) : BitVec 2 :=
  if s.ithr part = 0 then 2
  else
    match (s.partAt part).classes.find? fun e => e.1 == l.entry with
    | some e => e.2
    | none => 2

/-- A look-up of a launch's entry in the classifier table makes it the most recently used (R350). -/
def State.useClass (s : State) (part : Nat) (l : Launch) : State :=
  match (s.partAt part).classes.find? fun e => e.1 == l.entry with
  | some e => s.modPart part fun p => { p with classes := e :: p.classes.filter fun x => x.1 != l.entry }
  | none => s

/-- The order of preference of a core: group, then deque occupancy, then VCN (R351). -/
def State.preference (s : State) (part : Nat) (l : Launch) (e : Nat × Nat) : Nat × Nat × Nat :=
  let k := s.coreClass part e.2
  (if k = 0 then 0 else if k ≠ s.launchClass part l then 1 else 2, (s.coreAt e.2).deqLen, e.1)

/-- Whether a preference comes before another. -/
def prefBefore (a b : Nat × Nat × Nat) : Bool :=
  decide (a.1 < b.1) || (a.1 == b.1 && (decide (a.2.1 < b.2.1) || (a.2.1 == b.2.1 && decide (a.2.2 < b.2.2))))

/-- Insertion into a list ordered by preference. -/
def insertPref (f : Nat × Nat → Nat × Nat × Nat) (e : Nat × Nat) : List (Nat × Nat) → List (Nat × Nat)
  | [] => [e]
  | x :: rest => if prefBefore (f e) (f x) then e :: x :: rest else x :: insertPref f e rest

/-- The VCNs chosen for a launch; `none` while the partition has too few cores that are up. -/
def State.chooseCores (s : State) (part : Nat) (l : Launch) : Option (List Nat) :=
  let cs := (s.partAt part).vcnMap.filter fun e => (s.coreAt e.2).up
  let sorted := cs.foldr (insertPref (s.preference part l)) []
  if sorted.length < l.cores then none
  else
    match s.forced part .placement (s.rootCore part) with
    | .free => some ((sorted.take l.cores).map (·.1))
    | .value v => some v
    | .wait => none

/-- The image of a launch's program is written from offset 0 of a core's local store, before the launch's first strand starts there (R192);
the seals follow the image (R298). -/
def State.writeImage (s : State) (part : Nat) (l : Launch) (core : Nat) : State :=
  match (s.partAt part).images.find? fun e => e.asid == l.asid && e.block == l.block with
  | none => s
  | some e => (s.storeBytes (lsKey core 0) (e.bytes.take 0x70000)).rebuildSeals core

/-- Writes the image of the n-th core placed and pushes its initial records (R192, R304). -/
def State.pushInitial (s : State) (part : Nat) (l : Launch) (lnum : BitVec 16) (n vcn : Nat) : State :=
  match s.vcnCore part vcn with
  | none => s
  | some core =>
    (List.range l.slots).foldl
      (fun t k =>
        t.pushOrWait core
          { (Rec.of l.entry l.block (BitVec.ofNat 32 (n * l.slots + k))) with
            m := l.mflag, t := l.tolerant, join := launchJb l.ticket, l := true, lnum := lnum })
      (s.writeImage part l core)

/-- Places a launch under a number: its cores, its records (R351). -/
def State.placeLaunch (s : State) (part : Nat) (l : Launch) (lnum : BitVec 16) (vcns : List Nat) : State :=
  let root := s.rootCore part
  let s := (s.logChoice part .placement root vcns).takeForced part fun e => e.same .placement root
  (vcns.zipIdx).foldl (fun t e => t.pushInitial part l lnum e.2 e.1) s

/-- A placement that replay forces and that cannot be made yet. -/
def State.forcedIfReplay (s : State) (part : Nat) : State :=
  if (s.partAt part).replay = .replay then s.forcedWait part (s.rootCore part) else s

/-- LAUNCH_PLACEMENT (R349, R351): the head of the queue is taken when it may be; otherwise the occurrence stays due. -/
def State.launchPlacement (s : State) (part : Nat) : State :=
  let p := s.partAt part
  match p.head with
  | none => s
  | some l =>
    let s := s.useClass part l
    match s.chooseCores part l with
    | none => (s.forcedIfReplay part).post (.launchPlacement part)
    | some vcns =>
      match l.parent with
      | some n =>
        let s := s.modLaunch part l.ticket fun k => { k with phase := .live, lnum := n, numbered := true, placed := vcns.length, vcns := vcns }
        s.placeLaunch part l n vcns
      | none =>
        let lnum := p.nextLnum
        match s.nextTag part with
        | none => s.post (.launchPlacement part)
        | some tag =>
          if 64 ≤ (s.liveTags part).length ∨ s.pendingWork part lnum then s.post (.launchPlacement part)
          else
            let s := s.sweepTag part tag
            let e := BitVec.ofNat 32 (2 ^ 30 + l.tolerant.toNat * 2 ^ 29 + lnum.toNat)
            let s := s.modPart part fun p =>
              { p with nextLnum := p.nextLnum + 1, lastTag := tag, vst := p.vst.set tag.toNat e }
            let s := s.modLaunch part l.ticket fun k =>
              { k with phase := .live, lnum := lnum, numbered := true, tag := tag, placed := vcns.length, vcns := vcns }
            (s.placeLaunch part l lnum vcns).post (.launchCommit part lnum.toNat)

/-- LAUNCH_PLACEMENT. -/
def execLaunchPlacement (part : Nat) (s : State) : Host.Outcome State Fault Refusal := .next (s.launchPlacement part)

end Sys2Proof.Machine
end

