-- ==== Sys2Proof/Machine/Strands.lean ====
section
/-! DEFINITION. Creating, joining, ending, moving and pinning strands (R278 to R286), and the occurrences that give slots their
strands (R176, R177, R179, R170). -/

namespace Sys2Proof.Machine

/-! ### Creating strands -/

/-- Pushes a record onto a core's deque, or faults with SPILL, XVALUE the core's VCN (R175, R279); the strand waits while a spill waits. -/
def pushRecord (core : Nat) (r : Rec) : Exec Unit := fun s =>
  match s.pushBottom core r.pack with
  | (t, .put) => .ok ((), t)
  | (t, .held) => .error (.wait .memory t)
  | (t, .full) => .error (.trapIn t Cause.spill (BitVec.ofNat 64 (s.vcnOf core)) false)

/-- FORK (R278): a transfer never taken, so the next two instructions are its delay slots. -/
def execFork (ra rb rc : GReg) (disp : BitVec 32) (s : State) : Host.Outcome State Fault Refusal :=
  runStrand (do
    scoreboard [ra, rb, rc]
    repGate false []
    noDelaySlot
    let arg ← srcG ra
    let frame ← srcG rb
    let jb ← srcG rc
    releaseNow
    let s ← get
    let x := s.cur
    let r := { Rec.of (x.pc + 4 * sx64 disp) frame (BitVec.ofNat 32 arg.toNat) with join := jb, m := x.isMig }
    pushRecord s.core (r.pushedBy x.member x.lnum)
    modCur fun x => x.transfer 8 none) s

/-- The record in memory of SPAWN and GANG: 32-aligned, loaded with R, numbered for the issuing strand (R279, R414). -/
def loadRecord (ra : GReg) : Exec Rec := do
  let a ← srcG ra
  if a.toNat % 32 ≠ 0 then trap Cause.align a
  releaseNow
  let bs ← readBytes (← get).me .load a 32
  let x ← cur
  return { (Rec.unpack (BitVec.ofNat 256 (ofBytes bs))).pushedBy x.member x.lnum with t := false }

/-- SPAWN (R279). -/
def execSpawn (ra rb : GReg) (s : State) : Host.Outcome State Fault Refusal :=
  runStrand (issuePlain 8 [ra, rb] [] do
    let v ← srcG rb
    let r ← loadRecord ra
    if field v 11 53 ≠ 0 then trap Cause.illegal (regValue rb)
    let s ← get
    match s.vcnCore s.myPart v.toNat with
    | none => trap Cause.notPresent (windowAt v.toNat)
    | some c => do
      injectWindow s.me c true 32
      pushRecord c r) s

/-- Whether a slot is vacant and unstopped. -/
def Slot.free (x : Slot) : Bool := ! x.occupied && ! x.stopped

/-- The lowest user slot that is vacant and unstopped on all four cores of a quad (R279). -/
def State.gangSlot (s : State) (core : Nat) : Option Nat :=
  (List.range 15).find? fun n => (quadCores core).all fun c => (s.slotAt c n).free

/-- Starts one gang member: G = 1, LIVE all ones, M = 0. -/
def State.startMember (s : State) (core n : Nat) (r : Rec) : State :=
  let s := s.startRecord core n r
  s.modSlot core n fun x =>
    if x.occupied then { x with status := setField (setBit (setBit x.status 15 true) 13 false) 16 4 15 } else x

/-- GANG (R279). -/
def execGang (ra : GReg) (s : State) : Host.Outcome State Fault Refusal :=
  runStrand (issuePlain 8 [ra] [] do
    let r ← loadRecord ra
    let s ← get
    match s.gangSlot s.core with
    | none => stall .memory
    | some n => set ((quadCores s.core).foldl (fun t c => t.startMember c n r) s)) s

/-! ### Ending, joining and counting -/

/-- Waits until every token of the strand is written and its reductions are complete (R281, R282): JOIN not-ready on message, EXIT on memory
(Table 7.4). -/
def settled (w : Wait) : Exec Unit := do
  let x ← cur
  if x.pend ≠ 0 ∨ x.osc ≠ 0 then stall w

/-- The strand ends: its ends are dropped and its slot becomes vacant. -/
def State.endStrand (s : State) (core slot : Nat) : State := (s.dropEnds core slot).vacate core slot

/-- JOIN (R281): the strand ends, or becomes the continuation of its core. -/
def execJoin (ra : GReg) (m : MForm) (s : State) : Host.Outcome State Fault Refusal :=
  runStrand (do
    scoreboard [ra]
    repGate false []
    noDelaySlot
    let a ← ea ra m
    settled .message
    let s ← get
    let x := s.cur
    match ← joinBlock s.me a false with
    | some (r, owner) =>
      if owner = s.core then
        upd fun t => (t.endStrand s.core s.slot).startRecord s.core s.slot (r.pushedBy x.member x.lnum)
      else upd fun t => (t.joinPush x (some (r, owner))).endStrand s.core s.slot
    | none => upd fun t => t.endStrand s.core s.slot
    upd fun t => t.childEnd s.myPart x.jb) s

/-- JDEC (R281). -/
def execJdec (ra : GReg) (m : MForm) (s : State) : Host.Outcome State Fault Refusal :=
  runStrand (issuePlain 8 [ra] [] do
    let a ← ea ra m
    releaseNow
    let s ← get
    let e ← joinBlock s.me a false
    upd fun t => t.joinPush s.cur e) s

/-- EXIT (R282): the decrement of JB, then the end; a decrement that faults leaves the strand as it is. -/
def execExit (s : State) : Host.Outcome State Fault Refusal :=
  runStrand (do
    repGate false []
    noDelaySlot
    settled .memory
    let s ← get
    let x := s.cur
    if x.jb ≠ 0 then
      let e ← joinDecrement s.me x.jb false
      upd fun t => t.joinPush x e
    upd fun t => (t.endStrand s.core s.slot).childEnd s.myPart x.jb) s

/-- YIELD (R284): the slot is not ready until the visit after its next one. -/
def execYield (s : State) : Host.Outcome State Fault Refusal :=
  runStrand (issuePlain 8 [] [] (modCur fun x => { x with yielded := 2 })) s

/-! ### Moving and pinning -/

/-- MIGR (R285): to the home quad of an address; the strand resumes at the next instruction there. -/
def execMigr (ra : GReg) (s : State) : Host.Outcome State Fault Refusal :=
  runStrand (do
    scoreboard [ra]
    repGate false []
    noDelaySlot
    let a ← srcG ra
    let x ← cur
    if x.anchored ∨ x.holdsEnd ∨ x.isNb ∨ x.pin ∨ x.isGang then trap Cause.anchor 0
    let s ← get
    let p ← resolve s.me .load a 1
    match s.homeQuad s.me a p with
    | none => modCur fun x => x.advance 8
    | some h =>
      if h = s.core / 4 then modCur fun x => x.advance 8
      else
        if x.pend ≠ 0 ∨ x.osc ≠ 0 then stall .memory
        if 16 ≤ (s.quadAt h).landing.length then stall .message
        injectAt s.me s.core 3
        modCur fun x => x.advance 8
        upd fun t => t.migrate s.core s.slot h) s

/-- PIN (R286). -/
def execPin (s : State) : Host.Outcome State Fault Refusal :=
  runStrand (issuePlain 8 [] [] (modCur fun x => { x with pin := true })) s

/-- UNPIN (R286). -/
def execUnpin (s : State) : Host.Outcome State Fault Refusal :=
  runStrand (issuePlain 8 [] [] (modCur fun x => { x with pin := false })) s

/-! ### Occurrences that give slots their strands -/

/-- Whether a core takes new strands: it is up, no save, restore or swap of its tenant is in progress (R176, R359, R376). -/
def Core.open_ (c : Core) : Bool := c.up && ! c.frozen

/-- The vector frames of the context cache are free of lists that handlers owe (R75). -/
def State.framesFree (s : State) (core : Nat) : State × Bool :=
  s.freeSoft (s.hardware core) (s.frameAddr (s.partOf core) (s.vcnOf core) 16) 0x10000

/-- SLOT_POP (R176): a vacant user slot restores the oldest cached context, else pops a record. -/
def State.slotPop (s : State) (core slot : Nat) : State :=
  if 15 ≤ slot ∨ ! (s.coreAt core).open_ ∨ ! (s.slotAt core slot).free then s
  else
    match s.cached core with
    | e :: _ =>
      let (s, free) := s.framesFree core
      if free then s.restoreContext core slot e else s
    | [] =>
      match s.deqPop core with
      | (s, some r) => s.startRecord core slot (Rec.unpack r)
      | (s, none) => s

/-- SLOT_POP. -/
def execSlotPop (core slot : Nat) (s : State) : Host.Outcome State Fault Refusal := .next (s.slotPop core slot)

/-- CONTEXT_RESTORE_COMPLETE (R354): the slice timer starts; COST is the cycles of a slice switch, and one that finds LEN below COST
sets RAISED. -/
def execContextRestoreComplete (core slot : Nat) (s : State) : Host.Outcome State Fault Refusal :=
  let x := s.slotAt core slot
  if ! x.restoring then .next s
  else
    let s := s.modSlot core slot fun x => { x with restoring := false, slice := 0, expired := false, switchAt := none }
    match x.switchAt with
    | none => .next s
    | some t =>
      .next (s.modCore core fun c =>
        let cost := c.cycle.toNat - t
        { c with cost := cost, raised := c.raised || (c.sliceLen != 0 && decide (c.sliceLen.toNat < cost)) })

/-- Whether a core is empty: a vacant user slot, an empty deque and an empty spill segment (R177). -/
def State.isEmptyCore (s : State) (core : Nat) : Bool :=
  let c := s.coreAt core
  c.open_ && c.deqLen == 0 && c.batches == 0
    && (List.range 15).any fun k => (s.slotAt core k).free

/-- The eight attempts on the die (R177). -/
def stealOffsets : List (Nat × Nat) := [(1, 0), (0, 1), (1, 1), (2, 0), (0, 2), (2, 2), (3, 1), (1, 3)]

/-- The victims of core `c` on its die, in order: core (c + i) mod 4 of quad (x XOR a, y XOR b); an attempt outside the mesh or
the partition is skipped. -/
def State.dieVictims (s : State) (c : Nat) : List Nat :=
  let q := c / 4 % 64
  let d := c / 256
  (stealOffsets.zipIdx).filterMap fun e =>
    let x := q % 8 ^^^ e.1.1
    let y := q / 8 ^^^ e.1.2
    let v := d * 256 + (y * 8 + x) * 4 + (c + e.2) % 4
    if x < 8 ∧ y < 8 ∧ s.partOf v = s.partOf c then some v else none

/-- The quad siblings of a core, round-robin from the one after `last` (R177): position within the quad. -/
def siblings (c last : Nat) : List Nat :=
  ((List.range 4).map fun i => c / 4 * 4 + (last + 1 + i) % 4).filter (· != c)

/-- Steals from the first victim with a record; siblings come first. The record goes into the thief's own deque, from which a pop takes it (DESIGN CHOICE, log 83). -/
def State.stealFrom (s : State) (core : Nat) : List Nat → State
  | [] => s
  | v :: rest =>
    let s := if v / 4 = core / 4 then s.modCore core fun c => { c with stealSib := v % 4 } else s
    if ! (s.coreAt v).open_ then s.stealFrom core rest
    else
      match s.deqSteal v with
      | (s, none) => s.stealFrom core rest
      | (s, some r) => ((s.countPair core (v / 4) 1 1).deqPut core r).logChoice (s.partOf core) .steal core [v]

/-- STEAL (R177): in replay the victim is the logged one, and the steal waits until it has a record (R393). -/
def State.steal (s : State) (core : Nat) : State :=
  if ! s.isEmptyCore core then s
  else
    let s := s.modCore core fun c => { c with stealAt := c.cycle.toNat }
    match s.forced (s.partOf core) .steal core with
    | .free => s.stealFrom core (siblings core (s.coreAt core).stealSib ++ s.dieVictims core)
    | .wait => s
    | .value vs =>
      let v := vs.headD core
      match (if (s.coreAt v).open_ then s.deqSteal v else (s, none)) with
      | (_, none) => s.forcedWait (s.partOf core) core
      | (t, some r) => ((t.countPair core (v / 4) 1 1).deqPut core r).takeForced (s.partOf core) fun e => e.same .steal core

/-- STEAL. -/
def execSteal (core : Nat) (s : State) : Host.Outcome State Fault Refusal := .next (s.steal core)

/-- The lowest-numbered core of a quad with a vacant user slot in a partition, and that slot (R179). -/
def State.landingPlace (s : State) (quad part : Nat) : Option (Nat × Nat) :=
  (List.range 4).findSome? fun i =>
    let c := quad * 4 + i
    if s.partOf c ≠ part ∨ ! (s.coreAt c).open_ then none
    else ((List.range 15).find? fun k => (s.slotAt c k).free).map fun k => (c, k)

/-- The slot of a strand that lands: of its registers, the migratable context and nothing else, with the header that travels beside it
(R162, R164, R417). -/
def Slot.landed (x old : Slot) : Slot :=
  { old.fresh with
    occupied := true, sid := x.sid, g := x.g, pc := x.pc, status := x.status, tags := x.tags, jb := x.jb, lnum := x.lnum, member := x.member
    asid := x.asid, entered := x.entered, slotPos := x.slotPos, kill := x.kill, stopReq := x.stopReq }

/-- Lands the strands of a quad's queue that find a place; the others stay in order. In replay the core is the logged one. -/
def State.land (s : State) (quad : Nat) : List Migrant → State
  | [] => s
  | m :: rest =>
    let place := match s.forced m.part .landing (quad * 4) with
      | .free => s.landingPlace quad m.part
      | .wait => none
      | .value v =>
        let c := v.headD 0
        if ! (s.coreAt c).open_ then none
        else ((List.range 15).find? fun k => (s.slotAt c k).free).map fun k => (c, k)
    match place with
    | none => (s.modQuad quad fun q => { q with landing := q.landing ++ [m] }).land quad rest
    | some (c, k) =>
      let s := s.setSlot c k (m.slot.landed (s.slotAt c k))
      let s := (s.logChoice m.part .landing (quad * 4) [c]).takeForced m.part fun e => e.same .landing (quad * 4)
      s.land quad rest

/-- MIGRATION_LANDING (R179). -/
def execMigrationLanding (quad : Nat) (s : State) : Host.Outcome State Fault Refusal :=
  let ms := (s.quadAt quad).landing
  if ms = [] then .next s
  else
    let s := (s.modQuad quad fun q => { q with landing := [] }).land quad ms
    .next (if (s.quadAt quad).landing = [] then s else s.post (.migrationLanding quad))

/-- A kill that a strand awaits is carried out at its boundary (R368, R158). -/
def State.reap (s : State) (core slot : Nat) : State :=
  match (s.slotAt core slot).kill with
  | some f => if (s.slotAt core slot).occupied then s.discard core slot f else s.modSlot core slot fun x => { x with kill := none }
  | none => s

/-- A stop that a strand awaits takes effect at its boundary (R380). -/
def State.takeStop (s : State) (core slot : Nat) : State :=
  if (s.slotAt core slot).stopReq then s.modSlot core slot fun x => { x with stopReq := false, stopped := true } else s

/-- DEBUG_STOP is posted for strands that have stopped (R380). -/
def State.postStops (s : State) (core : Nat) (slots : List Nat) : State :=
  slots.foldl (fun t k => t.postEvent core Cause.debugStop (BitVec.ofNat 64 k)) s

end Sys2Proof.Machine
end

