-- ==== Sys2Proof/Machine/Tenants.lean ====
section
/-! DEFINITION. Tenants on the move: the exchange of a placement swap or a resize (R140, R357 to R361, R416), and tenant save and
restore (R372 to R379, R404 to R406, R418). -/

namespace Sys2Proof.Machine

/-! ### Quiescing (R115, R359, R376) -/

/-- Whether a strand belongs with its core's tenant: it is pinned, or it holds a tenon or a mortise. -/
def Slot.ofTenant (x : Slot) : Bool := x.occupied && (x.pin || x.holdsEnd)

/-- Whether a strand stands at a boundary where its context may leave: no pending target, no block, its reductions and its requests
to the host complete. -/
def Slot.quiet (x : Slot) : Bool :=
  x.ds == 0 && ! x.inRep && x.osc == 0 && ! x.inHost

/-- Whether a strand may leave as it stands: a suspended or stopped one does (R376). -/
def Slot.leaves (x : Slot) : Bool := ! x.occupied || x.quiet || ((x.trapped || x.stopped) && x.osc == 0)

/-- Whether a strand of a core is held at a boundary by a save, a resize or a swap of its tenant. -/
def State.heldBack (s : State) (core slot : Nat) : Bool :=
  let c := s.coreAt core
  let x := s.slotAt core slot
  slot != 15 && x.occupied && x.ds == 0 && ! x.inRep && (c.saving.isSome || (c.frozen && x.ofTenant))

/-! ### Channel records that leave with a tenant (R140, R416) -/

/-- The record at the new core, built from the tenant's own. A mortise whose last drain has finished (DFIN) keeps its drain fields, which Table 5.10
does not name (DESIGN CHOICE, log 84). -/
def ChanRec.moved (r : ChanRec) : ChanRec :=
  if r.side = .tenon then
    { r with tmove := r.tmove + 1, newt := r.tmove + 1, recv := 0, dn := 0, dnv := false, upp := true, upr := 0, upn := 0, fwdn := 0 }
  else if r.dfin then { r with move := r.move + 1, upp := true, upr := 0, upn := 0, fwdn := 0 }
  else { r with move := r.move + 1, df := r.cons, dnew := r.move + 1, dtm := r.tmove, upp := true, upr := 0, upn := 0, fwdn := 0 }

/-- The stub that stays: claimed, and it forwards every arrival without storing it. Its CONS is the lowest sequence that has not arrived;
what has arrived above it stays noted. -/
def ChanRec.movedStub (r : ChanRec) (target : Nat) (vcn : Bool) : ChanRec :=
  let r := if r.side = .mortise then advanceFwd 257 r else r
  { r.stub with claimed := true, target := target, targetVcn := vcn, marks := 0, drops := [] }

/-- The records that belong to a core's tenant: those that are no stubs (R416). -/
def State.tenantRecs (s : State) (core : Nat) : Map ChanRec := (s.recsAt core).filter fun e => ! e.2.isStub

/-- The records of a tenant become stubs; they are what leaves. A stub that has met the retirement test retires (R137). -/
def State.leaveRecords (s : State) (core target : Nat) (vcn : Bool) : State × List ChanRec :=
  let rs := s.tenantRecs core
  (rs.foldl (fun t e => (t.setRec core e.1 (e.2.movedStub target vcn)).settleRec core e.1) s, rs.map (·.2))

/-- Places records in the lowest slots that suit beside those already there; none where they do not fit. -/
def placeRecs (m : Map ChanRec) : List ChanRec → Option (List (Nat × ChanRec))
  | [] => some []
  | r :: rest =>
    match freeSlot m r.side with
    | none => none
    | some k => (placeRecs (m.set k r) rest).map ((k, r) :: ·)

/-- The records of the mortise side first, since they need two slots. -/
def mortisesFirst (rs : List ChanRec) : List ChanRec := rs.filter (·.side == .mortise) ++ rs.filter (·.side == .tenon)

/-- Whether records have a place on a core. -/
def State.recsFit (s : State) (core : Nat) (rs : List ChanRec) : Bool := (placeRecs (s.recsAt core) (mortisesFirst rs)).isSome

/-- Builds the records that have arrived with a tenant; their slots. -/
def State.buildRecords (s : State) (core : Nat) (rs : List ChanRec) : State × List Nat :=
  let ps := (placeRecs (s.recsAt core) (mortisesFirst rs)).getD []
  ((ps.foldl (fun t e => t.putRec core e.1 e.2.moved) s).rebuildSeals core, ps.map (·.1))

/-- The notices of records that have arrived with a tenant: REPOINT or ANNOUNCE and no CLAIM; the drops that a SHUT record owes become
due on its new core (R133). -/
def State.announceRecords (s : State) (core : Nat) (slots : List Nat) : State :=
  slots.foldl
    (fun t k =>
      match (t.recsAt core).find k with
      | none => t
      | some r =>
        if r.isStub then t
        else
          let t := (t.announce core k r).settleRec core k
          if r.state = .shut ∧ (r.marks ≠ 0 ∨ r.drops ≠ []) then t.post (.takeAndDrop core k) else t)
    s

/-! ### Strands that arrive -/

/-- The lowest free entry of the thread-context cache. -/
def State.freeEntry (s : State) (core : Nat) : Option Nat := (List.range 8).find? fun e => ! (s.cached core).contains e

/-- A strand that arrives: in the lowest vacant user slot, else in the thread-context cache (R360, R378). A suspended one that
finds a slot is reported afresh when `report`; one that sleeps executes its SLEEP again with its full count (R243); its slice starts (R354). -/
def State.landTenant (s : State) (core vcn : Nat) (report : Bool) (x : Slot) : State :=
  match (List.range 15).find? fun k => (s.slotAt core k).free with
  | some k =>
    let old := s.slotAt core k
    let s := s.setSlot core k
      { x with
        lossI := old.lossI, lossM := old.lossM, lossG := old.lossG, lossV := old.lossV
        traceI := old.traceI, traceM := old.traceM, traceG := old.traceG, traceV := old.traceV
        wait := .none, sleep := none, issuedInWindow := old.issuedInWindow
        slice := 0, expired := false, restoring := false, switchAt := none }
    if report ∧ x.trapped then
      s.pushTrap core { w0 := trapWord0 0 0 k (bit x.xcause 8) (BitVec.ofNat 8 x.xcause.toNat), w1 := x.xvalue }
    else s
  | none =>
    match s.freeEntry core with
    | some e => s.saveContext core vcn e x
    | none => s

/-- The user strands of a core that satisfy a test leave their slots; a trap record that waited in its slot goes with its strand (R364). -/
def State.takeSlots (s : State) (core : Nat) (f : Slot → Bool) : State × List Slot :=
  let xs := (s.coreAt core).slots.filter fun e => decide (e.1 < 15) && e.2.occupied && f e.2
  (xs.foldl (fun t e => (t.dropHeld core e.1).setSlot core e.1 e.2.fresh) s, xs.map (·.2))

/-! ### The exchange (R360) -/

/-- Record slots that records use. -/
def recSlots (rs : List ChanRec) : Nat := rs.foldl (fun n r => n + (if r.side = .mortise then 2 else 1)) 0

/-- The ranges of a core's local store that belong to its tenant: not the quad's part of core 0, nor the channel area, whose stubs stay
and whose records are built anew (R416). -/
def tenantRanges (quadPart : Bool) : List (Nat × Nat) :=
  (0, 0x74000) :: (if quadPart then [(0x78000, 0x100), (0x7C000, 0x4000)] else [(0x78000, 0x8000)])

/-- Exchanges the tenants' local stores. The stored elements of an unclaimed mortise stub, whose buffer R136 leaves with the stub, move with the
whole store all the same, as R360 gives (DESIGN CHOICE, log 84). -/
def State.swapStores (s : State) (p q : Nat) : State :=
  (tenantRanges (p % 4 == 0 || q % 4 == 0)).foldl
    (fun t r =>
      let a := Memory.readList t.mem (lsKey p r.1) r.2
      let b := Memory.readList t.mem (lsKey q r.1) r.2
      (t.storeBytes (lsKey p r.1) b).storeBytes (lsKey q r.1) a)
    s

/-- Exchanges what belongs to the tenants among the registers and tables of their cores. -/
def State.swapTables (s : State) (p q : Nat) : State :=
  let a := s.coreAt p
  let b := s.coreAt q
  let give (x y : Core) : Core :=
    { x with
      descs := y.descs, grants := y.grants, armed := y.armed, active := y.active, shadow := y.shadow, newPlane := y.newPlane
      plate := y.plate, truss := y.truss, dqt := y.dqt, dqb := y.dqb, popN := y.popN, batches := y.batches, deqWait := y.deqWait
      kept := y.kept, vcn := y.vcn }
  (s.setCore p (give a b)).setCore q (give b a)

/-- Where a core of an exchanged pair's counterpart is. -/
def otherOf (p q core : Nat) : Nat := if core = p then q else if core = q then p else core

/-- The owner of a command after the exchange: it moves with its strand. -/
def State.movedOwner (s : State) (p q : Nat) (moved : List Nat) (o : Owner) : Owner :=
  if moved.contains o.sid ∧ (o.core = p ∨ o.core = q) then
    let c := otherOf p q o.core
    { o with core := c, slot := ((s.coreAt c).slotOf o.sid).getD o.slot }
  else o

/-- A local-store operand of a command whose strand stays, by which it named its core's store: it then names the same tenant's store
through its window. -/
def windowed (vcn : Nat) (a : Word) : Word :=
  if aliasBase ≤ a.toNat ∧ a.toNat < aliasBase + 2 ^ 19 then BitVec.ofNat 64 (windowBase + vcn * 2 ^ 19 + a.toNat % 2 ^ 19) else a

/-- A copy after the exchange (R360): the stores that it names are those of the same tenants, at their new cores. `vcnOf` gives the VCN that a
core's tenant had. -/
def State.movedCopy (s : State) (p q : Nat) (moved : List Nat) (vcnOf : Nat → Nat) (k : CopyCmd) : CopyCmd :=
  let owner := s.movedOwner p q moved k.owner
  let store := otherOf p q k.store
  let w (a : Word) : Word := if store ≠ owner.core then windowed (vcnOf k.store) a else a
  let offset : Bool := match k.instr with
    | .cpym _ _ _ _ _ => true
    | _ => false
  { k with
    a := if offset then k.a else w k.a
    b := w k.b
    owner := owner
    quiesced := false
    store := store
    targets := k.targets.map (otherOf p q)
    token := match k.token with
      | .word c off => .word (otherOf p q c) off
      | t => t }

/-- Puts a copy that had started into the engine of its owner's quad under a new index (R405). -/
def State.reissueCopy (s : State) (k : CopyCmd) : State :=
  let quad := k.owner.core / 4
  let i := (s.quadAt quad).freeIndex
  let s := s.modQuad quad fun q => { q with copies := q.copies ++ [{ k with index := i }] }
  if k.susp.isSome then s else s.post (if k.waiting then .deferredQueueRoom quad else .copyChunkDone quad i)

/-- The copies of the quads of a pair go where their strands run now; those of other strands go on where they are. -/
def State.moveCopies (s : State) (p q : Nat) (moved : List Nat) (vcnOf : Nat → Nat) : State :=
  let quads := if p / 4 = q / 4 then [p / 4] else [p / 4, q / 4]
  let mine (k : CopyCmd) : Bool := k.owner.core == p || k.owner.core == q
  let ks := quads.flatMap fun d => (s.quadAt d).copies.filter mine
  let s := quads.foldl (fun t d => t.modQuad d fun x => { x with copies := x.copies.filter fun k => ! mine k }) s
  let s := { s with quads := s.quads.map fun (d : Nat × Quad) =>
    (d.1, { d.2 with copies := d.2.copies.map fun k => { (s.movedCopy p q moved vcnOf k) with quiesced := k.quiesced } }) }
  ks.foldl (fun t k => t.reissueCopy (t.movedCopy p q moved vcnOf k)) s

/-- What the commands on a core's truss hold of the host and of their sources is read again where they go on. -/
def State.dropTruss (s : State) (core : Nat) : State :=
  (s.coreAt core).truss.foldl
    (fun t k =>
      (t.dropEngineHost k.owner.part (k.unit core)).modPart k.owner.part fun p => { p with sectors := Map.erase p.sectors (k.unit core) }) s

/-- The deferred-queue entries of a core's barriers, taken out of its quad's queue. -/
def State.takeDeferred (s : State) (core : Nat) : State × List (BitVec 128) :=
  (List.range 16).foldl
    (fun (acc : State × List (BitVec 128)) i =>
      let x := acc.1.deferredAt (core / 4) i
      if field x 96 32 ≠ 0 ∧ field x 21 2 = core % 4 then (acc.1.store (deferredKey (core / 4) i) 16 0, acc.2 ++ [x]) else acc)
    (s, [])

/-- Puts entries into the queue of a core's quad, naming that core. -/
def State.putDeferred (s : State) (core : Nat) : List (BitVec 128) → State
  | [] => s
  | x :: rest =>
    match s.deferredRoom (core / 4) with
    | [] => s
    | i :: _ => (s.store (deferredKey (core / 4) i) 16 (setField x 21 2 (core % 4)).toNat).putDeferred core rest

/-- Whether the queues of both quads have room for the entries that move. -/
def State.deferredFits (s : State) (p q : Nat) : Bool :=
  let (s, xs) := s.takeDeferred p
  let (s, ys) := s.takeDeferred q
  if p / 4 = q / 4 then true
  else decide (ys.length ≤ (s.deferredRoom (p / 4)).length) && decide (xs.length ≤ (s.deferredRoom (q / 4)).length)

/-- Feeds and truss commands of a pair follow their rings and their strands. -/
def State.moveFeeds (s : State) (p q : Nat) (moved : List Nat) : State :=
  { s with
    dies := s.dies.map fun (d : Nat × Die) =>
      (d.1, { d.2 with feeds := d.2.feeds.map fun f =>
        { f with ringCore := otherOf p q f.ringCore, owner := s.movedOwner p q moved f.owner } })
    cores := s.cores.map fun (c : Nat × Core) =>
      (c.1, { c.2 with truss := c.2.truss.map fun k => { k with owner := s.movedOwner p q moved k.owner } }) }

/-- Makes the commands of a core's truss due again. -/
def State.dueTruss (s : State) (core : Nat) : State :=
  (s.coreAt core).truss.foldl (fun t k => if k.susp.isSome then t else t.due (k.due core)) s

/-- Exchanges the VCN map entries of two cores of a partition. -/
def State.swapVcns (s : State) (part p q : Nat) : State :=
  s.modPart part fun x => { x with vcnMap := x.vcnMap.map fun e => (e.1, otherOf p q e.2) }

/-- The exchange of two tenants (R360): `all` moves every user strand, as a resize does, and reports the suspended ones afresh (log 26), else those
of the tenants. A core that holds no tenant takes part as an empty one. -/
def State.exchange (s : State) (part p q : Nat) (all : Bool) : State :=
  let vcnOf (c : Nat) : Nat := s.vcnOf c
  let vp := vcnOf p
  let vq := vcnOf q
  let f (x : Slot) : Bool := all || x.ofTenant
  let (s, xp) := s.takeSlots p f
  let (s, xq) := s.takeSlots q f
  let moved := (xp ++ xq).map (·.sid) ++ ((s.coreAt p).kept ++ (s.coreAt q).kept).map (·.sid)
  let (s, rp) := s.leaveRecords p q false
  let (s, rq) := s.leaveRecords q p false
  let (s, dp) := s.takeDeferred p
  let (s, dq) := s.takeDeferred q
  let s := (s.dropTruss p).dropTruss q
  let s := (s.swapStores p q).swapTables p q
  let s := s.swapVcns part p q
  let s := (s.putDeferred q dp).putDeferred p dq
  let s := xp.foldl (fun t x => t.landTenant q vp all x) s
  let s := xq.foldl (fun t x => t.landTenant p vq all x) s
  let s := (s.moveFeeds p q moved).moveCopies p q moved vcnOf
  let (s, kp) := s.buildRecords q rp
  let (s, kq) := s.buildRecords p rq
  let s := (s.announceRecords q kp).announceRecords p kq
  (s.dueTruss p).dueTruss q

/-! ### The traffic of whole local stores (R185, R360, R377) -/

/-- Whether the routers of cores admit the packets of their local stores in the swap class. -/
def State.swapRoom (s : State) (part : Nat) (cores : List Nat) : Bool := cores.all fun c => s.admits c (budgetKey part 3)

/-- Charges the 8,192 flits of each core's local store to the swap class of its router. -/
def State.chargeStores (s : State) (part : Nat) (cores : List Nat) : State :=
  cores.foldl (fun t c => t.countFlits c (budgetKey part 3) 8192) s

/-! ### Swaps (R359, R360) -/

/-- Suspends the copies that a swap touches, at their offsets: what a chunk has read is read again, and no request of theirs counts. -/
def State.quiesceCopies (s : State) (p q : Nat) : State :=
  s.quads.foldl
    (fun t (d : Nat × Quad) =>
      d.2.copies.foldl
        (fun t k =>
          if s.copyTouches p q k then
            (t.dropEngineHost k.owner.part (copyUnit d.1 k.index)).setCopy d.1 { k with quiesced := true, buf := none }
          else t)
        t)
    s

/-- Resumes the copies that a swap had suspended. -/
def State.resumeCopies (s : State) : State :=
  s.quads.foldl
    (fun t (d : Nat × Quad) =>
      d.2.copies.foldl
        (fun t k =>
          if k.quiesced then
            let t := t.setCopy d.1 { k with quiesced := false }
            if k.susp.isSome then t else t.post (if k.waiting then .deferredQueueRoom d.1 else .copyChunkDone d.1 k.index)
          else t)
        t)
    s

/-- Resumes the suspended copies, and suspends again those of the pairs still in progress. -/
def State.requiesce (s : State) : State :=
  s.dies.foldl (fun t (d : Nat × Die) => d.2.swaps.foldl (fun t w => t.quiesceCopies w.p w.q) t) s.resumeCopies

/-- The SWAP event value (R360). -/
def swapValue (partner reason : Nat) (abandoned : Bool) : Word := BitVec.ofNat 64 (partner * 2 ^ 32 + reason * 16 + abandoned.toNat)

/-- Both cores of a pair learn how the swap ended, and the trace records it. -/
def State.swapEvents (s : State) (p q reason : Nat) (abandoned : Bool) : State :=
  let note (s : State) (c v : Nat) : State :=
    (s.postEvent c Cause.swap (swapValue v reason abandoned)).trace (s.partOf c) 5 0 c 0
      (toBytes 8 (swapValue v reason abandoned).toNat)
  note (note s p q) q p

/-- A pair leaves the swap machinery. -/
def State.endPair (s : State) (p q : Nat) : State :=
  let s := s.modDie (p / 256) fun x => { x with swaps := x.swaps.filter fun w => ! (w.p == p && w.q == q) }
  let s := (s.modCore p fun c => { c with frozen := false }).modCore q fun c => { c with frozen := false }
  s.requiesce

/-- Abandons a swap (R359): nothing moves, and both cooldowns are 4. -/
def State.abandonSwap (s : State) (p q reason : Nat) : State :=
  let s := (s.endPair p q).swapEvents p q reason true
  (s.modCore p fun c => { c with cooldown := 4 }).modCore q fun c => { c with cooldown := 4 }

/-- The pair of a core, if it is in one. -/
def State.pairOf (s : State) (core : Nat) : Option SwapPair :=
  (s.dieAt (core / 256)).swaps.find? fun w => w.p == core || w.q == core

/-- A resize or a save that reaches a core in prepare abandons its swap (R359). -/
def State.breakPair (s : State) (core : Nat) : State :=
  match s.pairOf core with
  | some w => s.abandonSwap w.p w.q 5
  | none => s

/-- Whether a truss is busy: a stream runs, or an LSTA is in progress (Table 14.6). -/
def Core.trussBusy (c : Core) : Bool := c.truss.any fun k => ! k.swap

/-- Whether the record slots of a core suffice for its stubs, the stubs its tenant leaves and the records that arrive from another core
(R140). -/
def State.slotsSuffice (s : State) (core from_ : Nat) : Bool :=
  let rs := (s.tenantRecs from_).map (·.2)
  decide (recSlots ((s.recsAt core).map (·.2)) + recSlots rs ≤ 192) && s.recsFit core rs

/-- Whether strands that arrive at a core outnumber the places for them (R359). -/
def State.tooMany (s : State) (from_ dest : Nat) : Bool :=
  let n := ((s.coreAt from_).slots.filter fun e => decide (e.1 < 15) && e.2.ofTenant).length
  let vacant := ((List.range 15).filter fun k => (s.slotAt dest k).free || (s.slotAt dest k).ofTenant).length
  decide (vacant + (8 - (s.cached from_).length) < n)

/-- Why a swap in prepare is abandoned, if it is (R359). -/
def State.swapBlocked (s : State) (p q : Nat) : Option Nat :=
  if (s.coreAt p).trussBusy ∨ (s.coreAt q).trussBusy then some 1
  else if ! s.slotsSuffice p q ∨ ! s.slotsSuffice q p then some 2
  else if s.tooMany p q ∨ s.tooMany q p then some 3
  else none

/-- Whether prepare has succeeded: the tenants' strands are quiet. -/
def State.swapReady (s : State) (p q : Nat) : Bool :=
  [p, q].all fun c => (s.coreAt c).slots.all fun e => ! (decide (e.1 < 15) && e.2.ofTenant) || e.2.quiet

/-- Starts the prepare phase of a pair. -/
def State.prepareSwap (s : State) (p q : Nat) : State :=
  let s := (s.modCore p fun c => { c with frozen := true }).modCore q fun c => { c with frozen := true }
  let s := s.modDie (p / 256) fun x =>
    { x with swaps := x.swaps ++ [{ p := p, q := q, since := (s.coreAt p).cycle.toNat, exchange := false, copied := false }] }
  ((s.quiesceCopies p q).post (.swapExchange p q)).post (.swapPrepareTimeout p q)

/-- A pair in progress. -/
def State.findPair (s : State) (p q : Nat) : Option SwapPair :=
  (s.dieAt (p / 256)).swaps.find? fun w => w.p == p && w.q == q

/-- Changes a pair. -/
def State.modPair (s : State) (p q : Nat) (f : SwapPair → SwapPair) : State :=
  s.modDie (p / 256) fun x => { x with swaps := x.swaps.map fun w => if w.p = p ∧ w.q = q then f w else w }

/-- SWAP_PREPARE_TIMEOUT (R359): prepare has taken 2^16 cycles; before that the occurrence stays due. -/
def execSwapPrepareTimeout (p q : Nat) (s : State) : Host.Outcome State Fault Refusal :=
  match s.findPair p q with
  | none => .next s
  | some w =>
    if w.exchange then .next s
    else if (s.coreAt p).cycle.toNat < w.since + 2 ^ 16 then .next (s.post (.swapPrepareTimeout p q))
    else .next (s.abandonSwap p q 4)

/-- SWAP_EXCHANGE (R360): a prepared swap begins to copy; one that may not go on is abandoned. -/
def execSwapExchange (p q : Nat) (s : State) : Host.Outcome State Fault Refusal :=
  match s.findPair p q with
  | none => .next s
  | some w =>
    if w.exchange then .next s
    else
      match s.swapBlocked p q with
      | some r => .next (s.abandonSwap p q r)
      | none =>
        if s.swapReady p q ∧ s.swapRoom (s.partOf p) [p, q] then
          .next (((s.chargeStores (s.partOf p) [p, q]).modPair p q fun w => { w with exchange := true }).post (.swapCopyDone p q))
        else .next (s.post (.swapExchange p q))

/-- SWAP_COPY_DONE (R360): both copies have finished; the next framing phase exchanges the map entries. -/
def execSwapCopyDone (p q : Nat) (s : State) : Host.Outcome State Fault Refusal :=
  match s.findPair p q with
  | none => .next s
  | some w => if w.exchange then .next (s.modPair p q fun w => { w with copied := true }) else .next s

/-- The end of a swap at a framing phase; it waits while a deferred queue lacks room, and is abandoned where it fits no more: what stays on a core
may have taken the place meanwhile (R140, R359). -/
def State.finishSwap (s : State) (w : SwapPair) : State :=
  if ! w.copied ∨ ! s.deferredFits w.p w.q then s
  else
    match s.swapBlocked w.p w.q with
    | some r => s.abandonSwap w.p w.q r
    | none =>
      let s := (s.exchange (s.partOf w.p) w.p w.q false).endPair w.p w.q
      s.swapEvents w.p w.q 0 false

/-! ### Tenant save (R372 to R376, R418) -/

/-- The PREEMPT event value (Table 16.7). -/
def preemptValue (vcn : Nat) (restored : Bool) (why : BitVec 8) : Word := BitVec.ofNat 64 (vcn * 2 ^ 32 + restored.toNat * 256 + why.toNat)

/-- Starts a tenant save of a core: PREEMPT is posted, and pops, steals and landings stop. -/
def State.beginSave (s : State) (core : Nat) (why : BitVec 8) : State :=
  let s := s.breakPair core
  let s := s.modCore core fun c => { c with saving := some why, frozen := true }
  (s.postEvent core Cause.preempt (preemptValue (s.vcnOf core) false why)).post (.tenantSaveComplete core)

/-- A command of another core that is suspended is aborted (R376, R43). -/
def State.abortRemote (s : State) (core : Nat) : State :=
  (s.coreAt core).truss.foldl
    (fun t k =>
      if k.remote ∧ k.susp.isSome then
        let t := t.modCore core fun c => { c with truss := c.truss.filter fun j => j != k }
        (t.writeToken k.owner k.token (tokenValue k.offset (k.susp.getD 0))).abortOwner k.owner
      else t)
    s

/-- Whether the tenant of a core may be taken: its strands are at boundaries, and no other core's command runs on its truss. -/
def State.saveReady (s : State) (core : Nat) : Bool :=
  let c := s.coreAt core
  ! c.halted && (c.slots.all fun e => decide (15 ≤ e.1) || e.2.leaves) && ! c.truss.any fun k => k.remote

/-- The image of a plane (R374). -/
def Plane.image (p : Plane) (new : Bool) : List Byte :=
  toBytes 0x4000 p.settled.cells.toNat ++ toBytes 0x2000 p.settled.scales.toNat
    ++ toBytes 1 p.wfmt.toNat ++ toBytes 1 p.width.toNat ++ toBytes 1 p.had.toNat ++ toBytes 1 new.toNat ++ toBytes 4 0
    ++ toBytes 8 p.seed.toNat ++ toBytes 2 p.koff.toNat ++ List.replicate 0x1FEE 0

/-- The plane of an image. -/
def Plane.ofImage (img : List Byte) : Plane where
  cols := []
  cells := BitVec.ofNat 131072 (imgAt img 0 0x4000)
  scales := BitVec.ofNat 65536 (imgAt img 0x4000 0x2000)
  wfmt := BitVec.ofNat 4 (imgAt img 0x6000 1)
  width := BitVec.ofNat 2 (imgAt img 0x6001 1)
  had := bit (BitVec.ofNat 8 (imgAt img 0x6002 1)) 0
  seed := BitVec.ofNat 64 (imgAt img 0x6008 8)
  koff := BitVec.ofNat 16 (imgAt img 0x6010 2)

/-- The words of an instruction as bytes, `n` of them. -/
def instrBytes (i : Instr) (n : Nat) : List Byte :=
  (((encode i).flatMap fun (w : BitVec 32) => toBytes 4 w.toNat) ++ List.replicate n 0).take n

/-- A copy record (Table 16.6). The offset of a completion word is held in units of 8 bytes (log 27). -/
def CopyCmd.record (k : CopyCmd) : List Byte :=
  let armed : Bool := match k.token with
    | .word _ _ => true
    | .reg _ => false
  let word : Nat := match k.token with
    | .word _ off => off / 8
    | .reg _ => 0
  let reg : Nat := match k.token with
    | .reg r => r.toNat
    | .word _ _ => 0
  instrBytes k.instr 16 ++ toBytes 8 k.a.toNat ++ toBytes 8 k.b.toNat ++ toBytes 8 k.c.toNat ++ toBytes 4 k.done
    ++ toBytes 1 (k.susp.getD 0).toNat ++ toBytes 1 (reg + 16 * k.owner.slot) ++ toBytes 1 (1 + 2 * armed.toNat) ++ toBytes 1 0
    ++ toBytes 2 word ++ List.replicate 14 0

/-- A truss command record (Table 16.10). -/
def TrussCmd.record (k : TrussCmd) : List Byte :=
  (if k.swap then List.replicate 12 0 else instrBytes k.instr 12) ++ toBytes 4 k.offset
    ++ toBytes 1 (if k.swap then 0xFF else k.token.toNat) ++ toBytes 1 k.owner.slot ++ toBytes 1 1 ++ toBytes 1 k.swap.toNat
    ++ toBytes 1 k.stream ++ toBytes 1 (k.susp.getD 0).toNat ++ List.replicate 42 0 ++ toBytes 64 k.ta.toNat ++ toBytes 64 k.tb.toNat
    ++ List.replicate 64 0

/-- An armed entry's 32 bytes: offset, phase, action and operand, 8 bytes each (log 27). -/
def Armed.record (a : Armed) : List Byte :=
  toBytes 8 a.off ++ toBytes 8 a.phase.toNat ++ toBytes 8 a.action.toNat ++ toBytes 8 a.arg.toNat

/-- Writes a part of a save region. -/
def State.putRegion (s : State) (part base off : Nat) (bs : List Byte) : State :=
  s.physWrite part (physPieces (base + off) bs.length) bs

/-- The copies that a core's user strands have issued, in the order of their handles (R405); slot 15's are no tenant's. -/
def State.copiesOf (s : State) (core : Nat) : List CopyCmd :=
  let ks := (s.quadAt (core / 4)).copies.filter fun k => k.owner.core == core && ! k.owner.super
  (List.range 64).filterMap fun i => ks.find? fun k => k.index == i

/-- Pads an image with zeros to `n` bytes. -/
def padTo (n : Nat) (bs : List Byte) : List Byte := (bs ++ List.replicate n 0).take n

/-- Writes the save region of a core's tenant (Table 16.5), the header last. -/
def State.writeRegion (s : State) (part core vcn : Nat) (deferred : List (BitVec 128)) : State :=
  let c := s.coreAt core
  let base := s.saveRegion part vcn
  let put (off : Nat) (bs : List Byte) (s : State) : State := s.putRegion part base off bs
  let users := c.slots.filter fun e => decide (e.1 < 15) && e.2.occupied
  let ks := s.copiesOf core
  let s := put 0 (Memory.readList s.mem (lsKey core 0) 0x80000) s
  let s := put 0x80000 ((List.range 32768).flatMap fun w => toBytes 4 (c.plate.get 0 w).toNat) s
  let s := put 0xA0000 (c.active.image false) s
  let s := put 0xA8000 (c.shadow.image c.newPlane) s
  let s := users.foldl (fun t e => if e.2.anchored then put (0xB0000 + 0x2000 * e.1) e.2.frame t else t) s
  let s := put 0xE0000 ((List.range 16).flatMap fun k =>
    match users.find? fun e => e.1 == k with
    | some e => e.2.entry (if e.2.anchored then k else 0xFF)
    | none => List.replicate 256 0) s
  let s := put 0xE1000 ((List.range 64).flatMap fun t => toBytes 64 (c.descs.get 0 t).toNat) s
  let s := put 0xE2000 ((List.range 64).flatMap fun i =>
    let g := c.grants.get (0, 0) i
    toBytes 8 (g.1.toNat + g.2.toNat * 2 ^ 32)) s
  let s := put 0xE2200 (padTo 0x800 (ks.flatMap CopyCmd.record)) s
  let s := put 0xE2A00 (padTo 0x200 (c.armed.flatMap Armed.record)) s
  let s := put 0xE2C00 (padTo 0x100 (deferred.flatMap fun x => toBytes 16 x.toNat)) s
  let s := put 0xE2D00 (padTo 0x100 ((List.range 4).flatMap fun i => toBytes 1 (c.truss.filter fun k => k.stream == i).length)) s
  let s := put 0xE2E40 (List.replicate 0x11C0 0) s
  let s := put 0xE4000 (padTo 0x1C000 (c.truss.flatMap TrussCmd.record)) s
  put 0xE2E00
    (padTo 64 (toBytes 2 1 ++ toBytes 2 core ++ toBytes 4 (s.dieAt (core / 256)).fphase.toNat ++ toBytes 1 ks.length
      ++ toBytes 1 c.armed.length ++ toBytes 1 deferred.length ++ toBytes 1 c.truss.length ++ toBytes 1 c.popN.toNat ++ toBytes 3 0
      ++ toBytes 4 c.dqt.toNat ++ toBytes 4 c.dqb.toNat)) s

/-- The tenant leaves its core (R376, R416): what it held is empty, its records have become stubs addressed to its VCN. -/
def State.emptyCore (s : State) (core vcn : Nat) : State :=
  let s := (s.takeSlots core fun _ => true).1
  let s := (s.copiesOf core).foldl (fun t k => t.dropEngineHost k.owner.part (copyUnit (core / 4) k.index)) s
  let s := s.dropTruss core
  let s := s.modQuad (core / 4) fun q => { q with copies := q.copies.filter fun k => k.owner.core != core || k.owner.super }
  let s := s.modCore core fun c =>
    { c with
      descs := [], grants := [], armed := [], active := Plane.reset, shadow := Plane.reset, newPlane := false, plate := []
      truss := [], dqt := 0, dqb := 0, popN := 0, batches := 0, deqWait := [], kept := [], saving := none }
  { s with dies := s.dies.map fun (d : Nat × Die) =>
      (d.1, { d.2 with feeds := d.2.feeds.map fun f => if f.ringCore = core then { f with ringCore := savedRing vcn } else f }) }

/-- The save of a core's tenant (R376). -/
def State.saveTenant (s : State) (core : Nat) : State :=
  let part := s.partOf core
  let vcn := s.vcnOf core
  let c := s.coreAt core
  let ks := s.copiesOf core
  let kept := ((c.slots.filter fun e => decide (e.1 < 15) && e.2.occupied).map fun e => e.2.keep e.1)
    ++ c.kept.map fun e => { e with entry := 16 + e.entry }
  let (s, deferred) := s.takeDeferred core
  let s := s.writeRegion part core vcn deferred
  let owed := (s.tenantRecs core).filterMap fun e => if e.2.drops.isEmpty then none else some (e.1, e.2.drops)
  let s := ((s.leaveRecords core vcn true).1.emptyCore core vcn).rebuildSeals core
  s.modPart part fun p =>
    { p with
      saved := p.saved.set vcn
        { built := [], owed := owed, from_ := core, kept := kept, batches := c.batches, waits := c.deqWait, copies := ks, armed := c.armed
          truss := c.truss, active := c.active.cols, shadow := c.shadow.cols } }

/-- Whether the hardware may read or write a save region: the lists of its soft lines have come (R75). -/
def State.regionFree (s : State) (core vcn : Nat) : State × Bool :=
  s.freeSoft { (s.hardware core) with unit := callUnit + s.partOf core } (s.saveRegion (s.partOf core) vcn) 0x100000

/-- Kills that have reached strands of a core are carried out before its tenant is taken (R379). -/
def State.reapCore (s : State) (core : Nat) : State := (List.range 15).foldl (fun t k => t.reap core k) s

/-- TENANT_SAVE_COMPLETE (R376): the save is written once the core is quiet; until then the occurrence stays due. -/
def execTenantSaveComplete (core : Nat) (s : State) : Host.Outcome State Fault Refusal :=
  if (s.coreAt core).saving.isNone then .next s
  else
    let s := (s.reapCore core).abortRemote core
    let (s, free) := s.regionFree core (s.vcnOf core)
    if free ∧ s.saveReady core ∧ s.swapRoom (s.partOf core) [core] ∧ ((s.coreAt core).slots.all fun e => decide (15 ≤ e.1) || e.2.kill.isNone) then
      .next ((s.chargeStores (s.partOf core) [core]).saveTenant core)
    else .next (s.post (.tenantSaveComplete core))

/-! ### Tenant restore (R378, R405, R406) -/

/-- Starts a restore of a VCN onto an empty core. -/
def State.beginRestore (s : State) (core vcn : Nat) (why : BitVec 8) : State :=
  (s.modCore core fun c => { c with restVcn := some vcn, restored := none, saving := some why, frozen := true, ctxRestored := false }).post
    (.tenantRestoreComplete core)

/-- Reads a part of a save region. -/
def State.getRegion (s : State) (base off n : Nat) : List Byte := (s.physRead (physPieces (base + off) n)).1

/-- The contexts of a region's slots, in slot order; one that a supervisor has written there takes a serial number of its own. -/
def State.savedSlots (s : State) (base : Nat) (t : SavedTenant) (part vcn : Nat) : List Slot :=
  (List.range 15).filterMap fun k =>
    let img := s.getRegion base (0xE0000 + 256 * k) 256
    if ! bit (BitVec.ofNat 8 (imgAt img 0x9A 1)) 0 then none
    else
      let x := Slot.vacant.ofEntry img
      let f := imgAt img 0x9B 1
      let x := if f = 0xFF then x else (s.getFrame part vcn f x).2
      some (x.recall t.kept k (s.serial + k))

/-- The owner of a restored command: its strand's on the new core. -/
def State.restoredOwner (s : State) (core : Nat) (o : Owner) : Owner :=
  { o with core := core, slot := ((s.coreAt core).slotOf o.sid).getD o.slot }

/-- The outcome code of a saved command whose launch was aborted meanwhile (R158). -/
def State.lostOwner (s : State) (o : Owner) : Option (BitVec 8) :=
  if o.member ∧ ((s.partAt o.part).liveLaunch o.lnum).isNone then some ((s.partAt o.part).childOutcome o.lnum) else none

/-- Reissues a saved copy from its record (R405); one whose launch was aborted ends with its outcome. -/
def State.restoreCopy (s : State) (core : Nat) (k : CopyCmd) (img : List Byte) : State :=
  match decodeBytes (img.take 16) with
  | .error _ => s
  | .ok i =>
    let cause := BitVec.ofNat 8 (imgAt img 0x2C 1)
    let fl := BitVec.ofNat 8 (imgAt img 0x2E 1)
    let o := s.restoredOwner core k.owner
    let k := { k with
      instr := i, a := BitVec.ofNat 64 (imgAt img 0x10 8), b := BitVec.ofNat 64 (imgAt img 0x18 8), c := BitVec.ofNat 64 (imgAt img 0x20 8)
      done := imgAt img 0x28 4, susp := if cause = 0 then none else some cause, owner := o, waiting := false, quiesced := false, buf := none
      store := core, targets := maskTargets core i
      token := if bit fl 1 then .word core (8 * imgAt img 0x30 2) else .reg (BitVec.ofNat 4 (imgAt img 0x2D 1 % 16)) }
    if ! bit fl 0 then s
    else
      match s.lostOwner o with
      | some code => (s.complete o k.token (tokenValue k.done code)).retireTask k.dtask
      | none =>
        let index := (s.quadAt (core / 4)).freeIndex
        let s := s.reissueCopy k
        if cause = 0 then s else s.postSuspend core o.slot (copyHandle index) cause false k.done

/-- Accepts a saved truss command again (R378); one whose launch was aborted ends with its outcome. -/
def State.restoreTruss (s : State) (core : Nat) (k : TrussCmd) (img : List Byte) : State :=
  let cause := BitVec.ofNat 8 (imgAt img 0x15 1)
  let off := imgAt img 0x0C 4
  let i : Instr := match decodeBytes (img.take 12) with
    | .ok i => i
    | .error _ => k.instr
  let k := { k with
    instr := i, offset := off, started := decide (0 < off), susp := none, owner := s.restoredOwner core k.owner
    token := BitVec.ofNat 4 (imgAt img 0x10 1), swap := imgAt img 0x13 1 == 1, stream := imgAt img 0x14 1 % 4, remote := false
    ta := BitVec.ofNat 512 (imgAt img 0x40 64), tb := BitVec.ofNat 512 (imgAt img 0x80 64) }
  if imgAt img 0x12 1 % 2 = 0 then s
  else if ! k.swap ∧ (s.lostOwner k.owner).isSome then
    s.writeToken k.owner k.token (tokenValue off ((s.lostOwner k.owner).getD 0))
  else
    let n := (s.coreAt core).truss.length
    let s := s.modCore core fun c => { c with truss := c.truss ++ [k] }
    if cause = 0 then s.due (k.due core) else s.suspendTruss core n k cause false

/-- The channel records of a saved image (R416): those that are no stubs, with the drops they owe. -/
def State.savedRecs (s : State) (core base : Nat) (t : SavedTenant) : List ChanRec :=
  let u := s.storeBytes (lsKey core 0x74000) (s.getRegion base 0x74000 0x4000)
  (u.tenantRecs core).map fun e => { e.2 with drops := t.owed.get [] e.1, part := s.partOf core }

/-- Whether the channel records of a restore have places on the target; it waits for them as for the deferred queue (log 26). -/
def State.restoreFits (s : State) (core base : Nat) (t : SavedTenant) : Bool := s.recsFit core (s.savedRecs core base t)

/-- The commands of a saved tenant's strands elsewhere, on feeds and on the trusses of other cores, have their owners on the new core. -/
def State.reownTenant (s : State) (core : Nat) (t : SavedTenant) : State :=
  let own (o : Owner) : Owner := if o.core = t.from_ ∧ t.kept.any (fun e => e.sid == o.sid) then s.restoredOwner core o else o
  { s with
    dies := s.dies.map fun (d : Nat × Die) => (d.1, { d.2 with feeds := d.2.feeds.map fun f => { f with owner := own f.owner } })
    cores := s.cores.map fun (c : Nat × Core) => (c.1, { c.2 with truss := c.2.truss.map fun k => { k with owner := own k.owner } }) }

/-- Steps 1 and 2 of a restore (R378): the regions are read back and the contexts land. -/
def State.readBack (s : State) (core vcn : Nat) (t : SavedTenant) : State :=
  let part := s.partOf core
  let base := s.saveRegion part vcn
  let h := s.getRegion base 0xE2E00 64
  let num (off n : Nat) : Nat := imgAt h off n
  let s := (tenantRanges (core % 4 == 0 || t.from_ % 4 == 0)).foldl
    (fun u r => u.storeBytes (lsKey core r.1) (u.getRegion base r.1 r.2)) s
  let (s, built) := s.buildRecords core (s.savedRecs core base t)
  let s := s.modPart part fun p => { p with saved := p.saved.set vcn { t with built := built } }
  let plate := s.getRegion base 0x80000 0x20000
  let descs := s.getRegion base 0xE1000 0x1000
  let grants := s.getRegion base 0xE2000 0x200
  let armed := s.getRegion base 0xE2A00 0x200
  let shadow := s.getRegion base 0xA8000 0x8000
  let s := s.modCore core fun c =>
    { c with
      plate := (List.range 32768).filterMap fun w =>
        let x := imgAt plate (4 * w) 4
        if x = 0 then none else some (w, BitVec.ofNat 32 x)
      active := { Plane.ofImage (s.getRegion base 0xA0000 0x8000) with cols := t.active }
      shadow := { Plane.ofImage shadow with cols := t.shadow }
      newPlane := bit (BitVec.ofNat 8 (imgAt shadow 0x6003 1)) 0
      descs := (List.range 64).map fun i => (i, BitVec.ofNat 512 (imgAt descs (64 * i) 64))
      grants := (List.range 64).map fun i =>
        (i, (BitVec.ofNat 32 (imgAt grants (8 * i) 4), BitVec.ofNat 2 (imgAt grants (8 * i + 4) 1)))
      armed := (List.range (num 0x09 1)).zip t.armed |>.map fun e =>
        let im := (armed.drop (32 * e.1)).take 32
        { e.2 with
          off := imgAt im 0 8, phase := BitVec.ofNat 12 (imgAt im 8 8), action := BitVec.ofNat 2 (imgAt im 16 8)
          arg := BitVec.ofNat 64 (imgAt im 24 8), owner := { e.2.owner with core := core } }
      dqt := BitVec.ofNat 32 (num 0x10 4), dqb := BitVec.ofNat 32 (num 0x14 4), popN := BitVec.ofNat 6 (num 0x0C 1)
      batches := t.batches, deqWait := t.waits, kept := (t.kept.filter fun e => 16 ≤ e.entry).map fun e => { e with entry := e.entry - 16 } }
  let xs := s.savedSlots base t part vcn
  let s := { s with serial := s.serial + 15 }
  let s := (xs.foldl (fun u x => u.landTenant core vcn true x) s).reownTenant core t
  if t.waits = [] then s else s.post (.dequePushResume core)

/-- Steps 3 to 5 of a restore (R378, R405): its `i`-th part is a copy, then the truss commands together, then a deferred-queue entry; `none` where
it must wait for a free entry of the engine or of the queue. -/
def State.restorePart (s : State) (core base : Nat) (t : SavedTenant) (i : Nat) : Option State :=
  match t.copies[i]? with
  | some k =>
    if 32 ≤ (s.quadAt (core / 4)).copies.length then none
    else some (s.restoreCopy core k (s.getRegion base (0xE2200 + 64 * i) 64))
  | none =>
    if i = t.copies.length then
      some ((t.truss.zipIdx).foldl (fun u e => u.restoreTruss core e.1 (u.getRegion base (0xE4000 + 256 * e.2) 256)) s)
    else if s.deferredRoom (core / 4) = [] then none
    else some (s.putDeferred core [BitVec.ofNat 128 (imgAt (s.getRegion base (0xE2C00 + 16 * (i - t.copies.length - 1)) 16) 0 16)])

/-- The parts of a restore. -/
def State.restoreParts (s : State) (base : Nat) (t : SavedTenant) : Nat := t.copies.length + 1 + imgAt (s.getRegion base 0xE2E00 64) 0x0A 1

/-- Carries a restore on from its `i`-th part as far as there is room, `n` parts at most. -/
def State.restoreOn (s : State) (core base : Nat) (t : SavedTenant) : (n i : Nat) → State × Nat
  | 0, i => (s, i)
  | n + 1, i =>
    match s.restorePart core base t i with
    | none => (s, i)
    | some u => u.restoreOn core base t n (i + 1)

/-- Step 6 of a restore at a framing phase: the VCN map entry is set, the ends move, and feeds find their ring again. A core of another die that held
the tenant and whose own phase has not come holds none from then on (R406). -/
def State.mapRestored (s : State) (core vcn : Nat) : State :=
  let part := s.partOf core
  match (s.partAt part).saved.find vcn with
  | none => s
  | some t =>
    let s := s.modPart part fun p => { p with vcnMap := p.vcnMap.set vcn core, saved := Map.erase p.saved vcn }
    let s := s.modCore core fun c => { c with vcn := some vcn }
    let s := if t.from_ ≠ core ∧ (s.coreAt t.from_).vcn = some vcn ∧ s.partOf t.from_ = part then
        s.modCore t.from_ fun c => { c with vcn := none, frozen := true }
      else s
    let s := s.announceRecords core t.built
    let s := { s with dies := s.dies.map fun (d : Nat × Die) =>
      (d.1, { d.2 with feeds := d.2.feeds.map fun (f : FeedSub) =>
        if f.ringCore = savedRing vcn ∧ f.owner.part = part then { f with ringCore := core } else f }) }
    s.post (.tenantRestoreComplete core)

/-- TENANT_RESTORE_COMPLETE (R378): the regions are read back, then the commands and queue entries as room allows; once the next framing phase has
set the map entry, PREEMPT with R = 1 is posted and the strands run. -/
def execTenantRestoreComplete (core : Nat) (s : State) : Host.Outcome State Fault Refusal :=
  let c := s.coreAt core
  let again (s : State) : State := s.post (.tenantRestoreComplete core)
  match c.restVcn with
  | none => .next s
  | some vcn =>
    let part := s.partOf core
    if c.vcn = some vcn then
      let why := c.saving.getD 3
      let s := s.modCore core fun c => { c with restVcn := none, restored := none, saving := none, frozen := false, ctxRestored := false }
      .next (s.postEvent core Cause.preempt (preemptValue vcn true why))
    else if c.ctxRestored then .next s
    else
      match (s.partAt part).saved.find vcn with
      | none => .next s
      | some t =>
        let base := s.saveRegion part vcn
        let (s, free) := s.regionFree core vcn
        if ! free ∨ (c.restored = none ∧ ! (s.restoreFits core base t ∧ s.swapRoom part [core])) then .next (again s)
        else
          let s := if c.restored = none then (s.chargeStores part [core]).readBack core vcn t else s
          let n := s.restoreParts base t
          let (s, i) := s.restoreOn core base t (n - c.restored.getD 0) (c.restored.getD 0)
          let s := s.modCore core fun c => { c with restored := some i, ctxRestored := decide (n ≤ i) }
          .next (if n ≤ i then s else again s)

end Sys2Proof.Machine
end

