-- ==== Sys2Proof/Machine/Framing.lean ====
section
/-! DEFINITION. The framing phase and what takes effect at it: swaps, resizes, unmapped and mapped tenants (R183, R184, R353, R357 to
R361, R378, R406), and the occurrences that a core's or a router's own clock brings: budget windows, sampling windows, slices, trace
samples, and the stop of a replay (R185, R350, R354 to R356, R371, R392, R393). -/

namespace Sys2Proof.Machine

/-! ### Swap instants (R357, R358) -/

/-- The distance of two numbers. -/
def apart (a b : Nat) : Nat := if a ≤ b then b - a else a - b

/-- Hops between two cores. -/
def hops (a b : Nat) : Nat := apart (gridX a) (gridX b) + apart (gridY a) (gridY b)

/-- The partner of a quad of a die at instant `i`, for the quads that name their partner first. -/
def partnerQuad (i quad : Nat) : Option Nat :=
  let x := quad % 8
  let y := quad % 64 / 8
  match i % 4 with
  | 0 => if x % 2 = 0 then some (quad + 1) else none
  | 1 => if y % 2 = 0 then some (quad + 8) else none
  | 2 => if x % 2 = 1 ∧ x < 7 then some (quad + 1) else none
  | _ => if y % 2 = 1 ∧ y < 7 then some (quad + 8) else none

/-- Whether a core may take part in a swap: it holds a tenant that nothing else moves, its supervisor slot is not stopped, and its
slots hold no gang member, stopped strand, or strand suspended by a trap. -/
def State.swappable (s : State) (core : Nat) : Bool :=
  let c := s.coreAt core
  c.up && c.vcn.isSome && ! c.frozen && c.saving.isNone && c.restVcn.isNone && ! c.halted && (s.pairOf core).isNone
    && c.slots.all fun e => decide (15 ≤ e.1) || ! (e.2.occupied && (e.2.isGang || e.2.stopped || e.2.trapped))

/-- Whether a quad is leaving its partition by a resize. -/
def Part.leaving (p : Part) (quad : Nat) : Bool := p.resize.any fun r => r.1 == some quad

/-- The pairs of a partition's cores on a die at instant `i`. -/
def State.swapPairs (s : State) (d part i : Nat) : List (Nat × Nat) :=
  let p := s.partAt part
  let quads := p.quads.filter fun q => q / 64 == d
  quads.flatMap fun q =>
    match partnerQuad i q with
    | none => []
    | some r =>
      if ! quads.contains r ∨ p.leaving q ∨ p.leaving r then []
      else ((List.range 4).map fun c => (4 * q + c, 4 * r + c)).filter fun e => s.swappable e.1 && s.swappable e.2

/-- The gain of a pair, and its traffic (R358). -/
def State.gain (s : State) (p q : Nat) : Int × Nat :=
  let recs (c : Nat) : List (Nat × ChanRec) :=
    (((s.recsAt c).map (·.2)).filter fun r => ! r.isStub && r.side == .tenon).map fun r => (c, r)
  (recs p ++ recs q).foldl
    (fun (acc : Int × Nat) e =>
      let dst := otherOf p q e.2.route
      let b := e.2.bytes.toNat
      (acc.1 + Int.ofNat b * (Int.ofNat (hops e.1 e.2.route) - Int.ofNat (hops (otherOf p q e.1) dst)), acc.2 + b))
    (0, 0)

/-- Whether a pair swaps. -/
def State.swaps (s : State) (thr p q : Nat) : Bool :=
  let (g, tr) := s.gain p q
  decide (((thr * tr : Nat) : Int) < 8 * g) && (s.coreAt p).cooldown == 0 && (s.coreAt q).cooldown == 0

/-- The byte counts of a core's tenon-side records halve (R139). -/
def State.halveBytes (s : State) (core : Nat) : State :=
  (s.recsAt core).foldl
    (fun t e => if e.2.side = .tenon then t.setRec core e.1 { e.2 with bytes := BitVec.ofNat 32 (e.2.bytes.toNat / 2) } else t)
    s

/-- After the pairs of an instant: byte counts halve and cooldowns fall. -/
def State.afterInstant (s : State) (core : Nat) : State :=
  (s.halveBytes core).modCore core fun c => { c with cooldown := c.cooldown - 1 }

/-- A swap instant of a partition on a die. -/
def State.swapInstant (s : State) (d part : Nat) : State :=
  let w := (s.dieAt d).control part
  let per := field w 6 5
  let f := (s.dieAt d).fphase.toNat
  if f % per ≠ 0 then s
  else
    let thr := field w 0 3
    let chosen := if thr = 0 then [] else (s.swapPairs d part (f / per)).filter fun e => s.swaps thr e.1 e.2
    let s := s.cores.foldl (fun t (c : Nat × Core) => if c.1 / 256 = d ∧ s.partOf c.1 = part then t.afterInstant c.1 else t) s
    chosen.foldl
      (fun t e =>
        ((t.modCore e.1 fun c => { c with cooldown := 4 }).modCore e.2 fun c => { c with cooldown := 4 }).prepareSwap e.1 e.2)
      s

/-! ### Unmapping and mapping tenants (R378, R406) -/

/-- A tenant that is saved leaves the VCN map; its core then holds none and takes no strands (log 28). -/
def State.unmapTenant (s : State) (part vcn : Nat) : State :=
  match s.vcnCore part vcn with
  | none => s
  | some c =>
    if ((s.partAt part).saved.find vcn).isSome ∧ (s.coreAt c).vcn = some vcn ∧ (s.coreAt c).saving.isNone then
      (s.modPart part fun x => { x with vcnMap := Map.erase x.vcnMap vcn }).modCore c fun y => { y with vcn := none, frozen := true }
    else s

/-- The tenants saved on a die's cores leave the VCN map, but for those of a quad that a resize takes away, which leave it with the resize. -/
def State.unmapSaved (s : State) (d : Nat) : State :=
  s.parts.foldl
    (fun t (p : Nat × Part) =>
      p.2.saved.foldl
        (fun t e =>
          match t.vcnCore p.1 e.1 with
          | none => t
          | some c => if c / 256 = d ∧ ! p.2.leaving (c / 4) then t.unmapTenant p.1 e.1 else t)
        t)
    s

/-- The tenants whose regions have been read back on a die's cores enter the VCN map. -/
def State.mapRestoredAll (s : State) (d : Nat) : State :=
  s.cores.foldl
    (fun t (c : Nat × Core) =>
      match c.2.restVcn with
      | some v => if c.1 / 256 = d ∧ c.2.ctxRestored ∧ c.2.vcn ≠ some v then t.mapRestored c.1 v else t
      | none => t)
    s

/-! ### Resizing (R361) -/

/-- The lowest-numbered ASID of a partition (R417). -/
def State.lowestAsid (s : State) (part : Nat) : BitVec 8 :=
  ((((List.range 256).map (BitVec.ofNat 8)).find? fun a => s.asidOwned a part)).getD 0

/-- The larger of a number and the one after another. -/
def above (n v : Nat) : Nat := if n ≤ v then v + 1 else n

/-- The VCN after the highest that is mapped, or on its way to a core by a restore. -/
def State.topVcn (s : State) (part : Nat) : Nat :=
  let mapped := (s.partAt part).vcnMap.foldl (fun n e => above n e.1) 0
  s.cores.foldl
    (fun n (c : Nat × Core) => match c.2.restVcn with
      | some v => if s.partOf c.1 = part then above n v else n
      | none => n)
    mapped

/-- The first phase of one entry of a resize: the leaving quad is quiesced, and a tenant without a match is saved. -/
def State.resizeBegin (s : State) (lv en : Option Nat) : State :=
  match lv with
  | none => s
  | some q =>
    (quadCores (4 * q)).foldl
      (fun t c =>
        let t := t.breakPair c
        if (t.coreAt c).vcn.isNone then t
        else
          match en with
          | none => if (t.coreAt c).saving.isSome then t else t.beginSave c 2
          | some r =>
            ((t.modCore c fun x => { x with frozen := true, saving := some 2 }).postEvent c Cause.preempt (preemptValue (t.vcnOf c) false 2)).quiesceCopies
              c (4 * r + c % 4))
      s

/-- Whether the tenants of a quad are at rest. -/
def State.quadRests (s : State) (q : Nat) : Bool :=
  (quadCores (4 * q)).all fun c =>
    ! (s.coreAt c).halted && (s.coreAt c).restVcn.isNone
      && (s.coreAt c).slots.all fun e => decide (15 ≤ e.1) || e.2.leaves

/-- The quad's own work follows its tenants to the matched quad (log 26). -/
def State.moveQuad (s : State) (q r : Nat) : State :=
  let a := s.quadAt q
  let s := s.modQuad r fun x => { x with dep := a.dep, stencil := a.stencil, depNext := a.depNext, landing := x.landing ++ a.landing }
  let s := s.modQuad q fun x => { x with dep := [], stencil := false, depNext := 0, landing := [] }
  let s := if a.landing = [] then s else s.post (.migrationLanding r)
  { s with quads := s.quads.map fun (e : Nat × Quad) =>
      (e.1, { e.2 with copies := e.2.copies.map fun k =>
        match k.dtask with
        | some i => if i / 256 = q then { k with dtask := some (256 * r + i % 256) } else k
        | none => k }) }

/-- A matched pair of quads exchanges its tenants, and the entering quad takes the leaving one's place. -/
def State.relocate (s : State) (part q r : Nat) : State :=
  let quads := (s.partAt part).quads
  let s := s.modPart part fun p => { p with quads := p.quads ++ [r] }
  let s := (s.moveQuad q r)
  let s := (List.range 4).foldl
    (fun t c =>
      let t := t.exchange part (4 * q + c) (4 * r + c) true
      let t := t.modCore (4 * q + c) fun x => { x with frozen := true, saving := none }
      let t := t.modCore (4 * r + c) fun x => { x with frozen := false, hasid := t.lowestAsid part }
      t.postEvent (4 * r + c) Cause.preempt (preemptValue (t.vcnOf (4 * r + c)) true 2))
    s
  (s.modPart part fun p => { p with quads := quads.map fun x => if x = q then r else x }).requiesce

/-- An entering quad without a match takes the VCNs after the highest mapped one; a VCN that is saved is restored onto its core. -/
def State.enterQuad (s : State) (part r : Nat) : State :=
  let s := s.modPart part fun p => { p with quads := p.quads ++ [r] }
  let top := s.topVcn part
  let asid := s.lowestAsid part
  (List.range 4).foldl
    (fun t c =>
      let core := 4 * r + c
      let v := top + c
      let t := t.modCore core fun x => { x with hasid := asid }
      if ((t.partAt part).saved.find v).isSome then t.beginRestore core v 2
      else
        (t.modPart part fun p => { p with vcnMap := p.vcnMap.set v core }).modCore core fun x => { x with vcn := some v, frozen := false })
    s

/-! ### The operator's changes (R29 to R32, R56, R57, R184, R185, R263, R353, R391, R417) -/

/-- The VCN that a partition's map gives a core. -/
def Part.vcnOfCore (p : Part) (core : Nat) : Option Nat := (p.vcnMap.find? fun e => e.2 == core).map (·.1)

/-- A partition that the operator has created: its quads in order number its cores (R30), its creation counter is zero (R118). -/
def Part.created_ (quads : List Nat) (sealed : Bool) : Part :=
  { Part.none with
    exists_ := true, quads := quads, sealed := sealed
    vcnMap := (List.range (4 * quads.length)).map fun v => (v, 4 * quads.getD (v / 4) 0 + v % 4) }

/-- A group that nothing has configured. -/
def NbarGroup.none : NbarGroup := { expect := 0, came := 0, phases := 0, waiters := [] }

/-- What one change does. A budget holds from its router's next window (R185); a placement control word that breaks R353 is ignored; a
network group gets the arrivals it expects (R263); there are 32 partitions (R2). -/
def State.applyChange (s : State) : OperatorChange → State
  | .region die i e => s.modDie die fun x => { x with regions := x.regions.set i e }
  | .budget quad key flits => s.modQuad quad fun q => { q with budgetNew := q.budgetNew.set key flits }
  | .rdcWays part die ways => s.modPart part fun p => { p with rdcWays := p.rdcWays.set die ways }
  | .space asid e => { s with sys := { s.sys with ast := s.sys.ast.set asid.toNat e } }
  | .partition part quads sealed =>
    if 32 ≤ part then s
    else
    let s := { s with parts := s.parts.set part (Part.created_ quads sealed) }
    (quads.flatMap fun q => quadCores (4 * q)).foldl
      (fun t c => t.modCore c fun x => { x with vcn := (t.partAt part).vcnOfCore c, hasid := t.lowestAsid part }) s
  | .callArea part pa => s.modPart part fun p => { p with calb := pa }
  | .vstb part base => { s with sys := { s.sys with vstb := s.sys.vstb.set part base } }
  | .emub part base => s.modPart part fun p => { p with emub := base }
  | .node n => { s with sys := { s.sys with node := n } }
  | .control die part w => if controlOk w then s.modDie die fun x => { x with placement := x.placement.set part w } else s
  | .group part key n => s.modPart part fun p => { p with nbars := p.nbars.set key { p.nbars.get NbarGroup.none key with expect := n } }

/-- The die at whose framing phase a change takes effect; none for one that concerns no die. -/
def OperatorChange.die : OperatorChange → Option Nat
  | .region die _ _ => some die
  | .budget quad _ _ => some (quad / 64)
  | .rdcWays _ die _ => some die
  | .partition _ quads _ => (quads.head?).map (· / 64)
  | .space _ _ => none
  | .callArea _ _ => none
  | .vstb _ _ => none
  | .emub _ _ => none
  | .node _ => none
  | .control die _ _ => some die
  | .group _ _ _ => none

/-- Takes up the changes that satisfy a test, in their order. -/
def State.takeChanges (s : State) (f : OperatorChange → Bool) : State :=
  (s.sys.operator.filter f).foldl (fun t c => t.applyChange c)
    { s with sys := { s.sys with operator := s.sys.operator.filter fun c => ! f c } }

/-- Whether a change belongs to the remap of a partition's resize (R361): a region entry that is or becomes the partition's, a budget of
its, its placement control words or its RDC ways. -/
def State.remapChange (s : State) (part : Nat) : OperatorChange → Bool
  | .region die i e =>
    let old := (s.dieAt die).regions.get 0 i
    field e 15 5 == part || (bit old 0 && field old 15 5 == part)
  | .budget _ key _ => key / 8 == part
  | .control _ p _ => p == part
  | .rdcWays p _ _ => p == part
  | _ => false

/-- Whether a change waits for the remap of a resize in progress. -/
def State.changeHeld (s : State) (c : OperatorChange) : Bool := s.parts.any fun p => ! p.2.resize.isEmpty && s.remapChange p.1 c

/-! ### Resizing (R361) -/

/-- Whether an entry of a resize may take part in the remap: its leaving quad's tenants are at rest and fit on the entering quad's cores, or they
are saved. -/
def State.stepReady (s : State) (part : Nat) : ResizeStep → Bool
  | (_, _, false) => false
  | (some q, some e, true) =>
    s.quadRests q && (List.range 4).all fun c =>
      s.deferredFits (4 * q + c) (4 * e + c) && s.slotsSuffice (4 * q + c) (4 * e + c) && s.slotsSuffice (4 * e + c) (4 * q + c)
  | (some q, none, true) =>
    (quadCores (4 * q)).all fun c => match (s.coreAt c).vcn with
      | none => true
      | some v => ((s.partAt part).saved.find v).isSome && (s.coreAt c).saving.isNone
  | (none, _, true) => true

/-- What an entry of a resize does at the remap. -/
def State.resizeStep (s : State) (part : Nat) : ResizeStep → State
  | (some q, some e, _) => s.relocate part q e
  | (some q, none, _) =>
    ((quadCores (4 * q)).foldl (fun t c => match (t.coreAt c).vcn with
      | some v => t.unmapTenant part v
      | none => t) s).modPart part fun p => { p with quads := p.quads.filter (· != q) }
  | (none, some e, _) => s.enterQuad part e
  | (none, none, _) => s

/-- Whether an entry of a resize concerns a die: by its leaving quad, or by its entering one when none leaves. -/
def stepOn (d : Nat) (r : ResizeStep) : Bool :=
  match r.1, r.2.1 with
  | some q, _ => q / 64 == d
  | none, some e => e / 64 == d
  | none, none => true

/-- The entries of a resize that concern a die begin at its framing phase: a leaving quad is quiesced, and a tenant without a match is saved. -/
def State.resizeStart (s : State) (d part : Nat) : State :=
  let rs := (s.partAt part).resize
  let s := rs.foldl (fun t r => if stepOn d r ∧ ! r.2.2 then t.resizeBegin r.1 r.2.1 else t) s
  s.modPart part fun p => { p with resize := rs.map fun r => if stepOn d r then (r.1, r.2.1, true) else r }

/-- The remap of a resize, at the first following phase of a die that it concerns by which every entry is ready: the entries in the operator's
order (R30), and with them the regions, the budgets and the placement control words (R361). -/
def State.resizePart (s : State) (d part : Nat) : State :=
  let rs := (s.partAt part).resize
  if rs = [] then s
  else if rs.all (s.stepReady part) ∧ rs.any (stepOn d) then
    let s := (rs.foldl (fun t r => t.resizeStep part r) s).modPart part fun p => { p with resize := [] }
    s.takeChanges (s.remapChange part)
  else s.resizeStart d part

/-! ### The framing phase (R183) -/

/-- The cores of a die. -/
def dieCores (d : Nat) : List Nat := (List.range 256).map (d * 256 + ·)

/-- A core arrives: its timer restarts with the FPER in force, and the arrival takes the supervisor slot's next issue cycle. -/
def State.coreArrives (s : State) (core : Nat) : State :=
  s.modCore core fun c => { c with arrived := true, lateArr := false, arriving := true, framing := 2 ^ c.fper.toNat }

/-- What takes effect when a phase of a die completes, in order. -/
def State.atFraming (s : State) (d : Nat) : State :=
  let s := (s.dieAt d).swaps.foldl (fun t w => t.finishSwap w) s
  let s := (s.unmapSaved d).mapRestoredAll d
  let parts := (s.parts.filter fun p => p.2.exists_).map (·.1)
  let s := parts.foldl (fun t p => t.swapInstant d p) s
  let s := parts.foldl (fun t p => t.resizePart d p) s
  s.takeChanges fun c => c.die.all (· == d) && ! s.changeHeld c

/-- A phase of a die completes: FPHASE advances, and the arrivals that waited are made in the next phase. -/
def State.completeFraming (s : State) (d : Nat) : State :=
  let s := s.modDie d fun x => { x with fphase := x.fphase + 1 }
  let s := (dieCores d).foldl
    (fun t c =>
      let t := t.modCore c fun x => { x with arrived := false }
      if (t.coreAt c).lateArr then t.coreArrives c else t)
    s
  s.atFraming d

/-- FRAMING_ARRIVAL (R183): an expired timer's core arrives, or waits for the open phase to complete when it has arrived in it. -/
def execFramingArrival (core : Nat) (s : State) : Host.Outcome State Fault Refusal :=
  let c := s.coreAt core
  if ! c.up ∨ c.framing ≠ 0 ∨ c.lateArr then .next s
  else if c.arrived then .next (s.modCore core fun c => { c with lateArr := true })
  else
    let s := s.coreArrives core
    .next (if (dieCores (core / 256)).all fun k => (s.coreAt k).arrived then s.completeFraming (core / 256) else s)

/-! ### Windows -/

/-- BUDGET_WINDOW (R185): a new window of a router opens with the budgets that hold from it, its counts at zero, and the held
packets leave in their order. -/
def execBudgetWindow (quad : Nat) (s : State) : Host.Outcome State Fault Refusal :=
  let q := s.quadAt quad
  let s := s.modQuad quad fun q => { q with flits := [], budget := q.budgetNew, packets := [], traces := [] }
  let s := q.packets.foldl (fun t p => t.emit (quad * 4) p.key p.flits p.event) s
  .next (q.traces.foldl (fun t r => t.sendTrace r.1 (quad * 4) r.2) s)

/-- SAMPLING_WINDOW (R350): the core classes itself and a new window opens. -/
def execSamplingWindow (core : Nat) (s : State) : Host.Outcome State Fault Refusal :=
  let ithr := field ((s.dieAt (core / 256)).control (s.partOf core)) 16 8
  .next (s.modCore core fun c =>
    let idle := c.slots.all fun e => decide (15 ≤ e.1) || ! e.2.issuedInWindow
    { c with
      winClass := if ithr = 0 then 2 else if idle then 0 else classOf ithr c.winOps c.winBytes
      winOps := 0
      winBytes := 0
      slots := c.slots.map fun (e : Nat × Slot) => (e.1, { e.2 with issuedInWindow := false }) })

/-! ### Slices (R354 to R356, R371) -/

/-- The effective length of a core's slices. -/
def Core.sliceEnd (c : Core) : Nat := if c.sliceLen.toNat < c.cost then c.cost else c.sliceLen.toNat

/-- Whether a strand's launch is no longer live: it ends at its next boundary (R158). -/
def State.orphaned (s : State) (core : Nat) (x : Slot) : Bool :=
  x.occupied && x.member && ((s.partAt (s.partOf core)).liveLaunch x.lnum).isNone

/-- Whether the switch of an expired slot is deferred (R355, R174, R115); a strand that ends, or is suspended or stopped, is not switched
(R356). -/
def State.sliceDeferred (s : State) (core slot : Nat) : Bool :=
  let c := s.coreAt core
  let x := s.slotAt core slot
  x.ds != 0 || x.inRep || (x.isNb && x.wait != .message) || ! x.quiet || x.trapped || x.stopped || x.restoring || c.frozen
    || x.kill.isSome || s.orphaned core x
    || ((s.cached core).isEmpty && c.deqLen == 0 && c.batches == 0)

/-- A context restored into a slot by a switch, which began at the present cycle: the restore completes as an occurrence of its own (R354). -/
def State.switchIn (s : State) (core slot : Nat) (x : Slot) : State :=
  let s := s.setSlot core slot { x with restoring := true, switchAt := some (s.coreAt core).cycle.toNat }
  let s := if x.trapped then
      s.pushTrap core { w0 := trapWord0 0 0 slot (bit x.xcause 8) (BitVec.ofNat 8 x.xcause.toNat), w1 := x.xvalue }
    else s
  s.post (.contextRestoreComplete core slot)

/-- The cache entry whose context comes in at a switch; none where a record does (R355). -/
def State.switchEntry (s : State) (core : Nat) : Option Nat :=
  let es := s.cached core
  if es.length = 8 ∨ ((s.coreAt core).deqLen = 0 ∧ (s.coreAt core).batches = 0) then es.head? else none

/-- SliceSwitch (R355, R371). -/
def State.sliceSwitch (s : State) (core slot : Nat) : State :=
  let out := s.slotAt core slot
  let vcn := s.vcnOf core
  let save (s : State) : State :=
    match s.freeEntry core with
    | some f => s.saveContext core vcn f out
    | none => s
  match s.switchEntry core with
  | some e =>
    let (s, x) := s.takeContext core slot e
    (save s).switchIn core slot x
  | none =>
    match s.deqPop core with
    | (s, none) => s
    | (s, some r) =>
      let s := ((save s).setSlot core slot out.fresh).startRecord core slot (Rec.unpack r)
      if (s.slotAt core slot).occupied then s.switchIn core slot (s.slotAt core slot) else s

/-- SLICE_EXPIRY (R355): the expired slot switches; a deferred switch stays due, with the timer held at expiry. -/
def execSliceExpiry (core slot : Nat) (s : State) : Host.Outcome State Fault Refusal :=
  let c := s.coreAt core
  let x := s.slotAt core slot
  let held (s : State) : State := (s.modSlot core slot fun x => { x with expired := true }).post (.sliceExpiry core slot)
  if 15 ≤ slot ∨ ! x.occupied ∨ x.isGang ∨ c.sliceLen = 0 ∨ x.slice < c.sliceEnd ∨ c.saving.isSome then
    .next (if x.occupied then s.modSlot core slot fun x => { x with expired := false } else s)
  else if s.sliceDeferred core slot then .next (held s)
  else
    let (t, free) := s.framesFree core
    .next (if free then t.sliceSwitch core slot else held t)

/-! ### Trace samples and the stop of a replay (R392, R393) -/

/-- The loss sample of one slot. -/
def State.lossSample (s : State) (core slot : Nat) : State :=
  let x := s.slotAt core slot
  let s := s.trace (s.partOf core) 1 slot core x.pc
    (toBytes 8 (x.lossI - x.traceI).toNat ++ toBytes 8 (x.lossM - x.traceM).toNat ++ toBytes 8 (x.lossG - x.traceG).toNat
      ++ toBytes 8 (x.lossV - x.traceV).toNat)
  s.modSlot core slot fun x => { x with traceI := x.lossI, traceM := x.lossM, traceG := x.lossG, traceV := x.lossV }

/-- TRACE_LOSS_SAMPLE (R392). -/
def execTraceLossSample (core : Nat) (s : State) : Host.Outcome State Fault Refusal :=
  .next ((List.range 16).foldl (fun t k => t.lossSample core k) s)

/-- The change of a bin since the last sample, saturated to 16 bits. -/
def binDelta (now before : BitVec 48) : Nat := if (now - before).toNat ≤ 0xFFFF then (now - before).toNat else 0xFFFF

/-- TRACE_READY_HISTOGRAM (R392). -/
def execTraceReadyHistogram (core : Nat) (s : State) : Host.Outcome State Fault Refusal :=
  let c := s.coreAt core
  let s := s.trace (s.partOf core) 2 0 core 0
    ((List.range 17).flatMap fun i => toBytes 2 (binDelta (c.hist.get 0 i) (c.histSent.get 0 i)))
  .next (s.modCore core fun c => { c with histSent := c.hist })

/-- The TAG of the frame in a slot. -/
def State.frameTag (s : State) (f k : Nat) : Nat :=
  match (s.frames f).find k with
  | some x => hdrTag x.bytes
  | none => 0

/-- REPLAY_STOP (R393): a forced choice has waited for more than a framing phase, so the partition stops and the REPLAY call is
answered ABORTED; before that the occurrence stays due. -/
def execReplayStop (part : Nat) (s : State) : Host.Outcome State Fault Refusal :=
  let p := s.partAt part
  match p.replayWait with
  | none => .next s
  | some w =>
    if ((s.dieAt (w / 2 ^ 32)).fphase - BitVec.ofNat 32 w).toNat < 2 then .next (s.post (.replayStop part))
    else
      let t := s.modPart part fun p => { p with replayWait := none, replayCall := none, replay := .off, stoppedReplay := true }
      match p.replayCall with
      | none => .next t
      | some k =>
        match t.replyFrame 0 k (replyImage (t.frameTag 0 k) 0x06 0 0) with
        | .error u => .next ((s.modFn 0 fun x => { x with host := (u.fnAt 0).host }).post (.replayStop part))
        | .ok u => .next u

end Sys2Proof.Machine
end

