-- ==== Sys2Proof/Machine/Calls.lean ====
section
/-! DEFINITION. The commit of a launch (R156 to R160, R350, R386), and the calls of Table 17.3 as the firmware that serves the call
queue and the hardware together perform them (R42, R361, R376, R378, R386, R387, R392, R393, R406, R410). -/

namespace Sys2Proof.Machine

/-! ### Commit (R156) -/

/-- The launch of its own that a number names, started and not yet reported. -/
def Part.numbered (p : Part) (lnum : BitVec 16) : Option Launch :=
  p.launches.find? fun l => l.parent.isNone && l.numbered && l.lnum == lnum && l.phase != .queued

/-- Whether a launch of a partition that is older than a tag's is neither committed nor aborted. -/
def State.olderLive (s : State) (p : Nat) (tag : BitVec 8) : Bool := (s.liveTags p).any fun t => s.olderTag p t tag

/-- Sets FIN, once, when a launch has no pending work; its last strand's end classes its ENTRY (R350). -/
def State.finish (s : State) (part : Nat) (l : Launch) : State :=
  let e := s.vstAt part l.tag
  if bit e 28 ∨ field e 30 2 ≠ 1 ∨ field e 0 16 ≠ l.lnum.toNat then s
  else (s.modPart part fun p => { p with vst := p.vst.set l.tag.toNat (setBit e 28 true) }).classify part l

/-- Commits a finished launch: one write of STATE 10 with OUTCOME 0; merging follows lazily (R156, R157). -/
def State.commit (s : State) (part : Nat) (l : Launch) : State :=
  let s := s.modPart part fun p =>
    { p with vst := p.vst.set l.tag.toNat (setField (setField (p.vst.get 0 l.tag.toNat) 30 2 2) 20 8 0) }
  let s := s.modLaunch part l.ticket fun k => { k with phase := .over, outcome := some 0 }
  (s.post (.mergeSweep part 0)).trace part 4 0 0 0 (toBytes 2 l.lnum.toNat ++ toBytes 1 0)

/-- Removes a launch that has been reported. -/
def State.forget (s : State) (part ticket : Nat) : State :=
  s.modPart part fun p => { p with launches := p.launches.filter fun k => k.ticket != ticket }

/-- The reply to the LAUNCH call of a launch whose outcome may be reported (R386); `error` holds it while it waits for the host. A launch of
LNCH is reported by LWAIT. -/
def State.replyLaunch (s : State) (part : Nat) (l : Launch) : Except State State :=
  if l.ticketed then .ok s
  else
    match l.call with
    | none => .ok (s.forget part l.ticket)
    | some (none, _) => .ok (s.forget part l.ticket)
    | some (some k, _) =>
      let o := (l.outcome.getD 0).toNat
      (s.replyFrame (part + 1) k
          (replyImage (s.frameTag (part + 1) k) (if o = 0 then 0x00 else 0x06) (if o = 0 then 0 else o) l.report.toNat)).map
        fun t => t.forget part l.ticket

/-- LAUNCH_COMMIT (R156): a finished launch commits once the older ones are resolved; an aborted one is over once its work has ended.
Until then the occurrence stays due. -/
def execLaunchCommit (part lnum : Nat) (s : State) : Host.Outcome State Fault Refusal :=
  let again (s : State) : State := s.post (.launchCommit part lnum)
  match (s.partAt part).numbered (BitVec.ofNat 16 lnum) with
  | none => .next s
  | some l =>
    if s.pendingWork part l.lnum then .next (again s)
    else
      let s := s.finish part l
      match l.phase with
      | .live =>
        if s.olderLive part l.tag then .next (again s)
        else
          let s := s.commit part l
          match s.replyLaunch part { l with phase := .over, outcome := some 0 } with
          | .ok t => .next t
          | .error t => .next (again t)
      | _ =>
        match s.replyLaunch part l with
        | .ok t => .next t
        | .error t => .next (again t)

/-! ### Serving a call -/

/-- What a call leads to: a reply at once with its status and results, or one that follows later. -/
inductive CallReply
  | now (status r0 r1 : Nat)
  | later
  deriving DecidableEq, Repr

/-- Whether a call number is one of Table 17.3 that a function may make. -/
def callKnown (f n : Nat) : Bool :=
  [0x01, 0x02, 0x04, 0x24, 0x30, 0x50].contains n
    || (if f = 0 then [0x03, 0x22, 0x40, 0x41, 0x42, 0x43, 0x51].contains n else [0x10, 0x11, 0x20, 0x21, 0x23].contains n)

/-- The host accesses of a function as another state holds them, and nothing else of it. -/
def State.keepHost (s : State) (f : Nat) (t : State) : State := s.modFn f fun x => { x with host := (t.fnAt f).host }

/-- Serves the head frame of a function's queue (R384 to R386): a frame of another known call is left to its own row; an unknown
call, or one the function may not make, is answered UNKNOWN; a call that must wait leaves the frame and the state its body gives (`error`), and one
whose reply waits for the host is made again (log 40). -/
def serve (num f k : Nat) (body : List Byte → State → Except State (State × CallReply)) (s : State) : Host.Outcome State Fault Refusal :=
  match (s.callQ f).head?, (s.frames f).find k with
  | some h, some x =>
    let n := hdrCall x.bytes
    if h ≠ k ∨ (callKnown f n ∧ n ≠ num) then .next s
    else
      match (if callKnown f n then body x.args s else .ok (s, .now 0x01 0 0)) with
      | .error t => .next t
      | .ok (t, r) =>
        match r with
        | .later => .next (t.callPop f)
        | .now status r0 r1 =>
          match t.replyFrame f k (replyImage (hdrTag x.bytes) status r0 r1) with
          | .error u => .next (s.keepHost f u)
          | .ok u => .next (u.callPop f)
  | _, _ => .next s

/-- A reply that changes nothing else. -/
def refuseCall (status : Nat) (s : State) : Except State (State × CallReply) := .ok (s, .now status 0 0)

/-- A performed call without results. -/
def okCall (s : State) : Except State (State × CallReply) := .ok (s, .now 0x00 0 0)

/-! ### Identity, firmware and status -/

/-- IDENT (R386); its values are the package's own (log 9). -/
def execIdent (f k : Nat) (s : State) : Host.Outcome State Fault Refusal :=
  serve 0x01 f k (fun _ s => .ok (s, .now 0x00 Config.deviceId.toNat Config.certAddress.toNat)) s

/-- The identity's signature on a message (R6). -/
def identitySign (tick : Nat) (m : List Byte) : Signature := signWith Config.identityKey (Config.signOnce tick) m 3 0

/-- The report of ATTEST: the measurements, signed with the identity key (R6). -/
def attestReport (tick : Nat) (nonce : List Byte) : List Byte :=
  let m := Config.attestMessage nonce
  let g := identitySign tick m
  Config.attestReport m g.r g.s

/-- The response to an SPDM request, in which the device authenticates itself with its identity (R6, R390). -/
def spdmAnswer (tick : Nat) (request : List Byte) : BitVec 128 :=
  let g := identitySign tick (Config.spdmTranscript request)
  Config.spdmResponse request g.r g.s

/-- Whether a firmware image's signature verifies (R6, R391). -/
def firmwareGood (img : List Byte) : Bool :=
  let p := Config.firmwareParts img
  ecdsaVerify Config.firmwareKey p.1 { r := p.2.1, s := p.2.2 }

/-- ATTEST (R386): the report goes to the address in RESULT0 (log 9). -/
def execAttest (f k : Nat) (s : State) : Host.Outcome State Fault Refusal :=
  serve 0x02 f k
    (fun bs s =>
      if hdrLength bs ≠ 48 then refuseCall 0x02 s
      else
        let nonce := (bs.drop 0x40).take 48
        let report := attestReport s.tick nonce
        match s.hostWrite f (hdrPasid bs) Config.attestAddress.toNat report.length with
        | .held t => .error t
        | .refused t => refuseCall 0x06 t
        | .sendTo t ta => .ok (t.storeBytes (hostKey ta) report, .now 0x00 Config.attestAddress.toNat 0))
    s

/-- Reads a range of host memory for a function, each page resolved in its PASID (R41); `none` where the host refuses a page. -/
def State.readHost (s : State) (f : Nat) (pasid : BitVec 32) : List (Word × Nat) → Except State (State × Option (List Byte))
  | [] => .ok (s, some [])
  | (a, n) :: rest =>
    match s.hostReach f pasid a.toNat n false with
    | .held t => .error t
    | .refused t => .ok (t, none)
    | .sendTo t ta =>
      (t.readHost f pasid rest).map fun (r : State × Option (List Byte)) =>
        (r.1, r.2.map fun bs => Memory.readList t.mem (hostKey ta) n ++ bs)

/-- The parts of a range of addresses in its 4 KiB pages. -/
def pageParts (a n : Nat) : List (Word × Nat) :=
  (List.range ((a % 4096 + n + 4095) / 4096)).map fun i =>
    let lo := if i = 0 then a else a / 4096 * 4096 + 4096 * i
    (BitVec.ofNat 64 lo, min (a + n) (a / 4096 * 4096 + 4096 * (i + 1)) - lo)

/-- FWLOAD (R386, R391): the image is read from host memory, under the frame's PV and PASID, and its signature checked. An image that the host
refuses to let be read is MALFORMED (log 40). -/
def execFwload (f k : Nat) (s : State) : Host.Outcome State Fault Refusal :=
  serve 0x03 f k
    (fun bs s =>
      match s.readHost f (hdrPasid bs) (pageParts (hdrArg bs 0 8) (hdrArg bs 8 8)) with
      | .error t => .error t
      | .ok (t, none) => refuseCall 0x02 t
      | .ok (t, some img) =>
        if firmwareGood img then okCall { t with sys := { t.sys with firmware := true } } else refuseCall 0x03 t)
    s

/-- STATUS (R386). -/
def execStatus (f k : Nat) (s : State) : Host.Outcome State Fault Refusal :=
  serve 0x04 f k
    (fun _ s =>
      .ok (s, .now 0x00 (s.sys.stage + s.sys.failed.toNat * 256 + (s.fnAt f).discarded.toNat * 2 ^ 32) s.sys.corrected.toNat))
    s

/-! ### Launches -/

/-- The agent that reads a launch block for a call: the root core, in the space the frame names. -/
def State.callAgent (s : State) (part : Nat) (asid : BitVec 8) : Agent :=
  { core := s.rootCore part, slot := 0, part := part, asid := asid, super := false, engine := true, copy := false, unit := callUnit + part, tag := 0
    launch := none, admitted := false, feed := false }

/-- LAUNCH (R386, R303, R348). -/
def execLaunch (f k : Nat) (s : State) : Host.Outcome State Fault Refusal :=
  serve 0x10 f k
    (fun bs s =>
      let part := fnPart f
      let a := BitVec.ofNat 64 (hdrArg bs 0 8)
      let bad (c : BitVec 8) (s : State) : Except State (State × CallReply) := .ok (s, .now 0x02 c.toNat 0)
      if hdrLength bs < 8 then refuseCall 0x02 s
      else if ! s.asidOwned (hdrAsid bs) part then refuseCall 0x03 s
      else if a.toNat % 32 ≠ 0 then bad Cause.align s
      else
        match readBytes (s.callAgent part (hdrAsid bs)) .load a 32 s with
        | .error (.trap c _ _) => bad c s
        | .error (.trapIn t c _ _) => bad c t
        | .error (.wait _ t) => .error t
        | .error (.quit t) => .error t
        | .ok (img, s) =>
          let p := s.partAt part
          let b := Block.of img
          if b.refused p then bad Cause.launch s
          else if p.ticketsFull then .error s
          else
            let l := b.launch p.nextTicket.toNat false (hdrPrio bs % 8) a (hdrAsid bs) none (some (if hdrReply bs = 0 then none else some k, hdrTag bs))
            .ok ((s.enqueue part l).modPart part fun p => { p with nextTicket := p.nextTicket + 1 }, .later))
    s

/-- The launch of a LAUNCH frame with a TAG (R386). -/
def State.launchOfTag (s : State) (f tag : Nat) : Option Launch :=
  (s.partAt (fnPart f)).launches.find? fun l =>
    match l.call with
    | some j => j.2 == tag
    | none => false

/-- LABORT (R386, R306): a queued launch is removed and its call answered. -/
def execLabort (f k : Nat) (s : State) : Host.Outcome State Fault Refusal :=
  serve 0x11 f k
    (fun bs s =>
      let part := fnPart f
      match s.launchOfTag f (hdrArg bs 0 8) with
      | none => okCall s
      | some l =>
        let t := s.abortLaunch part l
        match (t.partAt part).byTicket l.ticket with
        | none => okCall t
        | some m =>
          if m.numbered then okCall t
          else
            match t.replyLaunch part m with
            | .error u => .error (s.keepHost f u)
            | .ok u => okCall u)
    s

/-! ### Host pages and atomics -/

/-- REVOKE (R42). A base that is not aligned to a page means the page it lies in: the spec does not say (DESIGN CHOICE, log 85). -/
def execRevoke (f k : Nat) (s : State) : Host.Outcome State Fault Refusal :=
  serve 0x20 f k
    (fun bs s =>
      let base := hdrArg bs 0 8 / 4096 * 4096
      let n := hdrArg bs 8 8
      if n = 0 then refuseCall 0x02 s
      else if 16 ≤ (s.partAt (fnPart f)).revoked.length then refuseCall 0x04 s
      else okCall (s.modPart (fnPart f) fun p => { p with revoked := p.revoked ++ [(base, n)] }))
    s

/-- UNREVOKE (R42): entries wholly within the range go. An unaligned base is rounded as REVOKE's is (DESIGN CHOICE, log 85). -/
def execUnrevoke (f k : Nat) (s : State) : Host.Outcome State Fault Refusal :=
  serve 0x21 f k
    (fun bs s =>
      let base := hdrArg bs 0 8 / 4096 * 4096
      let n := hdrArg bs 8 8
      okCall (s.modPart (fnPart f) fun p =>
        { p with revoked := p.revoked.filter fun (r : Nat × Nat) => ! decide (base ≤ r.1 ∧ r.1 + r.2 * 4096 ≤ base + n * 4096) }))
    s

/-- PRIEN (R41): page requests of VFn go on. -/
def execPrien (f k : Nat) (s : State) : Host.Outcome State Fault Refusal :=
  serve 0x22 f k
    (fun bs s =>
      let n := hdrArg bs 0 8
      if n = 0 ∨ 32 < n then refuseCall 0x02 s
      else okCall (s.modPart (n - 1) fun p => { p with priStop := false }))
    s

/-- The agent of a partition's root supervisor when it serves a call: its own address space (R417). -/
def State.rootAgent (s : State) (part : Nat) : Agent :=
  { s.callAgent part (s.coreAt (s.rootCore part)).hasid with super := true }

/-- Step 1 of R410: the root core's supervisor writes the old value to bytes 16 to 31 of the request's emulation-area entry, then word 0, with
V, NP and REQ. -/
def writeEmulation (ag : Agent) (base : Word) (req : BitVec 32) (old : List Byte) (np : Nat) : Exec Unit := do
  let a := base + BitVec.ofNat 64 (32 * (16 * field req 16 11 + field req 12 4))
  writeBytes ag (a + 16) old
  writeBytes ag a (toBytes 8 (2 ^ 63 + np * 2 ^ 62 + req.toNat))

/-- EMUREPLY (R410): the host's answer to an outstanding request enters the emulation area; the reply follows. -/
def execEmureply (f k : Nat) (s : State) : Host.Outcome State Fault Refusal :=
  serve 0x23 f k
    (fun bs s =>
      let req := BitVec.ofNat 32 (hdrArg bs 0 4)
      let np := hdrArg bs 8 1
      if hdrLength bs ≠ 32 ∨ hdrArg bs 4 4 ≠ 0 ∨ 1 < np ∨ hdrArg bs 9 7 ≠ 0 ∨ ! (s.partAt (fnPart f)).emuAsked.contains req then
        refuseCall 0x02 s
      else
        let p := fnPart f
        match writeEmulation (s.rootAgent p) (s.partAt p).emub req ((bs.drop 0x50).take 16) np s with
        | .ok (_, t) => okCall (t.modPart p fun x => { x with emuAsked := x.emuAsked.filter (· != req) })
        | .error (.wait _ t) => .error t
        | .error (.quit t) => .error t
        | .error (.trapIn t _ _ _) => .error t
        | .error (.trap _ _ _) => .error s)
    s

/-- FAULTAREA (R387). -/
def execFaultarea (f k : Nat) (s : State) : Host.Outcome State Fault Refusal :=
  serve 0x24 f k
    (fun bs s =>
      let base := hdrArg bs 0 8
      let n := hdrArg bs 8 4
      let v := hdrArg bs 12 2
      if base % 64 ≠ 0 ∨ n < 4 ∨ 16 < n ∨ msixVectors ≤ v ∨ hdrArg bs 14 2 ≠ 0 then refuseCall 0x02 s
      else
        okCall (s.modFn f fun x =>
          { x with
            areaSet := true, areaBase := BitVec.ofNat 64 base, areaN := n, areaVec := BitVec.ofNat 16 v
            areaPasid := hdrPasid bs, index := 0 }))
    s

/-- Registers a bounce window of a sealed partition, with no use counted yet (R390). -/
def State.registerWindow (s : State) (f : Nat) : Option (Bool × Nat × Nat) → State
  | none => s
  | some (inward, base, n) =>
    if f = 0 ∨ ! (s.partAt (fnPart f)).sealed then s
    else
      let w : BounceWindow := { base := base, pages := n, uses := [] }
      s.modPart (fnPart f) fun p =>
        if inward then { p with bounceIn := p.bounceIn ++ [w] } else { p with bounceOut := p.bounceOut ++ [w] }

/-- A request that completes the opening of a session of a sealed partition gives it new keys (R390). -/
def State.openSession (s : State) (f : Nat) (opens : Bool) : State :=
  if f = 0 ∨ ! opens then s else s.modPart (fnPart f) fun p => { p with session := p.session + 1 }

/-- SPDM (R390): the response is the device's own, with the identity's signature (log 9); a request of the tenant may open a session or register
a bounce window (log 24). -/
def execSpdm (f k : Nat) (s : State) : Host.Outcome State Fault Refusal :=
  serve 0x30 f k
    (fun bs s =>
      let request := (bs.drop 0x40).take (hdrLength bs)
      let r := spdmAnswer s.tick request
      .ok ((s.openSession f (Config.spdmOpens request)).registerWindow f (Config.spdmWindow request), .now 0x00 (field r 0 64) (field r 64 64)))
    s

/-! ### Resizes, saves and restores -/

/-- A list of `n` 8-byte numbers of the arguments. -/
def argList (bs : List Byte) (off n : Nat) : List Nat := (List.range n).map fun i => hdrArg bs (off + 8 * i) 8

/-- The entries of a resize: leaving and entering quads matched in list order (R361). -/
def matchQuads : List Nat → List Nat → List ResizeStep
  | [], [] => []
  | q :: qs, [] => (some q, none, false) :: matchQuads qs []
  | [], e :: es => (none, some e, false) :: matchQuads [] es
  | q :: qs, e :: es => (some q, some e, false) :: matchQuads qs es

/-- Whether a resize may be made: its leaving quads are the partition's, its entering ones nobody's, no resize is in progress, and the
quad of VCN 0 does not leave without a match (R31). A quad that leaves without a match is saved, which EN = 0 refuses (R372). -/
def State.resizeOk (s : State) (part : Nat) (lv en : List Nat) : Bool :=
  let p := s.partAt part
  p.exists_ && p.resize.isEmpty && (lv.all fun q => p.quads.contains q)
    && (en.all fun q => decide (q < 512) && partOfQuad s.parts q == noPart) && decide lv.Nodup && decide en.Nodup
    && (matchQuads lv en).all fun r => r.1.isNone || r.2.1.isSome || (bit p.savb 0 && r.1 != some (s.rootCore part / 4))

/-- RESIZE (R361): it takes effect at the next framing phases. The arguments are the partition, then each list as its length and its
quads, 8 bytes each (log 26). -/
def execResize (f k : Nat) (s : State) : Host.Outcome State Fault Refusal :=
  serve 0x40 f k
    (fun bs s =>
      let part := hdrArg bs 0 8
      let nl := hdrArg bs 8 8
      let ne := hdrArg bs (16 + 8 * nl) 8
      if 496 < nl ∨ 496 < ne then refuseCall 0x02 s
      else
        let lv := argList bs 16 nl
        let en := argList bs (24 + 8 * nl) ne
        if ! s.resizeOk part lv en then refuseCall 0x02 s
        else okCall (s.modPart part fun p => { p with resize := matchQuads lv en }))
    s

/-- SAVE (R372, R376, R406): refused for VCN 0 (R31), with EN = 0, and for a VCN that no core holds. -/
def execSave (f k : Nat) (s : State) : Host.Outcome State Fault Refusal :=
  serve 0x41 f k
    (fun bs s =>
      let part := hdrArg bs 0 8
      let vcn := hdrArg bs 8 8
      let p := s.partAt part
      match s.vcnCore part vcn with
      | none => refuseCall 0x02 s
      | some c =>
        if vcn = 0 ∨ ! bit p.savb 0 ∨ (p.saved.find vcn).isSome ∨ (s.coreAt c).saving.isSome then refuseCall 0x02 s
        else okCall (s.beginSave c 1))
    s

/-- RESTORE (R378, R406). -/
def execRestore (f k : Nat) (s : State) : Host.Outcome State Fault Refusal :=
  serve 0x42 f k
    (fun bs s =>
      let part := hdrArg bs 0 8
      let vcn := hdrArg bs 8 8
      let core := hdrArg bs 16 8
      let c := s.coreAt core
      let restoring := s.cores.any fun e => s.partOf e.1 == part && e.2.restVcn == some vcn
      if ((s.partAt part).saved.find vcn).isNone ∨ restoring ∨ c.vcn.isSome ∨ c.restVcn.isSome ∨ part = noPart ∨ s.partOf core ≠ part then
        refuseCall 0x02 s
      else okCall (s.beginRestore core vcn 3))
    s

/-- SUPRST (R365): a supervisor slot that a double fault stopped starts again. -/
def execSuprst (f k : Nat) (s : State) : Host.Outcome State Fault Refusal :=
  serve 0x43 f k
    (fun bs s =>
      let core := hdrArg bs 0 8
      if ! (s.coreAt core).halted then refuseCall 0x02 s
      else okCall ((s.modCore core fun c => { c with halted := false, inTrap := false, xsel := 0xF }).startSupervisor core))
    s

/-! ### Observation -/

/-- TRACE (R392): the ring of the caller's partition, in memory that it owns; the records dropped so far stay counted. PF0 may name no sealed
page (R22). -/
def execTrace (f k : Nat) (s : State) : Host.Outcome State Fault Refusal :=
  serve 0x50 f k
    (fun bs s =>
      let base := hdrArg bs 0 8
      let size := hdrArg bs 8 8
      let en := hdrArg bs 16 8
      if base % 4096 ≠ 0 ∨ 2 ^ 40 ≤ base ∨ 2 ^ 40 < size ∨ (f ≠ 0 ∧ ! s.regionOk (fnPart f) base size) then refuseCall 0x02 s
      else if f = 0 ∧ s.sealedRange base size then refuseCall 0x03 s
      else
        okCall (s.modPart (fnPart f) fun p =>
          { p with trb := BitVec.ofNat 64 base, trSize := BitVec.ofNat 64 size, trOn := en != 0, trPos := 0 }))
    s

/-- Ends the replay of a partition: its open REPLAY call is answered OK. -/
def State.endReplay (s : State) (part : Nat) : Except State State :=
  match (s.partAt part).replayCall with
  | none => .ok s
  | some j =>
    (s.replyFrame 0 j (replyImage (s.frameTag 0 j) 0x00 0 0)).map fun t => t.modPart part fun p => { p with replayCall := none }

/-- REPLAY (R393): mode 0 ends it, 1 records from now on, 2 forces the recorded choices. A replay's call stays open until the replay
ends or stops (log 29). The log's base may lie in no sealed page (R22). -/
def execReplay (f k : Nat) (s : State) : Host.Outcome State Fault Refusal :=
  serve 0x51 f k
    (fun bs s =>
      let part := hdrArg bs 0 8
      let mode := hdrArg bs 16 8
      if ! (s.partAt part).exists_ ∨ 2 < mode then refuseCall 0x02 s
      else if s.sealedRange (hdrArg bs 8 8) 1 then refuseCall 0x03 s
      else
        match s.endReplay part with
        | .error t => .error (s.keepHost 0 t)
        | .ok s =>
          let s := s.modPart part fun p => { p with replayWait := none, stoppedReplay := false }
          match mode with
          | 0 => okCall (s.modPart part fun p => { p with replay := .off })
          | 1 => okCall (s.modPart part fun p => { p with replay := .record, log := [] })
          | _ =>
            .ok (s.modPart part fun p =>
              { p with replay := .replay, replayCall := if hdrReply bs = 0 then none else some k }, .later))
    s

end Sys2Proof.Machine
end

