-- ==== Sys2Proof/Machine/Barriers.lean ====
section
/-! DEFINITION. The barrier instructions (R258 to R264) and network barrier groups (R263, R171). -/

namespace Sys2Proof.Machine

/-- The barrier object of an operand, as an access of a class reaches it: sealed sectors and locks hold, and a must-be-zero bit
that is set faults (R258, R298, R168); the strand's own reductions to SO pages come first (R102). The joint checks of the destinations come before those of the operand's value (R248). -/
def barrierObject (ra : GReg) (m : MForm) (cls : Access) (dests : List GReg) : Exec (Nat × Nat) := do
  let a ← ea ra m
  checkDests dests
  let (core, off) ← barrierAt a
  let s ← get
  let _ ← reachLs s.me cls a core off 16
  if barMalformed (s.barWord core off) then trap Cause.barrier (BitVec.ofNat 64 off)
  soGate
  return (core, off)

/-- The packets of an operation on a barrier object of another core (R185). -/
def injectBarrier (core : Nat) : Exec Unit := do injectWindow (← get).me core true 16

/-- Whether phase `p` is completed while the barrier is in a phase (R262). -/
def phaseDone (phase p : Nat) : Bool :=
  let d := (phase + 4096 - p) % 4096
  decide (1 ≤ d ∧ d ≤ 2047)

/-- BINIT (R259): the object is written whole, and what is parked or armed for it vanishes. -/
def execBinit (ra rb : GReg) (m : MForm) (s : State) : Host.Outcome State Fault Refusal :=
  runStrand (issuePlain 8 [ra, rb] [] do
    let v ← srcG rb
    let a ← ea ra m
    let (core, off) ← barrierAt a
    let _ ← reachLs (← get).me .store a core off 16
    if field v 17 47 ≠ 0 then trap Cause.barrier (BitVec.ofNat 64 off)
    soGate
    injectBarrier core
    let n := field v 0 16
    let w := BitVec.ofNat 64 (n * 2 ^ 12 + n * 2 ^ 28 + (bit v 16).toNat * 2 ^ 44)
    upd fun s => s.setBar core off w 0
    upd fun s => (s.unpark core off fun _ => true).1
    upd fun s => s.modCore core fun c => { c with armed := c.armed.filter fun e => e.off != off }) s

/-- BARR (R260): one arrival, a release; it writes the phase it found. -/
def execBarr (rd ra : GReg) (m : MForm) (s : State) : Host.Outcome State Fault Refusal :=
  runStrand (issuePlain 8 [ra] [rd] do
    let (core, off) ← barrierObject ra m .store [rd]
    let w := (← get).barWord core off
    if barPend w = 0 then trap Cause.barrier (BitVec.ofNat 64 off)
    releaseNow
    injectBarrier core
    upd fun s => s.barUpdate core off (barPend w - 1) (s.barCount core off)
    writeG rd (BitVec.ofNat 64 (barPhase w))) s

/-- BEXP (R261). -/
def execBexp (ra rc : GReg) (m : MForm) (s : State) : Host.Outcome State Fault Refusal :=
  runStrand (issuePlain 8 [ra, rc] [] do
    let x ← srcG rc
    let (core, off) ← barrierObject ra m .store []
    injectBarrier core
    upd fun s => s.barUpdate core off (barPend (s.barWord core off)) (s.barCount core off + x)) s

/-- The phase operand of BWAIT and BTEST: bits above 11 must be zero (R262). -/
def phaseOperand (v : Word) (off : Nat) : Exec Nat := do
  if field v 12 52 ≠ 0 then trap Cause.barrier (BitVec.ofNat 64 off)
  return field v 0 12

/-- BWAIT (R262), an acquire (R96). -/
def execBwait (rd ra rb : GReg) (m : MForm) (s : State) : Host.Outcome State Fault Refusal :=
  runStrand (issuePlain 8 [ra, rb] [rd] do
    let v ← srcG rb
    let (core, off) ← barrierObject ra m .load [rd]
    let p ← phaseOperand v off
    acquireNow
    let phase := barPhase ((← get).barWord core off)
    if ! phaseDone phase p then stall .message
    injectBarrier core
    writeG rd (BitVec.ofNat 64 phase)) s

/-- BTEST (R262), an acquire (R96). -/
def execBtest (rd ra rb : GReg) (m : MForm) (s : State) : Host.Outcome State Fault Refusal :=
  runStrand (issuePlain 8 [ra, rb] [rd] do
    let v ← srcG rb
    let (core, off) ← barrierObject ra m .load [rd]
    let p ← phaseOperand v off
    acquireNow
    injectBarrier core
    let phase := barPhase ((← get).barWord core off)
    writeG rd (BitVec.ofNat 64 ((phaseDone phase p).toNat * 4096 + phase))) s

/-! ### Network barriers -/

/-- The key of a group's instance: the level, the group, and the quad, die or package that has the instance (R263). -/
def nbarKey (core : Nat) (level : Scope) (group : Nat) : Nat :=
  match level with
  | .quad => core / 4 * 65536 + 256 + group
  | .die => core / 256 * 65536 + 512 + group
  | .pkg => 768 + group
  | _ => 1024 + group

/-- The completion of a group's phase. -/
def NbarGroup.complete (g : NbarGroup) : NbarGroup := { g with came := 0, phases := g.phases + 1 }

/-- NBAR (R263): a strand that has not arrived in the open phase arrives, a release; it then waits for the phase it arrived in. The
last expected arrival completes the phase, at the pod level through the switch's multicast (R171). -/
def execNbar (rd : GReg) (level : Scope) (group : BitVec 8) (s : State) : Host.Outcome State Fault Refusal :=
  runStrand (issuePlain 8 [] [rd] do
    checkDest rd
    let s ← get
    let p := s.myPart
    let key := nbarKey s.core level group.toNat
    let put (g : NbarGroup) : Exec Unit := upd fun s => s.modPart p fun x => { x with nbars := x.nbars.set key g }
    match (s.partAt p).nbars.find key with
    | none => trap Cause.barrier (zx64 group)
    | some g =>
      let sid := s.cur.sid
      match g.waiters.find? fun w => w.1 == sid with
      | some w =>
        if w.2 = g.phases.toNat then stall .message
        put { g with waiters := g.waiters.filter fun v => v.1 != sid }
        writeG rd (zx64 g.phases)
      | none =>
        releaseNow
        let g' := { g with came := g.came + 1 }
        if level ≠ .pod ∧ g.expect ≤ g'.came then
          put g'.complete
          writeG rd (zx64 g'.complete.phases)
        else
          put { g' with waiters := g.waiters ++ [(sid, g.phases.toNat)] }
          stall .message) s

/-- NBAR_MULTICAST_DOWN (R171): the switch's multicast completes the open phase of a pod-level group. -/
def execNbarMulticastDown (part group : Nat) (s : State) : Host.Outcome State Fault Refusal :=
  let key := nbarKey 0 .pod group
  match (s.partAt part).nbars.find key with
  | none => .next s
  | some g => .next (s.modPart part fun x => { x with nbars := x.nbars.set key g.complete })

/-! ### ARM (R264) -/

/-- ARM's checks of its action operand (Table 12.5). -/
def armOperand (action : Nat) (v : Word) (off : Nat) : Exec Unit := do
  if action = 2 then
    if field v 8 56 ≠ 0 then trap Cause.barrier (BitVec.ofNat 64 off)
  else
    let _ ← lsOperand v (if action = 0 then 32 else 64)

/-- ARM (R264, R182): it takes a free armed entry of the object's core; an action for a phase already reached or passed fires at once. -/
def execArm (ra rb rc : GReg) (m : MForm) (s : State) : Host.Outcome State Fault Refusal :=
  runStrand (issuePlain 8 [ra, rb, rc] [] do
    let v ← srcG rb
    let x ← srcG rc
    let (core, off) ← barrierObject ra m .load []
    if field v 14 50 ≠ 0 ∨ field v 12 2 = 3 then trap Cause.barrier (BitVec.ofNat 64 off)
    armOperand (field v 12 2) x off
    if 16 ≤ ((← get).coreAt core).armed.length then stall .memory
    injectBarrier core
    let s ← get
    let p := field v 0 12
    let e : Armed := { off := off, phase := BitVec.ofNat 12 p, action := BitVec.ofNat 2 (field v 12 2), arg := x, owner := s.owner }
    let d := (p + 4096 - barPhase (s.barWord core off)) % 4096
    if d = 0 ∨ 2048 ≤ d then upd fun s => s.fire core e
    else upd fun s => s.modCore core fun c => { c with armed := c.armed ++ [e] }) s

end Sys2Proof.Machine
end

