-- ==== Sys2Proof/Machine/Channels.lean ====
section
/-! DEFINITION. Channel instructions and the arrivals of channel messages (R293 to R300, R128 to R137). -/

namespace Sys2Proof.Machine

/-! ### Operands -/

/-- A joint operand: it must be tagged with one of the kinds given (R119). -/
def jointOperand (r : GReg) (kinds : List Nat) : Exec Word := fun s =>
  let x := s.cur.g[r.toNat]!
  if s.cur.tags.getLsbD r.toNat ∧ kinds.contains (jointKind x) then .ok (x, s)
  else .error (.trap Cause.chanKind (regValue r) false)

/-- The live record of an end operand; without one the joint is refused (R118). -/
def endOperand (r : GReg) (j : Word) : Exec (Nat × ChanRec) := fun s =>
  match s.endRec s.core j with
  | some e => .ok (e, s)
  | none => .error (.trap Cause.chanKind (regValue r) false)

/-- A register consumed: it reads zero with its tag clear (R120). -/
def consume (r : GReg) : Exec Unit := writeG r 0

/-- A mortise buffer: aligned to its element, within the program range (R128, R293). -/
def bufferOperand (v : Word) (ldepth : BitVec 4) (esize : BitVec 3) : Exec (BitVec 19) := do
  if v.toNat % elemBytes esize ≠ 0 then trap Cause.align v
  if field v 19 45 ≠ 0 ∨ programEnd < v.toNat + 2 ^ ldepth.toNat * elemBytes esize then trap Cause.protect v
  return BitVec.ofNat 19 v.toNat

/-! ### CHAN (R293) -/

/-- CHAN: both ends of a new channel on this core (R118, R128). -/
def execChan (rd ra rb : GReg) (esize : BitVec 3) (ldepth : BitVec 4) (s : State) : Host.Outcome State Fault Refusal :=
  runStrand (issuePlain 8 [ra] [rd, rb] do
    let v ← srcG ra
    checkDest rd
    checkDest rb
    if 8 < ldepth.toNat ∨ 4 < esize.toNat then trap Cause.chanSize (regValue rd)
    let base ← bufferOperand v ldepth esize
    let s ← get
    let k := (s.partAt s.myPart).created
    let number := BitVec.ofNat 24 k.toNat
    let inc := BitVec.ofNat 32 (k.toNat / 2 ^ 24)
    let blank (side : Side) : ChanRec :=
      { ChanRec.blank side number inc with ldepth := ldepth, esize := esize, route := s.core, tloc := s.core, part := s.myPart }
    let m := { blank .mortise with base := base }
    let t := blank .tenon
    match freeSlot (s.recsAt s.core) .mortise with
    | none => trap Cause.spill (zx64 number)
    | some km =>
      let s := s.putRec s.core km m
      match freeSlot (s.recsAt s.core) .tenon with
      | none => trap Cause.spill (zx64 number)
      | some kt =>
        set ((s.putRec s.core kt t).modPart s.myPart fun p => { p with created := p.created + 1 })
        modCur fun x => (x.setJoint rd t.joint).setJoint rb m.joint) s

/-! ### Sending (R294, R295) -/

/-- A strand whose message finds the channel budget used up waits for the next window (R185). -/
def channelRoom : Exec Unit := fun s =>
  if s.admits s.core (budgetKey s.myPart 2) then .ok ((), s) else .error (.wait .message s)

/-- The status that needs no send, or the wait for credit (R129). -/
def sendStatus (r : ChanRec) : Exec (Option Word) := do
  if r.state = .broken then return some 2
  if r.state = .tail then return some 1
  if (r.next - r.ackd).toNat = r.depth then stall .message
  return none

/-- Sends one element (R129), once the router admits it: BYTES counts its payload, saturating. -/
def sendElem (slot : Nat) (r : ChanRec) (payload : List Byte) (esize : BitVec 3) : Exec Unit := do
  channelRoom
  upd fun s =>
    let bytes := r.bytes.toNat + elemBytes r.esize
    let r' := { r with next := r.next + 1, bytes := BitVec.ofNat 32 (if bytes < 2 ^ 32 then bytes else 2 ^ 32 - 1) }
    ((s.send s.core (r.dataMsg .data s.core payload esize)).track r false r.next).setRec s.core slot r'

/-- The tenon operand of a send: R119's checks in their order, the data register first. -/
def tenonOperand (ra : GReg) : Exec (Nat × ChanRec) := do
  let j ← jointOperand ra [1]
  endOperand ra j

/-- SND (R294). R119 orders JOINT_CLOBBER of the status register only against the other joint faults: that it comes before CHAN_SIZE here,
and after it in SNDJ, is the model's choice (DESIGN CHOICE, log 78). -/
def execSnd (rd ra rc : GReg) (s : State) : Host.Outcome State Fault Refusal :=
  runStrand (issuePlain 8 [ra, rc] [rd] do
    let v ← srcG rc
    let (k, r) ← tenonOperand ra
    checkDest rd
    if 1 < r.esize.toNat then trap Cause.chanSize (regValue ra)
    releaseNow
    match ← sendStatus r with
    | some st => writeG rd st
    | none =>
      sendElem k r (toBytes (elemBytes r.esize) v.toNat) r.esize
      writeG rd 0) s

/-- SNDB (R294): the payload is read when the element is sent, after the wait for credit. -/
def execSndb (rd ra rc : GReg) (s : State) : Host.Outcome State Fault Refusal :=
  runStrand (issuePlain 8 [ra, rc] [rd] do
    let v ← srcG rc
    let (k, r) ← tenonOperand ra
    checkDest rd
    let off ← lsOperand v (elemBytes r.esize)
    releaseNow
    match ← sendStatus r with
    | some st => writeG rd st
    | none =>
      lsCheck .load off (elemBytes r.esize)
      let s ← get
      sendElem k r (Memory.readList s.mem (lsKey s.core off) (elemBytes r.esize)) r.esize
      writeG rd 0) s

/-- Whether a joint names an end that its holder has closed (R133). -/
def ChanRec.closed (r : ChanRec) : Bool := r.state == .tail || r.state == .shut

/-- SNDJ (R295): moves the joint in G(fc) over the channel. JOINT_CLOBBER of the status register comes after the checks that R295 orders:
the model's choice (DESIGN CHOICE, log 78). -/
def execSndj (rd ra rc : GReg) (s : State) : Host.Outcome State Fault Refusal :=
  runStrand (issuePlain 8 [ra, rc] [rd, rc] do
    let (k, r) ← tenonOperand ra
    let j ← jointOperand rc [1, 2, 3]
    let sent ← if jointKind j = 3 then pure none else (do return some (← endOperand rc j))
    if (match sent with | some e => e.2.closed | none => false) then trap Cause.chanKind (regValue rc)
    if rc = ra ∨ (jointKind j = 2 ∧ jointNumber j = r.number ∧ jointCheck j = r.inc) then trap Cause.chanKind (regValue rc)
    if (sent.isSome ∧ r.esize ≠ 4) ∨ (sent.isNone ∧ r.esize = 0) ∨ 7 < r.ldepth.toNat then trap Cause.chanSize (regValue ra)
    if rd ≠ rc then checkDest rd
    releaseNow
    match ← sendStatus r with
    | some st =>
      if rd = rc then trap Cause.jointClobber (regValue rd)
      writeG rd st
    | none =>
      let c := (← get).core
      sendElem k r (match sent with
        | some e => e.2.carried j c
        | none => toBytes (elemBytes r.esize) j.toNat) 7
      match sent with
      | some (ks, rs) => upd fun s => s.leaveStub s.core ks rs
      | none => pure ()
      consume rc
      writeG rd 0) s

/-! ### Receiving (R131, R296, R297) -/

/-- What a mortise has to deliver. -/
inductive Ready
  | status (n : Word)
  | endMark
  | element (k : Nat)
  | nothing
  deriving DecidableEq, Repr

/-- What MortiseConsume finds (R131). -/
def ChanRec.ready (r : ChanRec) : Ready :=
  if r.state = .shut then .status 2
  else if r.state = .endSeen then .status 1
  else if r.endv ∧ r.endseq = r.cons then .endMark
  else if r.pres.getLsbD (r.elem r.cons) then .element (r.elem r.cons)
  else .nothing

/-- The acknowledgement of a consumption. -/
def State.ackConsumed (s : State) (slot : Nat) (r : ChanRec) (fin : Bool) : State :=
  ((s.sendTenonSide s.core slot r { Msg.plain .ack r .tenon 0 s.core 0 with value := r.cons, fin := fin }).settleTransit r.part r.number
    r.inc false (r.cons - 1)).track r true r.cons

/-- The delivery of an element (Table 13.6); its checks come before it is consumed. -/
def deliver (rd rc : GReg) (slot : Nat) (r : ChanRec) (k : Nat) : Exec Unit := do
  let s ← get
  let bytes := s.elemAt s.core r k
  let r' := { r with pres := setBit r.pres k false, cons := r.cons + 1 }
  if ! r.marks.getLsbD k then
    if elemBytes r.esize ≤ 8 then
      channelRoom
      upd fun s => s.ackConsumed slot r' false
      writeG rd (BitVec.ofNat 64 (ofBytes bytes))
    else
      let v ← srcG rc
      let off ← lsOperand v (elemBytes r.esize)
      lsCheck .store off (elemBytes r.esize)
      channelRoom
      upd fun s => (s.ackConsumed slot r' false).storeBytes (lsKey s.core off) bytes
      writeG rd 0
  else
    match carriedRec bytes with
    | none =>
      channelRoom
      upd fun s => (s.ackConsumed slot r' false).clearElem s.core slot { r' with tsent := r'.tsent + 1 } k
    | some (c, from_) =>
      let base ← if c.side = .mortise then (do bufferOperand (← srcG rc) c.ldepth c.esize) else pure 0
      channelRoom
      upd fun s => (s.ackConsumed slot r' false).clearElem s.core slot { r' with tsent := r'.tsent + 1 } k
      match (← get).receiveEnd s.core c from_ base with
      | none => trap Cause.spill (zx64 c.number)
      | some (t, _) => set t
    modCur fun x => x.setJoint rd (elemJoint bytes)

/-- RCV and TRCV (R296); `test` answers status 3 instead of waiting. -/
def receive (test : Bool) (rd ra rb rc : GReg) : Exec Unit := do
  let j ← jointOperand ra [2]
  let (k, r) ← endOperand ra j
  checkDest rd
  checkDest rb
  acquireGate
  match r.ready with
  | .status n =>
    writeG rd 0
    writeG rb n
  | .endMark =>
    let r := { r with state := .endSeen, cons := r.cons + 1 }
    channelRoom
    upd fun s => s.ackConsumed k r true
    writeG rd 0
    writeG rb 1
  | .element e =>
    deliver rd rc k r e
    writeG rb 0
  | .nothing =>
    if test then
      writeG rd 0
      writeG rb 3
    else stall .message

/-- RCV (R296). -/
def execRcv (rd ra rb rc : GReg) (s : State) : Host.Outcome State Fault Refusal :=
  runStrand (issuePlain 8 [ra, rc] [rd, rb] (receive false rd ra rb rc)) s

/-- TRCV (R296). -/
def execTrcv (rd ra rb rc : GReg) (s : State) : Host.Outcome State Fault Refusal :=
  runStrand (issuePlain 8 [ra, rc] [rd, rb] (receive true rd ra rb rc)) s

/-! ### Closing, dropping, moving, asking (R299, R300) -/

/-- A close that sends a message waits for the router. -/
def closeRoom (r : ChanRec) : Exec Unit := do
  if r.state = .openS then channelRoom

/-- The end marker that a strand's close of a tenon has sent is followed (Table 4.4). -/
def State.trackEnd (s : State) (r : ChanRec) : State :=
  if r.side = .tenon ∧ r.state = .openS then s.track r false r.next else s

/-- CLOSE (R299). -/
def execClose (ra : GReg) (s : State) : Host.Outcome State Fault Refusal :=
  runStrand (issuePlain 8 [ra] [] do
    let j ← jointOperand ra [1, 2]
    let (k, r) ← endOperand ra j
    releaseNow
    closeRoom r
    upd fun s => (s.closeEnd s.core k r).trackEnd r) s

/-- DROPJ (R299). -/
def execDropj (ra : GReg) (s : State) : Host.Outcome State Fault Refusal :=
  runStrand (issuePlain 8 [ra] [ra] do
    let j ← jointOperand ra [1, 2, 3]
    if jointKind j ≠ 3 then
      let (k, r) ← endOperand ra j
      releaseNow
      closeRoom r
      upd fun s => (s.dropEnd s.core k).trackEnd r
    consume ra) s

/-- A tenon or mortise without a record on the core is refused (R118). -/
def checkEnd (r : GReg) (j : Word) : Exec Unit := do
  if jointKind j ≠ 3 then
    let _ ← endOperand r j

/-- MOVJ (R300). -/
def execMovj (rd ra : GReg) (s : State) : Host.Outcome State Fault Refusal :=
  runStrand (issuePlain 8 [ra] [rd] do
    let j ← jointOperand ra [1, 2, 3]
    checkEnd ra j
    if rd ≠ ra then
      checkDest rd
      consume ra
      modCur fun x => x.setJoint rd j) s

/-- STATE of JKIND's result (Table 13.7). -/
def State.jointState (s : State) (core : Nat) (j : Word) : Nat :=
  if jointKind j = 3 then
    match s.vcnCore (s.partOf core) (field j 13 11) with
    | some c => if ((s.coreAt c).grants.get (0, 0) (field j 0 6)).1 = jointCheck j then 0 else 2
    | none => 2
  else
    match s.endRec core j with
    | some (_, r) =>
      match r.state with
      | .tail => 1
      | .broken => 2
      | .shut => 1
      | .endSeen => 2
      | _ => 0
    | none => 0

/-- JKIND (R300): it reads its source without a joint check; fd = fa is refused only when the source is tagged. -/
def execJkind (rd ra : GReg) (s : State) : Host.Outcome State Fault Refusal :=
  runStrand (issuePlain 8 [ra] [rd] do
    let s ← get
    let tagged := s.cur.tags.getLsbD ra.toNat
    if rd = ra ∧ tagged then trap Cause.illegal (regValue ra)
    let j := s.cur.g[ra.toNat]!
    if tagged then checkEnd ra j
    checkDest rd
    writeG rd (if tagged then BitVec.ofNat 64 (s.jointState s.core j * 4 + jointKind j) else 0)) s

/-! ### Grants (R301) -/

/-- GRANT (R301): the entry's incarnation moves on, so every earlier peg of it is void. -/
def execGrant (rd : GReg) (stream : BitVec 2) (index : BitVec 6) (s : State) : Host.Outcome State Fault Refusal :=
  runStrand (issuePlain 8 [] [rd] do
    checkDest rd
    let s ← get
    let inc := ((s.coreAt s.core).grants.get (0, 0) index.toNat).1 + 1
    upd fun s => s.modCore s.core fun c => { c with grants := c.grants.set index.toNat (inc, stream) }
    let peg := inc.toNat * 2 ^ 32 + 3 * 2 ^ 24 + s.vcnOf s.core * 2 ^ 13 + index.toNat
    modCur fun x => x.setJoint rd (BitVec.ofNat 64 peg)) s

/-- GDUP (R301). -/
def execGdup (rd ra : GReg) (s : State) : Host.Outcome State Fault Refusal :=
  runStrand (issuePlain 8 [ra] [rd] do
    let j ← jointOperand ra [3]
    checkDest rd
    modCur fun x => x.setJoint rd j) s

/-! ### Arrivals -/

/-- CHANNEL_DATA_ARRIVAL (R130). -/
def execChannelDataArrival (msg : Msg) (s : State) : Host.Outcome State Fault Refusal :=
  .next (s.arrive msg fun t c k r => t.mortiseArrive c k r msg)

/-- ACK_ARRIVAL (R132). -/
def execAckArrival (msg : Msg) (s : State) : Host.Outcome State Fault Refusal :=
  .next (s.arrive msg fun t c k r => t.ackArrive c k r msg)

/-- BROKEN_ARRIVAL (R132). -/
def execBrokenArrival (msg : Msg) (s : State) : Host.Outcome State Fault Refusal :=
  .next (s.arrive msg fun t c k r => t.brokenArrive c k r msg)

/-- REPOINT_ARRIVAL (R132). -/
def execRepointArrival (msg : Msg) (s : State) : Host.Outcome State Fault Refusal :=
  .next (s.arrive msg fun t c k r => t.repointArrive c k r msg)

/-- DRAIN_ARRIVAL (R135). -/
def execDrainArrival (msg : Msg) (s : State) : Host.Outcome State Fault Refusal :=
  .next (s.arrive msg fun t c k r => t.drainArrive c k r msg)

/-- CLAIM_ARRIVAL (R136). -/
def execClaimArrival (msg : Msg) (s : State) : Host.Outcome State Fault Refusal :=
  .next (s.arrive msg fun t c k r => t.claimArrive c k r msg)

/-- ANNOUNCE_ARRIVAL (R135). -/
def execAnnounceArrival (msg : Msg) (s : State) : Host.Outcome State Fault Refusal :=
  .next (s.arrive msg fun t c k r => t.announceArrive c k r msg)

/-- RELEASE_ARRIVAL (R135). -/
def execReleaseArrival (msg : Msg) (s : State) : Host.Outcome State Fault Refusal :=
  .next (s.arrive msg fun t c k r => t.releaseArrive c k r msg)

/-- TAKE_AND_DROP (R133). -/
def execTakeAndDrop (core recSlot : Nat) (s : State) : Host.Outcome State Fault Refusal := .next (s.takeDrops core recSlot)

end Sys2Proof.Machine
end

