-- ==== Sys2Proof/Machine/Control.lean ====
section
/-! DEFINITION. Control transfers, traps to the supervisor and the return from them, the fetch order and the translation probe
(R233 to R238, R242, R244), and what a fetch that fails takes (R202, R208). -/

namespace Sys2Proof.Machine

/-- The target of a PC-relative transfer: its address plus 4 times the displacement (R234). -/
def relTarget (disp : BitVec 32) : Exec Word := do
  return (← cur).pc + 4 * sx64 disp

/-- Writes the link, computed at issue (R233). A joint in the link register faults with JOINT_CLOBBER, as R119 and R223 give for any
write over a joint; R233 names no such fault (DEDUCED, log 71). -/
def writeLink (rd : GReg) : Exec Unit := do
  checkDest rd
  linkReady (← cur).pc 8
  let s ← get
  writeG rd (s.linkAfterSlots s.cur.pc 8)

/-- J (R234). -/
def execJ (disp : BitVec 32) (s : State) : Host.Outcome State Fault Refusal :=
  runAhead (issueTransfer 8 [] [] do return some (← relTarget disp)) s

/-- JL (R234). -/
def execJl (rd : GReg) (disp : BitVec 32) (s : State) : Host.Outcome State Fault Refusal :=
  runAhead (issueTransfer 8 [] [rd] do
    let t ← relTarget disp
    writeLink rd
    return some t) s

/-- JR (R235). -/
def execJr (ra : GReg) (s : State) : Host.Outcome State Fault Refusal :=
  runAhead (issueTransfer 8 [ra] [] do return some (← srcG ra)) s

/-- JLR reads its target before it writes the link (R235). -/
def execJlr (rd ra : GReg) (s : State) : Host.Outcome State Fault Refusal :=
  runAhead (issueTransfer 8 [ra] [rd] do
    let t ← srcG ra
    writeLink rd
    return some t) s

/-- B.cc (R236). -/
def execBCc (cc : Cond) (ra rb : GReg) (disp : BitVec 32) (s : State) : Host.Outcome State Fault Refusal :=
  runAhead (issueTransfer 8 [ra, rb] [] do
    let a ← srcG ra
    let b ← srcG rb
    let t ← relTarget disp
    return if condHolds cc a b then some t else none) s

/-- BI.cc (R236). -/
def execBiCc (cc : Cond) (ra : GReg) (imm disp : BitVec 32) (s : State) : Host.Outcome State Fault Refusal :=
  runAhead (issueTransfer 12 [ra] [] do
    let a ← srcG ra
    let t ← relTarget disp
    return if condHolds cc a (imm32 imm) then some t else none) s

/-- The immediate of the link call that Bilja's supervisor firmware serves (R412). -/
def linkCall : BitVec 32 := 0x40

/-- TRAP takes SYSCALL with the immediate (R237). The link call is a release by its caller (R412; DEDUCED, log 89). -/
def execTrap (imm : BitVec 32) (s : State) : Host.Outcome State Fault Refusal :=
  runStrand (do
    repGate false []
    noDelaySlot
    if imm = linkCall then releaseNow
    trap Cause.syscall (zx64 imm)) s

/-- BRK takes BREAK with the immediate (R237). -/
def execBrk (imm : BitVec 32) (s : State) : Host.Outcome State Fault Refusal :=
  runStrand (do
    repGate false []
    noDelaySlot
    trap Cause.brk (zx64 imm)) s

/-- TRET (R238): the supervisor returns the slot that XSEL names; for its own trap it continues at its XPC, otherwise with its
next instruction. -/
def execTret (s : State) : Host.Outcome State Fault Refusal :=
  runStrand (do
    repGate false []
    noDelaySlot
    let s ← get
    if s.slot ≠ 15 then trap Cause.privilege 0
    let t := (s.coreAt s.core).xsel.toNat
    let own := t == 15 && s.suspendedByTrap s.core 15
    upd fun s => s.returnFromTrap s.core t
    if ! own then modCur fun x => x.advance 8) s

/-- IFENCE (R242): once the strand's earlier writes are complete, the core's fetched instructions are discarded. -/
def execIfence (s : State) : Host.Outcome State Fault Refusal :=
  runStrand (issuePlain 8 [] [] do
    if (← cur).osc ≠ 0 then stall .memory
    upd fun s => s.modCore s.core fun c => { c with icache := [] }) s

/-- The result of XLAT for a place (Table 11.12): permissions of a local-store offset are whether the slot could access it. -/
def xlatResult (s : State) (p : Place) : Nat :=
  match p with
  | .ls c off =>
    let ok := off < programEnd ∨ s.slot = 15
    2 ^ 61 + (if ok then 2 ^ 54 + 2 ^ 53 else 0) + c * 2 ^ 19 + off
  | .phys pa e =>
    (bit e 9).toNat * 2 ^ 60 + field e 4 2 * 2 ^ 58 + (bit e 6).toNat * 2 ^ 57 + (bit e 7).toNat * 2 ^ 56
      + (bit e 3).toNat * 2 ^ 55 + (bit e 2).toNat * 2 ^ 54 + (bit e 1).toNat * 2 ^ 53 + pa % 2 ^ 52
  | .host ua e =>
    2 ^ 62 + (bit e 9).toNat * 2 ^ 60 + field e 4 2 * 2 ^ 58 + (bit e 6).toNat * 2 ^ 57 + (bit e 7).toNat * 2 ^ 56
      + (bit e 3).toNat * 2 ^ 55 + (bit e 2).toNat * 2 ^ 54 + (bit e 1).toNat * 2 ^ 53 + ua.toNat % 2 ^ 52

/-- A failed probe (Table 11.12). -/
def xlatFail (cause : BitVec 8) (mal : Bool) : Nat := 2 ^ 63 + mal.toNat * 256 + cause.toNat

/-- XLAT's probe of an address (R244): the resolution of R12 to R26, without permission checks and without a fault; it makes no access, so
no router checks regions. -/
def xlatProbe (va : Word) : Exec Nat := do
  let s ← get
  let ag := s.me
  let a := va.toNat
  if field va 57 7 ≠ 0 then return xlatFail Cause.notPresent false
  if aliasBase ≤ a ∧ a < aliasBase + 2 ^ 19 then return xlatResult s (.ls s.core (a % 2 ^ 19))
  if windowBase ≤ a ∧ a < windowBase + 2 ^ 30 then
    match s.vcnCore ag.part (a / 2 ^ 19 % 2048) with
    | some c => return xlatResult s (.ls c (a % 2 ^ 19))
    | none => return xlatFail Cause.notPresent false
  if aliasBase ≤ a ∧ a < 0x800000000000 then return xlatFail Cause.notPresent false
  match translate ag va false s with
  | .error (.trapIn t c _ mal) =>
    set t
    return xlatFail c mal
  | .error (.wait w t) => fun _ => .error (.wait w t)
  | .error _ => return xlatFail Cause.notPresent false
  | .ok ((n, e), t) =>
    set t
    let pa := frameOf e + a % 2 ^ n
    if field e 4 2 = 3 ∨ (bit e 8 ∧ field e 4 2 = 2) then return xlatFail Cause.pageKind false
    if bit e 8 then return xlatResult s (.host (BitVec.ofNat 64 pa) e)
    if populated ≤ pa then return xlatFail Cause.bus false
    return xlatResult s (.phys pa e)

/-- XLAT (R244). -/
def execXlat (e : Bool) (rd ra : GReg) (disp : BitVec 20) (s : State) : Host.Outcome State Fault Refusal :=
  runStrand (issue 8 e false [ra] [rd] do
    let a ← srcG ra
    checkDest rd
    let r := BitVec.ofNat 64 (← xlatProbe (a + sx64 disp))
    writeG rd r
    return .g rd r) s

/-- UNDEFINED_ENCODING (R208): an encoding that nothing defines traps with ILLEGAL, or with LENGTH for len = 11; XVALUE is the
instruction's address for LENGTH and for a failed fetch check. -/
def execUndefinedEncoding (length : Bool) (s : State) : Host.Outcome State Fault Refusal :=
  runAhead (fun s => .error (.trap (if length then Cause.length else Cause.illegal) (if length then s.cur.pc else 0) false)) s

/-- FETCH_FAULT (R202): XPC and XVALUE are the address at which the fetch failed. -/
def execFetchFault (cause : BitVec 8) (va : Word) (malformed : Bool) (s : State) : Host.Outcome State Fault Refusal :=
  runAhead (trap cause va malformed) s

end Sys2Proof.Machine
end

