-- ==== Sys2Proof/Machine/Copies.lean ====
section
/-! DEFINITION. Copies (R265 to R270), rings (R272 to R274), tasks (R287 to R292), and the occurrences of the copy engines. -/

namespace Sys2Proof.Machine

/-! ### Copies -/

/-- The kick of a copy (R265, R268): the checks, the token, and a place in the engine of the quad. A copy of no bytes completes at
once. -/
def kickCopy (rd : GReg) (i : Instr) (a b c : Word) : Exec Unit := do
  checkDest rd
  let s ← get
  match copyCheck s s.core i a b c with
  | some (cause, v) => trap cause v
  | none => pure ()
  kickToken rd
  let quad := s.core / 4
  if 32 ≤ (s.quadAt quad).copies.length then stall .memory
  let k := CopyCmd.of i a b c s.owner (.reg rd) none
  if k.total = 0 then writeG rd 0
  else
    markPending rd
    upd fun s => s.startCopy quad k

/-- CPY (R268, R270). -/
def execCpy (rd ra rb rc : GReg) (c : CForm) (s : State) : Host.Outcome State Fault Refusal :=
  runStrand (issuePlain 16 [ra, rb, rc] [] do
    let x ← srcG ra
    let y ← srcG rb
    let z ← srcG rc
    kickCopy rd (.cpy rd ra rb rc c) x y z) s

/-- CPY2 (R268). -/
def execCpy2 (rd ra rb rc : GReg) (c : CForm) (s : State) : Host.Outcome State Fault Refusal :=
  runStrand (issuePlain 16 [ra, rb, rc] [] do
    let x ← srcG ra
    let y ← srcG rb
    let z ← srcG rc
    kickCopy rd (.cpy2 rd ra rb rc c) x y z) s

/-- CPYM (R268). -/
def execCpym (rd ra rb rc : GReg) (c : CForm) (s : State) : Host.Outcome State Fault Refusal :=
  runStrand (issuePlain 16 [ra, rb, rc] [] do
    let x ← srcG ra
    let y ← srcG rb
    let z ← srcG rc
    kickCopy rd (.cpym rd ra rb rc c) x y z) s

/-- CPYQ (R268, R270). -/
def execCpyq (rd : GReg) (q : QReg) (rb rc : GReg) (c : CForm) (s : State) : Host.Outcome State Fault Refusal :=
  runStrand (issuePlain 16 [rb, rc] [] do
    let y ← srcG rb
    let z ← srcG rc
    kickCopy rd (.cpyq rd q rb rc c) 0 y z) s

/-- COPY_CHUNK_DONE (R266): a command that is suspended, quiesced or waits for the deferred queue issues no chunk. -/
def execCopyChunkDone (quad index : Nat) (s : State) : Host.Outcome State Fault Refusal :=
  match (s.quadAt quad).copy index with
  | none => .next s
  | some k =>
    if k.susp.isSome ∨ k.quiesced ∨ k.waiting then .next s
    else if 32 ≤ k.index then .next (s.renumber quad k)
    else .next (s.copyStep quad k)

/-- DEFERRED_QUEUE_ROOM (R68): a copy that must park a count proceeds once there is room; otherwise the occurrence stays due. -/
def execDeferredQueueRoom (quad : Nat) (s : State) : Host.Outcome State Fault Refusal :=
  let waiting := (s.quadAt quad).copies.filter fun k => k.waiting && k.susp.isNone && ! k.quiesced
  .next (waiting.foldl (fun t k => t.advanceCopy quad k (k.chunk t)) s)

/-! ### Rings -/

/-- Whether a copy or subscription names a ring of a core (R272). -/
def State.ringNamed (s : State) (core q : Nat) : Bool :=
  (s.quads.any fun d => d.2.copies.any fun k => k.store == core && k.ring == some q)
    || (s.dies.any fun d => d.2.feeds.any fun f => f.ringCore == core && f.ring.toNat == q)

/-- A ring fault (R61). -/
def ringFault {α : Type} (q : QReg) : Exec α := trap Cause.ring (zx64 q)

/-- QCFG (R272): bits [63:0] of the descriptor are written, HEAD and TAIL are 0. -/
def execQcfg (q : QReg) (ra : GReg) (s : State) : Host.Outcome State Fault Refusal :=
  runStrand (issuePlain 8 [ra] [] do
    let v ← srcG ra
    let s ← get
    if ringRefused v ∨ s.ringNamed s.core q.toNat then ringFault q
    soGate
    upd fun s => s.store (lsKey s.core (ringOff q.toNat)) 16 v.toNat) s

/-- QPUSH (R273): publishes slots, a release. -/
def execQpush (q : QReg) (ra : GReg) (s : State) : Host.Outcome State Fault Refusal :=
  runStrand (issuePlain 8 [ra] [] do
    let n := (← srcG ra).toNat
    let s ← get
    let r := s.ring s.core q.toNat
    if ! r.valid ∨ r.pkind ≠ 0 ∨ n = 0 ∨ r.free < n then ringFault q
    releaseNow
    upd fun s => s.setHead s.core q.toNat (r.head + n)) s

/-- QPOP (R273): frees slots, a release. -/
def execQpop (q : QReg) (ra : GReg) (s : State) : Host.Outcome State Fault Refusal :=
  runStrand (issuePlain 8 [ra] [] do
    let n := (← srcG ra).toNat
    let s ← get
    let r := s.ring s.core q.toNat
    if ! r.valid ∨ r.ckind ≠ 0 ∨ n = 0 ∨ r.filled < n then ringFault q
    releaseNow
    upd fun s => s.setTail s.core q.toNat (r.tail + n)) s

/-- The value of QSTAT (R274). -/
def RingDesc.stat (r : RingDesc) : Word :=
  if r.valid then BitVec.ofNat 64 (r.tail * 2 ^ 48 + r.head * 2 ^ 32 + r.filled * 2 ^ 16 + r.free % 2 ^ 16) else 0

/-- QSTAT (R274): with slots filled it is an acquire (R96). -/
def execQstat (rd : GReg) (q : QReg) (s : State) : Host.Outcome State Fault Refusal :=
  runStrand (issuePlain 8 [] [rd] do
    checkDest rd
    let s ← get
    let r := s.ring s.core q.toNat
    soGate
    if 0 < r.filled then acquireNow
    writeG rd r.stat) s

/-! ### Tasks -/

/-- The image operand of TASKR and TASKS (Table 13.2): E, H and the offset. -/
def imageOperand (ra : GReg) (v : Word) : Exec (Bool × Bool × Nat) := do
  if field v 19 43 ≠ 0 then trap Cause.illegal (regValue ra)
  let e := bit v 63
  let _ ← lsOperand (BitVec.ofNat 64 (field v 0 19)) (if e then 64 else 32)
  return (e, bit v 62, field v 0 19)

/-- Whether two ranges of lines overlap; an empty range overlaps nothing. -/
def rangesMeet (b n b' n' : Nat) : Bool := decide (0 < n ∧ 0 < n' ∧ b < b' + n' ∧ b' < b + n)

/-- The live entries of a table that a new one waits for: those that a test picks. -/
def Quad.waitsFor (q : Quad) (f : DepEntry → Bool) : List Nat :=
  (q.dep.filter fun e => e.2.state != .free && e.2.state != .retired && f e.2).map (·.1)

/-- A task name (Table 13.3). -/
def taskName (vcn y x index : Nat) : Word := BitVec.ofNat 64 (vcn * 2 ^ 32 + y * 2 ^ 16 + x * 2 ^ 8 + index)

/-- The submission of a task (R287, R288): it waits for a table of its mode and for a free entry; an entry that waits for nothing
is released at once (R291). -/
def submitTask (rd : GReg) (stencil : Bool) (e : DepEntry) (f : DepEntry → Bool) : Exec Unit := do
  let s ← get
  let quad := s.core / 4
  let q := s.quadAt quad
  let live := q.dep.filter fun d => d.2.state != .free
  if live ≠ [] ∧ q.stencil ≠ stencil then stall .memory
  match (List.range 256).find? fun i => ! live.any fun d => d.1 == i with
  | none => stall .memory
  | some i =>
    releaseNow
    let name := taskName (s.vcnOf s.core) e.y.toNat e.x.toNat i
    let e := { e with order := q.depNext, waits := q.waitsFor f, name := name, owner := s.owner }
    upd fun s => (s.modQuad quad fun q => { q with stencil := stencil, depNext := q.depNext + 1 }).setDep quad i e
    upd fun s => s.releaseIfReady quad i
    writeG rd name

/-- An entry that waits, before its ranges or tile are set. -/
def DepEntry.fresh (image hold : Bool) (off : Nat) (scope : Scope) : DepEntry where
  state := .waiting
  order := 0
  image := image
  off := off
  hold := hold
  waits := []
  name := 0
  rbase := 0
  rlen := 0
  wbase := 0
  wlen := 0
  x := 0
  y := 0
  scope := scope
  owner := Owner.none

/-- TASKR (R289). -/
def execTaskr (rd ra rb rc : GReg) (c : CForm) (s : State) : Host.Outcome State Fault Refusal :=
  runStrand (issuePlain 16 [ra, rb, rc] [rd] do
    let v ← srcG ra
    let r ← srcG rb
    let w ← srcG rc
    checkDest rd
    let (e, h, off) ← imageOperand ra v
    let n := { DepEntry.fresh e h off c.scope with
      rbase := field r 6 51, rlen := c.xf.toNat, wbase := field w 6 51, wlen := c.yf.toNat }
    submitTask rd false n fun d =>
      rangesMeet n.wbase n.wlen d.rbase d.rlen || rangesMeet n.wbase n.wlen d.wbase d.wlen
        || rangesMeet n.rbase n.rlen d.wbase d.wlen) s

/-- The tiles that a stencil mask selects around a tile (R290). -/
def stencilTiles (m : BitVec 64) (x y : Nat) : List (Nat × Nat) :=
  (List.range 16).filterMap fun k =>
    let tx := x + k % 4
    let ty := y + k / 4
    if bit m k ∧ 2 ≤ tx ∧ 2 ≤ ty ∧ tx - 2 < 256 ∧ ty - 2 < 256 then some (tx - 2, ty - 2) else none

/-- TASKS (R290). -/
def execTasks (rd ra rb : GReg) (y x : BitVec 8) (s : State) : Host.Outcome State Fault Refusal :=
  runStrand (issuePlain 12 [ra, rb] [rd] do
    let v ← srcG ra
    let m ← srcG rb
    checkDest rd
    let (e, h, off) ← imageOperand ra v
    if field m 16 48 ≠ 0 ∨ bit m 10 then trap Cause.illegal (regValue rb)
    let n := { DepEntry.fresh e h off .pkg with x := x, y := y }
    let ts := stencilTiles m x.toNat y.toNat
    submitTask rd true n fun d => ts.contains (d.x.toNat, d.y.toNat)) s

/-- TDONE (R292): retires a released record task of the core that the name's VCN holds. -/
def execTdone (ra : GReg) (s : State) : Host.Outcome State Fault Refusal :=
  runStrand (issuePlain 8 [ra] [] do
    let v ← srcG ra
    if field v 43 21 ≠ 0 then trap Cause.illegal (regValue ra)
    let s ← get
    match s.vcnCore s.myPart (field v 32 11) with
    | none => trap Cause.notPresent v
    | some c =>
      releaseNow
      let quad := c / 4
      let i := field v 0 8
      let e := (s.quadAt quad).depAt i
      if e.state = .released ∧ ! e.image ∧ e.owner.core = c then upd fun s => s.retireEntry quad i) s

end Sys2Proof.Machine
end

