-- ==== Sys2Proof/Machine/VecOps.lean ====
section
/-! DEFINITION. What vector instructions share: lanes and masks (R307, R308), how they issue alone and in a REP block (R245 to
R247), lane work (R350), and the staggering of register fields (R245). -/

namespace Sys2Proof.Machine

/-! ### Lanes -/

/-- Lane `l` of a register. -/
def lane (v : BitVec 1024) (l : Nat) : Nat := field v (32 * l) 32

/-- The number of lanes packed from lane 0 upward. -/
def packLanes : List Nat → Nat
  | [] => 0
  | x :: rest => x % 2 ^ 32 + 2 ^ 32 * packLanes rest

/-- A register from its lanes. -/
def ofLanes (xs : List Nat) : BitVec 1024 := BitVec.ofNat 1024 (packLanes xs)

/-- Bits of an element type. -/
def typeBits (t : ElemType) : Nat := 8 * t.bytes

/-- The floating format of an element type. -/
def elemFmt (t : ElemType) : Fmt :=
  match t with
  | .bf16 => bf16
  | .f16 => fp16
  | .e4m3 => e4m3
  | .e5m2 => e5m2
  | _ => fp32

/-- The element in a lane. -/
def elemOf (t : ElemType) (x : Nat) : Nat := x % 2 ^ typeBits t

/-- The signed value of an integer element. -/
def elemInt (t : ElemType) (x : Nat) : Int := (BitVec.ofNat (typeBits t) x).toInt

/-- The exact value of an element. -/
def elemExt (t : ElemType) (x : Nat) : Ext :=
  if t.isInt then Ext.ofInt (elemInt t x) else (elemFmt t).value (elemOf t x)

/-- A lane that holds an element: integers sign-extended, floats with zeros above (R307). -/
def toLane (t : ElemType) (x : Nat) : Nat :=
  if t.isInt then (BitVec.ofInt 32 (elemInt t x)).toNat else elemOf t x

/-- A lane that holds an integer modulo 2^w. -/
def intLane (t : ElemType) (x : Int) : Nat := toLane t (BitVec.ofInt (typeBits t) x).toNat

/-- A mask: m0 selects every lane (R308). -/
def Slot.mask (x : Slot) (m : MReg) : BitVec 32 := if m = 0 then BitVec.allOnes 32 else x.m[m.toNat]!

/-- A v register. -/
def Slot.vec (x : Slot) (r : VReg) : BitVec 1024 := x.v[r.toNat]!

/-- The selected lanes of 32, ascending. -/
def lanesIn (m : BitVec 32) : List Nat := setBits m

/-- A register whose selected lanes are computed, with the flags of those lanes. -/
def mapLanes (old : BitVec 1024) (m : BitVec 32) (f : Nat → Nat × BitVec 5) : BitVec 1024 × BitVec 5 :=
  let rs := (List.range 32).map fun l => if m.getLsbD l then f l else (lane old l, 0)
  (ofLanes (rs.map (·.1)), rs.foldl (fun a r => a ||| r.2) 0)

/-- Writes a v register: the strand is anchored (R310). -/
def writeV (r : VReg) (x : BitVec 1024) : Exec Unit := modCur fun s => { s.anchor with v := s.v.set! r.toNat x }

/-- Writes a mask register; a write to m0 is discarded, and anchors all the same (R308, R310). -/
def writeM (r : MReg) (x : BitVec 32) : Exec Unit :=
  modCur fun s => { s.anchor with m := if r = 0 then s.m else s.m.set! r.toNat x }

/-- Writes a d register (R310). -/
def writeD (r : DReg) (x : DistReg) : Exec Unit := modCur fun s => { s.anchor with d := s.d.set! r.toNat x }

/-- Counts the lane operations of an instruction in its core's window and its launch (R350). -/
def laneWork (m : BitVec 32) : Exec Unit :=
  upd fun s => s.addWork s.core s.myPart (if s.cur.member then some s.cur.lnum else none) (popCount m) 0

/-! ### REP's registers (Table 11.10) -/

/-- n - 1. -/
def repsN (x : Word) : Nat := field x 60 3
/-- k - 1. -/
def repsK (x : Word) : Nat := field x 52 8
/-- The stagger step. -/
def repsS (x : Word) : Nat := field x 48 4
/-- The repetition. -/
def repsJ (x : Word) : Nat := field x 40 8
/-- The captured instruction. -/
def repsI (x : Word) : Nat := field x 37 3

/-- How a vector instruction issues: it waits for a REP block in progress (R246). -/
def issueVec (e : Bool) (regs dests : List GReg) (body : Exec PostedValue) : Exec Unit := issue 8 e false regs dests body

/-- The same for an instruction without an elect form. -/
def issueV (regs dests : List GReg) (body : Exec Unit) : Exec Unit := issuePlain 8 regs dests body

/-! ### Staggering (R245) -/

/-- A v field advanced. -/
def stepV (n : Nat) (r : VReg) : VReg := r + BitVec.ofNat 4 n
/-- An m field advanced. -/
def stepM (n : Nat) (r : MReg) : MReg := r + BitVec.ofNat 3 n
/-- The mask field advanced; m0 stays. -/
def stepMask (n : Nat) (v : VForm) : VForm := if v.mask = 0 then v else { v with mask := stepM n v.mask }
/-- The second source of VIOP: its immediate form names no register. -/
def stepB (n : Nat) (v : VForm) (r : VReg) : VReg := if v.aux = 1 then r else stepV n r

/-- Whether REP captures an instruction (R245): opcodes 0xA0 to 0xAC, 0xAE, 0xAF and 0xB0 with e = 0. -/
def captures : Instr → Bool
  | .vld e _ _ _ => ! e
  | .vldRing e _ _ _ => ! e
  | .vst _ _ _ => true
  | .vstRing _ _ _ => true
  | .vldg e _ _ _ _ => ! e
  | .vsts _ _ _ _ => true
  | .vadd _ _ _ _ => true
  | .vsub _ _ _ _ => true
  | .vmul _ _ _ _ => true
  | .vand _ _ _ _ => true
  | .vor _ _ _ _ => true
  | .vxor _ _ _ _ => true
  | .vshl _ _ _ _ => true
  | .vshr _ _ _ _ => true
  | .vsar _ _ _ _ => true
  | .vmin _ _ _ _ => true
  | .vmax _ _ _ _ => true
  | .vminN _ _ _ _ => true
  | .vmaxN _ _ _ _ => true
  | .vfadd _ _ _ _ => true
  | .vfsub _ _ _ _ => true
  | .vfmul _ _ _ _ => true
  | .vfmin _ _ _ _ => true
  | .vfmax _ _ _ _ => true
  | .vfdiv _ _ _ _ => true
  | .vfsqrt _ _ _ => true
  | .vfrcp _ _ _ => true
  | .vfrsq _ _ _ => true
  | .vfma _ _ _ _ _ => true
  | .vfms _ _ _ _ _ => true
  | .vfnma _ _ _ _ _ => true
  | .vcvt _ _ _ => true
  | .vcmpCc _ _ _ _ _ => true
  | .vsel _ _ _ _ _ => true
  | .vperm _ _ _ _ => true
  | .vbc _ _ _ => true
  | .vred e _ _ _ _ => ! e
  | .vhad _ _ _ _ _ => true
  | .qnt _ _ _ _ => true
  | .mand _ _ _ => true
  | .mor _ _ _ => true
  | .mxor _ _ _ => true
  | .mnot _ _ => true
  | .mpop _ _ => true
  | .mset _ _ => true
  | _ => false

/-- Stagger(c, n): every field that names a v or m register advanced (R245, Table 14.1). -/
def stagger (n : Nat) (i : Instr) : Instr :=
  let f := stepV n
  let g := stepM n
  let k := stepMask n
  match i with
  | .vld e vd ra v => .vld e (f vd) ra (k v)
  | .vldRing e vd q v => .vldRing e (f vd) q (k v)
  | .vst ra vc v => .vst ra (f vc) (k v)
  | .vstRing q vc v => .vstRing q (f vc) (k v)
  | .vldg e vd ra vb v => .vldg e (f vd) ra (f vb) (k v)
  | .vsts ra vb vc v => .vsts ra (f vb) (f vc) (k v)
  | .vadd vd va vb v => .vadd (f vd) (f va) (stepB n v vb) (k v)
  | .vsub vd va vb v => .vsub (f vd) (f va) (stepB n v vb) (k v)
  | .vmul vd va vb v => .vmul (f vd) (f va) (stepB n v vb) (k v)
  | .vand vd va vb v => .vand (f vd) (f va) (stepB n v vb) (k v)
  | .vor vd va vb v => .vor (f vd) (f va) (stepB n v vb) (k v)
  | .vxor vd va vb v => .vxor (f vd) (f va) (stepB n v vb) (k v)
  | .vshl vd va vb v => .vshl (f vd) (f va) (stepB n v vb) (k v)
  | .vshr vd va vb v => .vshr (f vd) (f va) (stepB n v vb) (k v)
  | .vsar vd va vb v => .vsar (f vd) (f va) (stepB n v vb) (k v)
  | .vmin vd va vb v => .vmin (f vd) (f va) (stepB n v vb) (k v)
  | .vmax vd va vb v => .vmax (f vd) (f va) (stepB n v vb) (k v)
  | .vminN vd va vb v => .vminN (f vd) (f va) (stepB n v vb) (k v)
  | .vmaxN vd va vb v => .vmaxN (f vd) (f va) (stepB n v vb) (k v)
  | .vfadd vd va vb v => .vfadd (f vd) (f va) (f vb) (k v)
  | .vfsub vd va vb v => .vfsub (f vd) (f va) (f vb) (k v)
  | .vfmul vd va vb v => .vfmul (f vd) (f va) (f vb) (k v)
  | .vfmin vd va vb v => .vfmin (f vd) (f va) (f vb) (k v)
  | .vfmax vd va vb v => .vfmax (f vd) (f va) (f vb) (k v)
  | .vfdiv vd va vb v => .vfdiv (f vd) (f va) (f vb) (k v)
  | .vfsqrt vd va v => .vfsqrt (f vd) (f va) (k v)
  | .vfrcp vd va v => .vfrcp (f vd) (f va) (k v)
  | .vfrsq vd va v => .vfrsq (f vd) (f va) (k v)
  | .vfma vd va vb vc v => .vfma (f vd) (f va) (f vb) (f vc) (k v)
  | .vfms vd va vb vc v => .vfms (f vd) (f va) (f vb) (f vc) (k v)
  | .vfnma vd va vb vc v => .vfnma (f vd) (f va) (f vb) (f vc) (k v)
  | .vcvt vd va v => .vcvt (f vd) (f va) (k v)
  | .vcmpCc cc md va vb v => .vcmpCc cc (g md) (f va) (f vb) (k v)
  | .vsel vd va vb mc v => .vsel (f vd) (f va) (f vb) (g mc) (k v)
  | .vperm vd va vb v => .vperm (f vd) (f va) (f vb) (k v)
  | .vbc vd ra v => .vbc (f vd) ra (k v)
  | .vred e op vd va v => .vred e op (f vd) (f va) (k v)
  | .vhad vd va rb rc v => .vhad (f vd) (f va) rb rc (k v)
  | .qnt vd va rb v => .qnt (f vd) (f va) rb (k v)
  | .mand md ma mb => .mand (g md) (g ma) (g mb)
  | .mor md ma mb => .mor (g md) (g ma) (g mb)
  | .mxor md ma mb => .mxor (g md) (g ma) (g mb)
  | .mnot md ma => .mnot (g md) (g ma)
  | .mpop rd ma => .mpop rd (g ma)
  | .mset md ra => .mset (g md) ra
  | i => i

end Sys2Proof.Machine
end

