-- ==== Sys2Proof/Machine/Dist.lean ====
section
/-! DEFINITION. The distribution instructions (R219 to R222, R327 to R334). -/

namespace Sys2Proof.Machine

/-! ### Lanes of a distribution -/

/-- Lane `n` of a register: 48 bytes. -/
def DistReg.lane (d : DistReg) (n : Nat) : BitVec 384 := BitVec.ofNat 384 (field d.image (384 * n) 384)

/-- The value of point `i`, an FP32 code. -/
def pointV (x : BitVec 384) (i : Nat) : Nat := field x (32 * i) 32

/-- The weight of point `i`, UQ1.15. -/
def pointW (x : BitVec 384) (i : Nat) : Nat := field x (256 + 16 * i) 16

/-- A lane of eight values and eight weights. -/
def mkLane (vs ws : List Nat) : BitVec 384 :=
  let x := (vs.zipIdx).foldl (fun (x : BitVec 384) e => setField x (32 * e.2) 32 e.1) 0
  (ws.zipIdx).foldl (fun (x : BitVec 384) e => setField x (256 + 16 * e.2) 16 e.1) x

/-- A lane of eight points of equal weight. -/
def evenLane (vs : List Nat) : BitVec 384 := mkLane vs (List.replicate 8 0x1000)

/-- A register image with lane `n` replaced. -/
def setLane (img : BitVec 6144) (n : Nat) (x : BitVec 384) : BitVec 6144 := setField img (384 * n) 384 x.toNat

/-- A register whose lanes that a mask selects are computed. -/
def mapDist (old : BitVec 6144) (m : BitVec 32) (f : Nat → BitVec 384) : BitVec 6144 :=
  (List.range 16).foldl (fun img n => if m.getLsbD n then setLane img n (f n) else img) old

/-- A d register. -/
def Slot.dist (x : Slot) (r : DReg) : DistReg := x.d.get r.toFin

/-- RoundRNE32 of an exact value. -/
def rne32 (x : Ext) : Nat := fp32.rne x

/-! ### Building, loading and storing (R328, R329) -/

/-- Point `i` of DFROM's mode 01: a + (b - a)(2i + 1) / 16, rounded once; a NaN or infinite operand gives NaN. -/
def spread (a b : Ext) (i : Nat) : Nat :=
  match a, b with
  | .fin _ _ _, .fin _ _ _ =>
    let d := (Ext.add .rne b a.neg).1
    rne32 (Ext.add .rne a (Ext.mul d (.fin false (2 * i + 1) (-4))).1).1
  | _, _ => fp32.nanCode

/-- A lane of DFROM (R328). -/
def fromLane (mode a b : Nat) : BitVec 384 :=
  if mode = 0 then evenLane (List.replicate 8 (if (fp32.value a).isNan then fp32.nanCode else a))
  else evenLane ((List.range 8).map (spread (fp32.value a) (fp32.value b)))

/-- DFROM (R328). -/
def execDfrom (dd : DReg) (va vb : VReg) (v : VForm) (s : State) : Host.Outcome State Fault Refusal :=
  runStrand (issuePlain 8 [] [] do
    let x ← cur
    let m := x.mask v.mask
    let img := mapDist (x.dist dd).image m fun n =>
      fromLane (field v.aux 0 2) (Sys2Proof.Machine.lane (x.vec va) n) (Sys2Proof.Machine.lane (x.vec vb) n)
    writeD dd { image := img, lineage := v.imm }) s

/-- Whether a lane is normalized (R219). -/
def normalized (x : BitVec 384) : Bool := ((List.range 8).map (pointW x)).sum == 0x8000

/-- The elements of the lanes that a mask selects, ascending: eight values and eight weights each (R329). -/
def distRanges (a : Word) (ls : List Nat) : List (Word × Nat) :=
  ls.flatMap fun n =>
    ((List.range 8).map fun i => (a + BitVec.ofNat 64 (48 * n + 4 * i), 4))
      ++ (List.range 8).map fun i => (a + BitVec.ofNat 64 (48 * n + 32 + 2 * i), 2)

/-- The selected lanes of 16. -/
def lanes16 (m : BitVec 32) : List Nat := (setBits m).filter (· < 16)

/-- DLD (R329). -/
def execDld (e : Bool) (dd : DReg) (ra rb : GReg) (v : VForm) (s : State) : Host.Outcome State Fault Refusal :=
  runStrand (issue 8 e false [ra, rb] [] do
    let a := (← srcG ra) + sx64 v.imm
    let lin ← srcG rb
    if field lin 16 48 ≠ 0 then trap Cause.illegal (regValue rb)
    let x ← cur
    let m := x.mask v.mask
    let ls := lanes16 m
    let ag := (← get).me
    let bs ← readRanges ag .load (distRanges a ls)
    let got (n : Nat) : BitVec 384 := BitVec.ofNat 384 (ofBytes ((bs.drop (48 * (ls.takeWhile (· != n)).length)).take 48))
    let fix (n : Nat) : BitVec 384 := if normalized (got n) then got n else evenLane (List.replicate 8 fp32.nanCode)
    if ls.any fun n => ! normalized (got n) then raiseDstat true false
    let r : DistReg := { image := mapDist (x.dist dd).image m fix, lineage := BitVec.ofNat 16 lin.toNat }
    writeD dd r
    return .d dd r) s

/-- DST (R329). -/
def execDst (ra : GReg) (dc : DReg) (v : VForm) (s : State) : Host.Outcome State Fault Refusal :=
  runStrand (issuePlain 8 [ra] [] do
    let a := (← srcG ra) + sx64 v.imm
    let x ← cur
    let ls := lanes16 (x.mask v.mask)
    writeRanges (← get).me (distRanges a ls) (ls.flatMap fun n => toBytes 48 ((x.dist dc).lane n).toNat)) s

/-! ### Operations on distributions (R221, R330) -/

/-- A pair: its value, its mass, and its place in the order of ties. -/
structure Pair where
  value : Ext
  mass  : Nat
  idx   : Nat
  deriving DecidableEq, Repr

/-- Whether a value comes before another: NaN above every other. -/
def Ext.before (a b : Ext) : Bool := if a.isNan then false else if b.isNan then true else a.lt b

/-- Insertion of a pair, ties by index. -/
def insertPair (p : Pair) : List Pair → List Pair
  | [] => [p]
  | q :: rest =>
    if p.value.before q.value ∨ (! q.value.before p.value ∧ p.idx < q.idx) then p :: q :: rest else q :: insertPair p rest

/-- Pairs sorted by value. -/
def sortPairs (ps : List Pair) : List Pair := ps.foldr insertPair []

/-- The part of each pair's mass that lies in [lo, hi), from a cumulative mass on. -/
def binParts (lo hi : Nat) : (cum : Nat) → List Pair → List (Ext × Nat)
  | _, [] => []
  | cum, p :: rest =>
    let a := if cum < lo then lo else cum
    let b := if cum + p.mass < hi then cum + p.mass else hi
    (if a < b then [(p.value, b - a)] else []) ++ binParts lo hi (cum + p.mass) rest

/-- The value of a bin: its exact mean, rounded once (R221). -/
def binValue (parts : List (Ext × Nat)) : Nat :=
  rne32 ((exactSum (parts.map fun e => (Ext.mul e.1 (.fin false e.2 0)).1)).scale (-27))

/-- Condense (R221). -/
def condense (ps : List Pair) : BitVec 384 :=
  let sorted := sortPairs (ps.filter fun p => p.mass != 0)
  evenLane ((List.range 8).map fun b => binValue (binParts (b * 2 ^ 27) ((b + 1) * 2 ^ 27) 0 sorted))

/-- How two operands pair: their lineages are disjoint, equal and non-empty, or overlap otherwise. -/
def aligned (la lb : BitVec 16) : Bool := la == lb && la != 0

/-- The result lane of an operation, and whether the weight vectors differ. -/
def distLane (f : Ext → Ext → Ext) (la lb : BitVec 16) (a b : BitVec 384) : BitVec 384 :=
  let pairs : List Pair :=
    if aligned la lb then
      (List.range 8).map fun i =>
        { value := f (fp32.value (pointV a i)) (fp32.value (pointV b i)), mass := pointW a i * 0x8000, idx := i * 8 + i }
    else
      (List.range 64).map fun k =>
        { value := f (fp32.value (pointV a (k / 8))) (fp32.value (pointV b (k % 8))), mass := pointW a (k / 8) * pointW b (k % 8), idx := k }
  condense pairs

/-- Whether the weights of two lanes differ. -/
def weightsDiffer (a b : BitVec 384) : Bool := (List.range 8).any fun i => pointW a i != pointW b i

/-- DEP of an operation (R221). -/
def distDep (a b : DistReg) : Bool :=
  if a.lineage &&& b.lineage = 0 then false
  else if aligned a.lineage b.lineage then (List.range 16).any fun n => weightsDiffer (a.lane n) (b.lane n)
  else true

/-- A DOP on all 16 lanes (R330). -/
def distOp (dd da db : DReg) (f : Ext → Ext → Ext) (s : State) : Host.Outcome State Fault Refusal :=
  runStrand (issuePlain 8 [] [] do
    let x ← cur
    let a := x.dist da
    let b := x.dist db
    raiseDstat false (distDep a b)
    writeD dd
      { image := mapDist 0 (BitVec.allOnes 32) fun n => distLane f a.lineage b.lineage (a.lane n) (b.lane n)
        lineage := a.lineage ||| b.lineage }) s

/-- DADD (R330). -/
def execDadd (dd da db : DReg) (s : State) : Host.Outcome State Fault Refusal := distOp dd da db (fun a b => (Ext.add .rne a b).1) s

/-- DSUB (R330). -/
def execDsub (dd da db : DReg) (s : State) : Host.Outcome State Fault Refusal := distOp dd da db (fun a b => (Ext.add .rne a b.neg).1) s

/-- DMUL (R330). -/
def execDmul (dd da db : DReg) (s : State) : Host.Outcome State Fault Refusal := distOp dd da db (fun a b => (Ext.mul a b).1) s

/-- The sign of a value. -/
def Ext.isNeg : Ext → Bool
  | .fin s _ _ => s
  | .inf s => s
  | .nan => false

/-- The larger of two values, NaN if either is; -0 is below +0. -/
def Ext.larger (a b : Ext) : Ext :=
  if a.isNan ∨ b.isNan then .nan else if a.lt b then b else if b.lt a then a else if a.isNeg then b else a

/-- The smaller of two values. -/
def Ext.smaller (a b : Ext) : Ext :=
  if a.isNan ∨ b.isNan then .nan else if a.lt b then a else if b.lt a then b else if a.isNeg then a else b

/-- DMAX (R330). -/
def execDmax (dd da db : DReg) (s : State) : Host.Outcome State Fault Refusal := distOp dd da db Ext.larger s

/-- DMIN (R330). -/
def execDmin (dd da db : DReg) (s : State) : Host.Outcome State Fault Refusal := distOp dd da db Ext.smaller s

/-- DAFF (R331). -/
def execDaff (dd da : DReg) (rb : GReg) (s : State) : Host.Outcome State Fault Refusal :=
  runStrand (issuePlain 8 [rb] [] do
    let g ← srcG rb
    let x ← cur
    let src := x.dist da
    let a := fp32.value (field g 0 32)
    let b := fp32.value (field g 32 32)
    let f (v : Nat) : Nat := rne32 (Ext.add .rne (Ext.mul a (fp32.value v)).1 b).1
    let img := mapDist 0 (BitVec.allOnes 32) fun n =>
      let l := src.lane n
      mkLane ((List.range 8).map fun i => f (pointV l i)) ((List.range 8).map (pointW l))
    writeD dd { image := img, lineage := src.lineage }) s

/-! ### Moments and quantiles (R222, R332, R333) -/

/-- The points of positive weight. -/
def support (l : BitVec 384) : List (Ext × Nat) :=
  (((List.range 8).filter fun i => pointW l i != 0).map fun i => (fp32.value (pointV l i), pointW l i))

/-- A weighted sum over 2^15. -/
def weighted (xs : List (Ext × Nat)) : Ext :=
  (exactSum (xs.map fun e => (Ext.mul e.1 (.fin false e.2 0)).1)).scale (-15)

/-- The k-th power of an exact value. -/
def Ext.pow (x : Ext) : Nat → Ext
  | 0 => .fin false 1 0
  | n + 1 => (Ext.mul (x.pow n) x).1

/-- Moment k of a lane, exact before its rounding; an infinite or NaN point gives NaN for k = 2 and 3. -/
def moment (k : Nat) (l : BitVec 384) : Nat :=
  let xs := support l
  let mu := weighted xs
  if k = 1 then rne32 mu
  else
    match mu with
    | .fin _ _ _ => rne32 (weighted (xs.map fun e => ((Ext.add .rne e.1 mu.neg).1.pow k, e.2)))
    | _ => fp32.nanCode

/-- A v register of 16 lane results, lanes 16 to 31 zero. -/
def lowLanes (f : Nat → Nat) : BitVec 1024 := ofLanes ((List.range 16).map f)

/-- DMOM (R332). -/
def execDmom (e : Bool) (vd : VReg) (da : DReg) (v : VForm) (s : State) : Host.Outcome State Fault Refusal :=
  runStrand (issue 8 e false [] [] do
    let x ← cur
    let r := lowLanes fun n => moment (field v.aux 0 2) ((x.dist da).lane n)
    writeV vd r
    return .v vd r) s

/-- The first code whose cumulative weight is at least p. -/
def reach (p : Nat) : (cum : Nat) → List (Nat × Nat) → Option Nat
  | _, [] => none
  | cum, (v, w) :: rest => if p ≤ cum + w then some v else reach p (cum + w) rest

/-- The quantile of a lane: points of positive weight sorted by value, NaN last, ties by index (R222). -/
def quantile (p : BitVec 16) (l : BitVec 384) : Nat :=
  let ps : List Pair :=
    ((List.range 8).filter fun i => pointW l i != 0).map fun i => { value := fp32.value (pointV l i), mass := pointW l i, idx := i }
  match reach p.toNat 0 ((sortPairs ps).map fun q => (pointV l q.idx, q.mass)) with
  | some v => if (fp32.value v).isNan then fp32.nanCode else v
  | none => (Config.quantileBeyond l p).toNat

/-- DQNT (R333). -/
def execDqnt (e : Bool) (vd : VReg) (da : DReg) (v : VForm) (s : State) : Host.Outcome State Fault Refusal :=
  runStrand (issue 8 e false [] [] do
    let x ← cur
    let r := lowLanes fun n => quantile v.imm ((x.dist da).lane n)
    writeV vd r
    return .v vd r) s

/-! ### Lineage (R334) -/

/-- DLIN that sets a lineage. -/
def execDlinSet (dd : DReg) (lin : BitVec 16) (s : State) : Host.Outcome State Fault Refusal :=
  runStrand (issuePlain 8 [] [] do
    let x ← cur
    writeD dd { x.dist dd with lineage := lin }) s

/-- DLIN that reads one; it does not anchor. -/
def execDlinGet (rd : GReg) (da : DReg) (s : State) : Host.Outcome State Fault Refusal :=
  runStrand (issuePlain 8 [] [rd] do
    checkDest rd
    let x ← cur
    writeG rd (zx64 (x.dist da).lineage)) s

end Sys2Proof.Machine
end

