-- ==== Sys2Proof/Machine/LoadStore.lean ====
section
/-! DEFINITION. Loads, stores, bit-granular access, line operations, fences and atomics (R248 to R257, R78 to R90). -/

namespace Sys2Proof.Machine

/-! ### Loads and stores (R250) -/

/-- A load of a size from an address; acq is an acquire (R250, R96). -/
def loadOp (m : MForm) (rd : GReg) (a : Word) : Exec PostedValue := do
  checkDests (pairRegs m.size rd)
  orderGate m.order
  let v ← readMem (← get).me a m.size.bytes
  writeSized m.size m.zx rd v

/-- A store of a size to an address, its data already read; rel is a release (R250, R96). -/
def storeOp (m : MForm) (a : Word) (v : Nat) : Exec PostedValue := do
  orderGate m.order
  writeMem (← get).me a m.size.bytes v
  return .done

/-- The address of an indexed access: the index counts elements (R250). -/
def eaIndexed (ra rb : GReg) (m : MForm) : Exec Word := do
  let a ← ea ra m
  return a + (← srcG rb) * BitVec.ofNat 64 m.size.bytes

/-- LD (R250). -/
def execLd (e : Bool) (rd ra : GReg) (m : MForm) (s : State) : Host.Outcome State Fault Refusal :=
  runStrand (issue 8 e false [ra] (pairRegs m.size rd) do loadOp m rd (← ea ra m)) s

/-- ST (R250). -/
def execSt (e : Bool) (ra rc : GReg) (m : MForm) (s : State) : Host.Outcome State Fault Refusal :=
  runStrand (issue 8 e false (ra :: pairRegs m.size rc) [] do
    let v ← storeData m.size rc
    storeOp m (← ea ra m) v) s

/-- LDX (R250). -/
def execLdx (e : Bool) (rd ra rb : GReg) (m : MForm) (s : State) : Host.Outcome State Fault Refusal :=
  runStrand (issue 8 e false [ra, rb] (pairRegs m.size rd) do loadOp m rd (← eaIndexed ra rb m)) s

/-- STX (R250). -/
def execStx (e : Bool) (ra rb rc : GReg) (m : MForm) (s : State) : Host.Outcome State Fault Refusal :=
  runStrand (issue 8 e false (ra :: rb :: pairRegs m.size rc) [] do
    let v ← storeData m.size rc
    storeOp m (← eaIndexed ra rb m) v) s

/-! ### Bit-granular access (R251, R252) -/

/-- MODE bit-plane, P and W of a description (Table 12.2). -/
def planeMode (m : MForm) : Bool := field m.disp 18 2 == 1
/-- P. -/
def bitP (m : MForm) : Nat := field m.disp 5 5 + 1
/-- W. -/
def bitW (m : MForm) : Nat := field m.disp 0 5 + 1

/-- The bit address of a packed element (R251). -/
def bitAddr (base x : Word) : Nat := (8 * base.toNat + x.toNat) % 2 ^ 67

/-- The bytes that hold W bits at a bit address: one to five. -/
def bitBytes (b w : Nat) : Nat := (b % 8 + w + 7) / 8

/-- The 32-bit words that W bits at a bit address touch: one or two. -/
def bitWords (b w : Nat) : Nat := (b % 32 + w + 31) / 32

/-- The address of the first word of a packed element. -/
def bitWordAt (b : Nat) : Word := BitVec.ofNat 64 (b / 32 * 4)

/-- The element that P planes of a group give: plane j is bit W - 1 - j (R251). -/
def planeElement (w i : Nat) (words : Nat) : (p : Nat) → Nat
  | 0 => 0
  | j + 1 => planeElement w i words j + words / 2 ^ (64 * j + i) % 2 * 2 ^ (w - 1 - j)

/-- BLD (R251). -/
def execBld (e : Bool) (rd ra rb : GReg) (m : MForm) (s : State) : Host.Outcome State Fault Refusal :=
  runStrand (issue 8 e false [ra, rb] [rd] do
    let base ← srcG ra
    let x ← srcG rb
    checkDest rd
    let w := bitW m
    orderGate m.order
    let f ←
      if (planeMode m) then do
        if w < (bitP m) then trap Cause.tensor 0
        let g := base + BitVec.ofNat 64 (x.toNat / 64 * (8 * w))
        let v ← readMem (← get).me g (8 * (bitP m))
        pure (planeElement w (x.toNat % 64) v (bitP m))
      else do
        let b := bitAddr base x
        let v ← readMem (← get).me (BitVec.ofNat 64 (b / 8)) (bitBytes b w)
        pure (v / 2 ^ (b % 8) % 2 ^ w)
    let r := if m.zx then BitVec.ofNat 64 f else sxNat w f
    writeG rd r
    return .g rd r) s

/-- One masked update of a 32-bit word, where it is performed (R251, R252). -/
def mergeWord (ag : Agent) (p : Place) (va : Word) (f : Nat → Nat) : Exec Unit := do
  match p with
  | .ls c off =>
    injectWindow ag c true 4
    upd fun s => s.store (lsKey c off) 4 (f (s.load (lsKey c off) 4))
  | .host _ _ => trapIn Cause.pageKind va
  | .phys pa leaf =>
    if kindOf leaf = 2 ∧ tagFor ag leaf = 0 then
      let l ← uoFill ag (pa / 64) (sectorsOf (pa % 64) 4)
      writePhys ag pa (toBytes 4 (f (field l.data (8 * (pa % 64)) 32))) leaf
    else
      let _ ← rmwPhys ag pa 4 leaf false f

/-- The places of a BST's words that are not yet updated; one on a host page is refused (R252). -/
def wordPlaces (ag : Agent) : (i : Nat) → List (Word × Nat) → Exec (List (Word × Place))
  | _, [] => pure []
  | i, (va, n) :: rest => do
    let p ←
      if i < ((← get).progOf ag).stored then pure (.ls ag.core 0)
      else do
        let p ← resolve ag .store va n
        if p.isHost then trapIn Cause.pageKind va
        if i = 0 then migrateGate ag va p
        accessGate ag p n
        pure p
    let ps ← wordPlaces ag (i + 1) rest
    return (va, p) :: ps

/-- The word pieces of a packed element. -/
def wordPieces (b w : Nat) : List (Word × Nat) :=
  (List.range (bitWords b w)).map fun i => (bitWordAt b + BitVec.ofNat 64 (4 * i), 4)

/-- Updates the words of an element: bits from position `lo` of the first word on, `w` of them, with `v`. A word that must wait leaves those
before it updated, and they are not updated again (R252). -/
def mergePieces (ag : Agent) : (i : Nat) → (ps : List (Word × Place)) → (lo w v : Nat) → Exec Unit
  | _, [], _, _, _ => pure ()
  | i, (va, p) :: rest, lo, w, v => do
    let k := if w < 32 - lo then w else 32 - lo
    if ((← get).progOf ag).stored ≤ i then
      mergeWord ag p va fun old => (setField (BitVec.ofNat 32 old) lo k v).toNat
      if rest ≠ [] then upd fun s => s.setProg ag { (s.progOf ag) with stored := i + 1 }
    mergePieces ag (i + 1) rest 0 (w - k) (v / 2 ^ k)

/-- BST (R251). -/
def execBst (e : Bool) (ra rb rc : GReg) (m : MForm) (s : State) : Host.Outcome State Fault Refusal :=
  runStrand (issue 8 e false [ra, rb, rc] [] do
    let v ← srcStore rc
    let base ← srcG ra
    let x ← srcG rb
    let b := bitAddr base x
    let ag := (← get).me
    orderGate m.order
    mergePieces ag 0 (← wordPlaces ag 0 (wordPieces b (bitW m))) (b % 32) (bitW m) v.toNat
    endAccess ag
    return .done) s

/-! ### Line operations (R253) -/

/-- The first byte of the line that holds an address. -/
def lineBase (a : Word) : Word := BitVec.ofNat 64 (a.toNat / 64 * 64)

/-- PF's fill; whatever fails is ignored, and the fill of a versioned page is dropped (R253, log 15). -/
def State.prefetch (s : State) (a : Word) : State :=
  let ag := s.me
  match resolve ag .prefetch a 1 s with
  | .ok (.phys pa leaf, t) =>
    if tagFor ag leaf ≠ 0 then t
    else
      match readPhys ag (pa / 64 * 64) 64 leaf t with
      | .ok (_, u) => u
      | .error _ => t
  | .ok (_, t) => t
  | .error _ => s

/-- PF (R253). -/
def execPf (ra : GReg) (m : MForm) (s : State) : Host.Outcome State Fault Refusal :=
  runStrand (issuePlain 8 [ra] [] do
    let a ← ea ra m
    upd fun s => s.prefetch a) s

/-- A dirty unregistered line is written back by a core that waits for it: at the home first, a soft line's list included (R75, R104). -/
def giveBack (ag : Agent) (line : Nat) : Exec Unit := do
  match ((← get).coreAt ag.core).l1.find line with
  | some l =>
    if l.uo ∧ l.dirty ≠ 0 then
      homeWant ag (line * 64) 64 true .exclude none
      upd fun s => s.uoWriteBack ag.core line
  | none => pure ()

/-- Writes back lines in order; one that must wait leaves those before it clean. -/
def giveBackAll (ag : Agent) : List Nat → Exec Unit
  | [] => pure ()
  | l :: rest => do
    giveBack ag l
    giveBackAll ag rest

/-- CWB's effect on a line: its dirty sectors are written back and it stays, clean; a line under a VTAG is left (R253). A
coherent line stays owned, its bytes at the home (log 8), and its write-back is a direct write (R151). -/
def State.cleanLine (s : State) (core line : Nat) : State :=
  match (s.coreAt core).l1.find line with
  | some l =>
    if l.vtag ≠ 0 then s
    else if l.uo then s.uoWriteBack core line
    else if l.state = .modified then
      (s.writeBack core line l).modCore core fun c => { c with l1 := c.l1.set line { l with dirty := 0, state := .exclusive } }
    else s
  | none => s

/-- CINV's effect: the L1 copy leaves as an evicted line does, and for a line of another die the die's RDC copy too (R253, R73). -/
def State.dropLine (s : State) (core line : Nat) : State :=
  let s := s.evictL1 core line
  if core / 256 = dieOf (line * 64) then s else s.evictRdc (core / 256) line

/-- CWB (R253). -/
def execCwb (ra : GReg) (m : MForm) (s : State) : Host.Outcome State Fault Refusal :=
  runStrand (issuePlain 8 [ra] [] do
    let a ← ea ra m
    let ag := (← get).me
    match ← resolve ag .writeBack a 1 with
    | .phys pa _ => do
      giveBack ag (pa / 64)
      upd fun s => s.cleanLine s.core (pa / 64)
    | _ => pure ()) s

/-- CINV (R253). -/
def execCinv (ra : GReg) (m : MForm) (s : State) : Host.Outcome State Fault Refusal :=
  runStrand (issuePlain 8 [ra] [] do
    let a ← ea ra m
    let ag := (← get).me
    match ← resolve ag .invalidate a 1 with
    | .phys pa _ => do
      giveBack ag (pa / 64)
      upd fun s => s.dropLine s.core (pa / 64)
    | _ => pure ()) s

/-! ### Fences (R107, R254, R255) -/

/-- The unregistered lines of a core's L1 that have dirty sectors (Table 4.4, kind u). -/
def State.dirtyUo (s : State) (core : Nat) : List Nat :=
  ((s.coreAt core).l1.filter fun e => e.2.uo && e.2.dirty != 0).map (·.1)

/-- The unregistered lines of a core's L1 are invalidated. -/
def State.dropUo (s : State) (core : Nat) : State :=
  s.modCore core fun c => { c with l1 := c.l1.filter fun e => ! e.2.uo }

/-- The partition's unregistered lines of a die's RDC are invalidated (R58). -/
def State.dropUoRdc (s : State) (d part : Nat) : State :=
  s.modDie d fun x => { x with rdc := x.rdc.filter fun e => ! (e.2.uo && s.homeCheck part (e.1 * 64) == .ok) }

/-- Whether a message or end marker of a strand has not reached a buffer where its mortise resides, or an acknowledgement of it its
tenon record (Table 4.4, kind c). -/
def State.messageInFlight (s : State) (sid : Nat) : Bool := s.sys.transit.any fun t => t.sid == sid && ! t.landed

/-- What a FENCE does to the caches once its conditions hold and every dirty unregistered sector is written back (Table 4.4, kind u). -/
def fenceCaches (scope : Scope) (s : State) : State :=
  let s := s.dropUo s.core
  if scope = .quad ∨ scope = .die then s else s.dropUoRdc (s.core / 256) s.myPart

/-- FENCE (R254): kinds u, e, c and x in bits 0 to 3; every kind includes o. Registration of versioned accesses is performed with
each access, so x waits for nothing more (log 1). -/
def execFence (kinds : BitVec 4) (scope : Scope) (s : State) : Host.Outcome State Fault Refusal :=
  runStrand (issuePlain 8 [] [] do
    releaseNow
    let s ← get
    if bit kinds 1 ∧ s.cur.pend ≠ 0 then stall .memory
    if bit kinds 2 ∧ s.messageInFlight s.cur.sid then stall .memory
    if bit kinds 0 ∧ scope ≠ .core then
      giveBackAll s.me (s.dirtyUo s.core)
      upd (fenceCaches scope)) s

/-- WOSC (R255). -/
def execWosc (s : State) : Host.Outcome State Fault Refusal :=
  runStrand (issuePlain 8 [] [] releaseNow) s

/-! ### Atomics (R78 to R90, R256) -/

/-- What AMOs and CASes a host page takes (Table 3.9). -/
def amoSent : AmoOp → Bool
  | .add | .swap => true
  | _ => false

/-- The new value that an AMO or CAS of `n` bytes gives (R79). -/
def HostAtomic.apply (r : HostAtomic) (n old : Nat) : Nat :=
  match r.op with
  | some op => amoApply op n old r.x
  | none => if old = r.cmp then r.x else old

/-- The read-modify-write of a place: a local store, the home of a line, or host memory, where the host performs it when its AtomicOp completes
(R80, R81, R89). -/
def atomicAt (ag : Agent) (p : Place) (va : Word) (n : Nat) (r : HostAtomic) : Exec Nat := do
  match p with
  | .ls c off => do
    injectWindow ag c true n
    rmwLs ag c off n (r.apply n)
  | .phys pa leaf => rmwPhys ag pa n leaf true (r.apply n)
  | .host ua _ => return ofBytes (← hostRequest ag ua va n 0 (some r) Cause.hostAtomic (injectHost ag true n))

/-- The checks of an atomic and its place, then what it waits for (R82, R88): a kind that is not sent to the host faults on a host page. -/
def atomicPlace (ag : Agent) (cls : Access) (o : Order) (a : Word) (n : Nat) (sent : Bool) : Exec Place := do
  if a.toNat % n ≠ 0 then trap Cause.align a
  let p ← resolve ag cls a n
  if p.isHost && ! sent then trapIn Cause.hostAtomic a
  orderGate o
  accessGate ag p n
  migrateGate ag a p
  return p

/-- An AMO or CAS: its checks and place, and its old value. One whose AtomicOp has been sent waits for the host's answer (R89). -/
def atomicOp (o : Order) (a : Word) (n : Nat) (sent : Bool) (r : HostAtomic) : Exec Nat := do
  let ag := (← get).me
  match ((← get).progOf ag).got.find 0 with
  | some bs => do
    endAccess ag
    return ofBytes bs
  | none => do
    if (← get).sentPiece ag 0 then stallOrFail ag a Cause.hostAtomic
    atomicAt ag (← atomicPlace ag .atomic o a n sent) a n r

/-- AMO (R256). -/
def execAmo (e : Bool) (op : AmoOp) (rd ra rc : GReg) (m : MForm) (s : State) : Host.Outcome State Fault Refusal :=
  runStrand (issue 8 e false [ra, rc] [rd] do
    let x ← srcStore rc
    let a ← ea ra m
    checkDest rd
    let n := m.size.bytes
    let old ← atomicOp m.order a n (amoSent op) { op := some op, x := x.toNat % 2 ^ (8 * n), cmp := 0 }
    writeSized m.size m.zx rd old) s

/-- CAS (R256). -/
def execCas (e : Bool) (rd ra rb rc : GReg) (m : MForm) (s : State) : Host.Outcome State Fault Refusal :=
  runStrand (issue 8 e false (ra :: pairRegs m.size rb ++ pairRegs m.size rc) (pairRegs m.size rd) do
    let new ← storeData m.size rc
    let a ← ea ra m
    let lo ← srcG rb
    let hi ← if m.size = .q then srcG (rb + 1) else pure 0
    checkDests (pairRegs m.size rd)
    let n := m.size.bytes
    let cmp := (lo.toNat + 2 ^ 64 * hi.toNat) % 2 ^ (8 * n)
    let old ← atomicOp m.order a n true { op := none, x := new, cmp := cmp }
    writeSized m.size true rd old) s

/-- The agent of a reduction on its way, which no strand's slot waits for: slot 16 says so. -/
def Agent.ofRed (ag : Agent) (r : RedReq) : Agent := { ag with slot := 16, unit := redUnit + r.id }

/-- A reduction goes on its way: it counts in OSC and in its core's generation (R83, R36). The reduction of an elect step completes only when
it has been performed (R116). -/
def sendRed (r : RedReq) : Exec Unit := do
  modCur fun y => { y with osc := y.osc + 1, op := if r.elect then .waiting else y.op }
  upd fun s => (s.modGen false 0 s.core GenCount.issue).post (.redAtHome r)
  if r.elect then stall .memory

/-- Gathers a reduction in the L1, or sends it on its way there while its line's grant must wait (R83, R84). -/
def gatherOrSend (ag : Agent) (r : RedReq) : Exec Unit := fun s =>
  match gatherRed (ag.ofRed r) r.key r.op r.size r.x.toNat s with
  | .error (.wait _ t) => sendRed { r with gather := true } t
  | res => res

/-- RED (R84, R256): gathered in the L1, performed at a local store, or sent to its home; `e` says that it is an elect step. A strand whose OSC
has reached its limit waits (R83), after the checks of R82. -/
def redOp (e : Bool) (op : RedOp) (size : Size) (o : Order) (a : Word) (x : Nat) : Exec PostedValue := do
  match (← cur).op with
  | .done _ => modCur fun y => { y with op := .idle }
  | .waiting => stall .memory
  | .idle => do
    let n := size.bytes
    let ag := (← get).me
    let p ← atomicPlace ag .red o a n false
    if (← cur).osc = 65535 then stall .memory
    match p with
    | .ls c off =>
      injectWindow ag c true n
      let _ ← rmwLs ag c off n fun old => redApply op n old x
    | .host _ _ => trapIn Cause.hostAtomic a
    | .phys pa leaf =>
      let tag := tagFor ag leaf
      let s ← get
      let r : RedReq :=
        { core := s.core, slot := s.slot, key := pa, size := size, op := op, x := BitVec.ofNat 64 x, vtag := tag
          so := kindOf leaf == 0, rel := o == .rel, gen := (s.coreAt s.core).gen.no, launch := ag.launch, elect := e, id := s.tick }
      if tag = 0 ∧ (ag.core / 256 = dieOf pa ∨ kindOf leaf = 1) then gatherOrSend ag r
      else
        injectAccess ag (s.homeQuadOf pa) true n
        sendRed r
  return .done

/-- RED (R256). -/
def execRed (e : Bool) (op : RedOp) (ra rc : GReg) (m : MForm) (s : State) : Host.Outcome State Fault Refusal :=
  runStrand (issue 8 e false [ra, rc] [] do
    let x ← srcStore rc
    let a ← ea ra m
    redOp e op m.size m.order a (x.toNat % 2 ^ (8 * m.size.bytes))) s

end Sys2Proof.Machine
end

