-- ==== Sys2Proof/Machine/Registers.lean ====
section
/-! DEFINITION. State registers: SRD and SWR and the writes that have behaviour of their own (R38, R75 to R77, R152, R168, R239 to
R241, R364, R368, R372, R380, R381, R384, R385, R387, R395, R417). -/

namespace Sys2Proof.Machine

/-! ### Which registers there are (Tables 11.3, 16.8 and 17.6) -/

/-- Whether a number is assigned. -/
def regAssigned (n : Nat) : Bool :=
  decide (n ≤ 0x00E) || decide (0x010 ≤ n ∧ n ≤ 0x015) || decide (0x840 ≤ n ∧ n ≤ 0x842) || decide (0x844 ≤ n ∧ n ≤ 0x848)
    || decide (0x850 ≤ n ∧ n ≤ 0x856) || decide (0x860 ≤ n ∧ n ≤ 0x871) || decide (0x880 ≤ n ∧ n ≤ 0x886)
    || decide (0x888 ≤ n ∧ n ≤ 0x88E)

/-- Whether a user slot may not even read it. -/
def regSupervisorOnly (n : Nat) : Bool := n == 0x004 || (decide (0x800 ≤ n) && n != 0x856)

/-- The registers that the supervisor slot may only read. -/
def regReadOnly (n : Nat) : Bool :=
  [0x005, 0x006, 0x007, 0x008, 0x015, 0x842, 0x848, 0x870, 0x880, 0x881, 0x888, 0x889, 0x88D, 0x88E].contains n

/-- The registers that a user slot may write. -/
def regUserWrite (n : Nat) : Bool := [0x00A, 0x00B, 0x010, 0x011, 0x012, 0x013, 0x014].contains n

/-- The checks of R239, before the value is looked at. -/
def regCheck (write : Bool) (num : BitVec 12) : Exec Unit := do
  let s ← get
  let n := num.toNat
  if ! regAssigned n then trap Cause.illegal 0
  if regSupervisorOnly n ∧ s.slot ≠ 15 then trap Cause.privilege (zx64 num)
  if write ∧ (if s.slot = 15 then regReadOnly n else ! regUserWrite n) then trap Cause.privilege (zx64 num)

/-- The slot that a "sel" register reaches (R241): a user slot's own; in the supervisor slot that of XSEL, if its strand is
suspended by a trap or stopped, or slot 15 itself. -/
def State.selSlot (s : State) : Option Nat :=
  if s.slot ≠ 15 then some s.slot
  else
    let k := (s.coreAt s.core).xsel.toNat
    let x := s.slotAt s.core k
    if k = 15 then some 15 else if x.occupied ∧ (x.trapped ∨ x.stopped) then some k else none

/-- A value refused by its register's layout (R239). -/
def refuseIf (b : Bool) : Exec Unit := if b then trap Cause.illegal 0 else pure ()

/-! ### Reading -/

/-- SELFID (Table 7.3). -/
def State.selfId (s : State) : Word :=
  BitVec.ofNat 64 (s.core * 2 ^ 32 + s.myPart % 32 * 2 ^ 19 + s.vcnOf s.core * 2 ^ 8 + s.slot)

/-- LAUNCH (Table 6.2). -/
def State.launchReg (s : State) : Word :=
  let x := s.cur
  match (if x.member then (s.partAt s.myPart).liveLaunch x.lnum else none) with
  | some l => BitVec.ofNat 64 (l.tolerant.toNat * 2 ^ 25 + 2 ^ 24 + l.tag.toNat * 2 ^ 16 + l.lnum.toNat)
  | none => 0

/-- A sel register's value. -/
def Slot.selReg (x : Slot) (n : Nat) : Word :=
  match n with
  | 0x000 => x.xstat
  | 0x001 => x.xcause
  | 0x002 => x.xvalue
  | 0x003 => x.xpc
  | 0x00C => x.xtgt
  | 0x00D => x.reps
  | 0x00E => x.repa
  | 0x870 => zx64 x.tags
  | _ => if 0x860 ≤ n ∧ n < 0x870 then x.g[n - 0x860]! else 0

/-- Whether a number is a sel register. -/
def regSel (n : Nat) : Bool :=
  decide (n ≤ 0x003) || decide (0x00C ≤ n ∧ n ≤ 0x00E) || decide (0x860 ≤ n ∧ n ≤ 0x871)

/-- A register's value, other than CYCLE and the sel registers. -/
def State.plainReg (s : State) (n : Nat) : Word :=
  let c := s.coreAt s.core
  let x := s.cur
  let p := s.partAt s.myPart
  match n with
  | 0x004 => c.xvec
  | 0x005 => s.selfId
  | 0x007 => zx64 x.osc
  | 0x008 => s.launchReg
  | 0x009 => BitVec.ofNat 64 (c.raised.toNat * 2 ^ 63 + c.sliceLen.toNat)
  | 0x00A => x.dstat
  | 0x00B => x.fstat
  | 0x010 => x.lossI
  | 0x011 => x.lossM
  | 0x012 => x.lossG
  | 0x013 => x.lossV
  | 0x014 => BitVec.ofNat 64 (c.histSel.toNat * 2 ^ 59 + (c.hist.get 0 c.histSel.toNat).toNat)
  | 0x015 => zx64 (s.dieAt (s.core / 256)).fphase
  | 0x840 => c.inva
  | 0x842 => s.sys.astb
  | 0x846 => p.shob
  | 0x847 => p.shos
  | 0x848 => s.sys.vstb.get 0 s.myPart
  | 0x850 => zx64 c.dqt
  | 0x851 => zx64 c.dqb
  | 0x852 => c.spb
  | 0x853 => zx64 c.fper
  | 0x854 => c.lslk
  | 0x855 => zx64 c.xsel
  | 0x856 => zx64 c.hasid
  | 0x880 => match c.trapQ with
    | r :: _ => r.w0
    | [] => 0
  | 0x881 => match c.trapQ with
    | r :: _ => r.w1
    | [] => 0
  | 0x885 => p.savb
  | 0x886 => p.chdisc
  | 0x888 => s.callHead (s.callFn s.core)
  | 0x889 => p.calb
  | 0x88D => p.trb
  | 0x88E => p.trl
  | _ => 0

/-- CYCLE: the core's count at issue, logged by record and forced by replay (R239, R393). -/
def readCycle : Exec Word := do
  let s ← get
  let c := s.coreAt s.core
  match s.forced s.myPart .cycle s.core with
  | .free =>
    upd fun s => s.logChoice s.myPart .cycle s.core [c.cycle.toNat]
    return c.cycle
  | .value v =>
    upd fun s => s.takeForced s.myPart fun e => e.same .cycle s.core
    return BitVec.ofNat 64 (v.headD 0)
  | .wait =>
    upd fun s => s.forcedWait s.myPart s.core
    stall .memory

/-- ReadState (R239): a register written only reads as zero, and so does a sel register without its strand. -/
def readState (num : BitVec 12) : Exec Word := do
  let n := num.toNat
  if n = 0x006 then readCycle
  else
    let s ← get
    if regSel n then
      match s.selSlot with
      | some k => return (s.slotAt s.core k).selReg n
      | none => return 0
    else return s.plainReg n

/-! ### Writes with behaviour of their own -/

/-- Whether a shootdown of a partition removes a cached entry (R37, R38). -/
def TlbEntry.shot (t : TlbEntry) (part : Nat) (d inva : Word) : Bool :=
  let g := bit t.leaf 9
  let asid := BitVec.ofNat 8 (field d 8 8)
  let mine := if g then t.part == part else t.asid == asid
  let page := field inva 12 45
  let n := if field d 0 2 = 1 then 2 ^ field d 16 6 else 1
  let base := page / n * n
  let size := 2 ^ (t.log2 - 12)
  match field d 0 2 with
  | 2 => ! g && t.asid == asid
  | 3 => t.part == part
  | _ => mine && pagesMeet (t.page * size) size base n

/-- Whether a shootdown of a partition removes a cached pointer entry: one that a walk of a page it covers would use (R37, R38). -/
def PointerEntry.shot (t : PointerEntry) (part : Nat) (d inva : Word) : Bool :=
  let page := field inva 12 45
  let n := if field d 0 2 = 1 then 2 ^ field d 16 6 else 1
  let size := 2 ^ (9 * t.level)
  match field d 0 2 with
  | 2 => t.asid == BitVec.ofNat 8 (field d 8 8)
  | 3 => t.part == part
  | _ => t.part == part && pagesMeet (t.page * size) size (page / n * n) n

/-- Step 1 of a shootdown: its entries leave every TLB and walk cache (R37). -/
def State.shootEntries (s : State) (part : Nat) (d inva : Word) : State :=
  { s with
    cores := s.cores.map fun (c : Nat × Core) => (c.1, { c.2 with l1tlb := c.2.l1tlb.filter fun t => ! t.shot part d inva })
    quads := s.quads.map fun (q : Nat × Quad) => (q.1, { q.2 with l2tlb := q.2.l2tlb.filter fun t => ! t.shot part d inva })
    dies := s.dies.map fun (x : Nat × Die) => (x.1, { x.2 with walkCache := x.2.walkCache.filter fun t => ! t.shot part d inva }) }

/-- Step 2 of a shootdown: every unit of the partition starts a new generation (R37), the feeds and walkers of its dies among them. Their
requests are complete when the step that issues them is, so they count none. -/
def State.moveGenerations (s : State) (part : Nat) : State :=
  let mine (q : Nat) : Bool := (s.partAt part).quads.contains q
  let onDie (d : Nat) : Bool := (s.partAt part).quads.any fun q => q / 64 == d
  { s with
    cores := s.cores.map fun (c : Nat × Core) =>
      (c.1, if mine (c.1 / 4) then { c.2 with gen := c.2.gen.advance, trussGen := c.2.trussGen.advance } else c.2)
    quads := s.quads.map fun (q : Nat × Quad) => (q.1, if mine q.1 then { q.2 with copyGen := q.2.copyGen.advance } else q.2)
    dies := s.dies.map fun (d : Nat × Die) =>
      (d.1, if onDie d.1 then
          { d.2 with
            infeedGen := d.2.infeedGen.advance, outfeedGen := d.2.outfeedGen.advance, walkGen := d.2.walkGen.advance }
        else d.2) }

/-- Whether a unit of a partition still counts requests of its previous generation (R37). -/
def State.draining (s : State) (part : Nat) : Bool :=
  let mine (q : Nat) : Bool := (s.partAt part).quads.contains q
  let onDie (d : Nat) : Bool := (s.partAt part).quads.any fun q => q / 64 == d
  (s.cores.any fun c => mine (c.1 / 4) && (c.2.gen.before != 0 || c.2.trussGen.before != 0))
    || (s.quads.any fun q => mine q.1 && q.2.copyGen.before != 0)
    || s.dies.any fun d => onDie d.1 && (d.2.infeedGen.before != 0 || d.2.outfeedGen.before != 0 || d.2.walkGen.before != 0)

/-- Starts the shootdown at the head of a partition's sequencer (R39). -/
def State.startShootdown (s : State) (part : Nat) : State :=
  match (s.partAt part).shoots with
  | [] => s
  | h :: rest =>
    if h.begun then s
    else
      (((s.shootEntries part h.d h.inva).moveGenerations part).modPart part fun p => { p with shoots := { h with begun := true } :: rest }).post
        (.shootdownAcknowledge part)

/-- SWR of INVD (R38). -/
def writeInvd (d : Word) : Exec Unit := do
  match (← cur).op with
  | .done _ => modCur fun x => { x with op := .idle }
  | .waiting => stall .memory
  | .idle =>
    let s ← get
    let part := s.myPart
    refuseIf (field d 22 42 != 0 || field d 2 6 != 0)
    refuseIf (field d 0 2 == 1 && decide (30 < field d 16 6))
    refuseIf (field d 0 2 == 3 && field d 8 8 != 0)
    if field d 0 2 ≠ 3 ∧ field (s.astEntry (BitVec.ofNat 8 (field d 8 8))) 2 5 ≠ part then trap Cause.privilege 0x841
    upd fun s => (s.modPart part fun p =>
      { p with shoots := p.shoots ++
          [{ d := d, inva := (s.coreAt s.core).inva, core := s.core, slot := s.slot, begun := false }] }).startShootdown part
    modCur fun x => { x with op := .waiting }
    stall .memory

/-- SWR of HASID (R417). -/
def writeHasid (v : Word) : Exec Unit := do
  let s ← get
  refuseIf (field v 8 56 != 0)
  refuseIf (! s.asidOwned (BitVec.ofNat 8 v.toNat) s.myPart)
  upd fun s => s.modCore s.core fun c => { c with hasid := BitVec.ofNat 8 v.toNat }

/-- Whether the slice beside the writing core's router is a line's home (R77). -/
def State.besideHome (s : State) (line : Nat) : Bool := s.homeQuadOf (line * 64) == s.core / 4

/-- SWR of DIRPTR (R75, R77): one recorded sharer of a line whose list is requested. -/
def writeDirptr (v : Word) : Exec Unit := do
  refuseIf (field v 0 6 != 0)
  let line := field v 6 46
  upd fun s =>
    if ! s.besideHome line then s
    else
      s.modDie (dieOf (line * 64)) fun x =>
        { x with lists := x.lists.map fun l =>
            if l.line = line ∧ ! l.ready then { l with ptrs := l.ptrs ++ [BitVec.ofNat 12 (field v 52 12)] } else l }

/-- SWR of DIRDONE (R75 to R77): the list is complete, or the line is broadcast. -/
def writeDirdone (v : Word) : Exec Unit := do
  refuseIf (field v 52 12 != 0 || field v 2 4 != 0 || bit v 1)
  let line := field v 6 46
  upd fun s =>
    if ! s.besideHome line then s
    else
      let s := if field v 0 2 = 1 ∧ (bit (s.dirAt line) 53 ∨ (s.dieAt (dieOf (line * 64))).lists.any fun l => l.line == line && ! l.ready) then
          s.setDir line (setBit (s.dirAt line) 52 true)
        else s
      s.modDie (dieOf (line * 64)) fun x =>
        { x with lists := x.lists.map fun l => if l.line = line then { l with ready := true } else l }

/-- SWR of LSLK (R168). -/
def writeLslk (v : Word) : Exec Unit := do
  refuseIf (field v 0 4 != 0 || bit v 19 || field v 35 29 != 0)
  upd fun s => s.modCore s.core fun c => { c with lslk := v }

/-- SWR of TQPOP (R364): the head record leaves; one that waits at its source then has room. -/
def writeTqpop : Exec Unit := upd fun s =>
  let s := s.modCore s.core fun c => { c with trapQ := c.trapQ.drop 1 }
  if (s.coreAt s.core).held = [] then s else s.post (.trapQueueEntry s.core)

/-- SWR of XKILL (R368): a suspended or stopped strand is discarded at once, another at its next boundary, for which the SWR waits. -/
def writeXkill (v : Word) : Exec Unit := do
  let s ← get
  let k := field v 0 4
  refuseIf (field v 9 55 != 0 || field v 4 4 != 0 || k == 15)
  let x := s.slotAt s.core k
  match s.cur.op with
  | .waiting =>
    if x.kill.isSome then stall .memory
    modCur fun y => { y with op := .idle }
  | _ =>
    if ! x.occupied then pure ()
    else if x.trapped ∨ x.stopped then upd fun s => s.discard s.core k (bit v 8)
    else
      upd fun s => s.modSlot s.core k fun y => { y with kill := some (bit v 8) }
      modCur fun y => { y with op := .waiting }
      stall .memory

/-- SWR of DSTOP (R380): a stop takes effect at the strand's next boundary; a restart ends it. -/
def writeDstop (v : Word) : Exec Unit := do
  let k := field v 0 4
  refuseIf (field v 5 59 != 0 || k == 15)
  upd fun s =>
    let x := s.slotAt s.core k
    if bit v 4 then (if x.occupied ∧ ! x.stopped then s.modSlot s.core k fun y => { y with stopReq := true } else s)
    else if x.stopped then s.modSlot s.core k fun y => { y with stopped := false } else s

/-- SWR of XJNT (R241): the tag of a register that holds a value in joint format. -/
def writeXjnt (v : Word) : Exec Unit := do
  refuseIf (field v 4 60 != 0)
  let s ← get
  let n := field v 0 4
  match s.selSlot with
  | none => pure ()
  | some k =>
    let j := (s.slotAt s.core k).g[n]!
    refuseIf (jointKind j == 0 || field j 26 6 != 0)
    upd fun s => s.modSlot s.core k fun x => { x with tags := setBit x.tags n true }

/-- Whether the shadow overflow area may be reconfigured: no live launch, every tag free (R152). -/
def Part.shadowIdle (p : Part) : Bool := p.vst.all fun e => field e.2 30 2 == 0

/-- SWR of SHOB (R152). -/
def writeShob (v : Word) : Exec Unit := do
  refuseIf (field v 52 12 != 0 || field v 0 11 != 0)
  upd fun s =>
    let p := s.partAt s.myPart
    if bit p.shos 5 ∨ ! p.shadowIdle then s else s.modPart s.myPart fun p => { p with shob := v }

/-- SWR of SHOS (R152). -/
def writeShos (v : Word) : Exec Unit := do
  let lb := field v 0 5
  let p := (← get).partAt (← get).myPart
  refuseIf (field v 6 58 != 0 || decide (lb < 4) || decide (19 < lb))
  refuseIf (bit v 5 && p.shob.toNat % (2 ^ lb * 2048) != 0)
  upd fun s => if ! p.shadowIdle then s else s.modPart s.myPart fun p => { p with shos := v }

/-- Whether a save or restore of a partition is in progress (R372). -/
def State.savingPart (s : State) (part : Nat) : Bool :=
  s.cores.any fun c => s.partOf c.1 == part && (c.2.saving.isSome || c.2.restVcn.isSome)

/-- SWR of SAVB (R372). -/
def writeSavb (v : Word) : Exec Unit := do
  refuseIf (field v 52 12 != 0 || field v 1 19 != 0)
  upd fun s => if s.savingPart s.myPart then s else s.modPart s.myPart fun p => { p with savb := v }

/-- SWR of CALLR (R385): a release at sys scope, then the reply write and the MSI-X vector. -/
def writeCallr (v : Word) : Exec Unit := do
  let s ← get
  let f := s.callFn s.core
  let k := field v 32 6
  let off := field v 0 19
  refuseIf (field v 38 26 != 0 || field v 19 13 != 0 || off % 32 != 0)
  match (s.frames f).find k with
  | none => trap Cause.illegal 0
  | some x =>
    refuseIf (x.replied || hdrReply x.bytes == 0)
    releaseNow
    match s.replyFrame f k (Memory.readList s.mem (lsKey s.core off) 32) with
    | .error t => fun _ => .error (.wait .memory t)
    | .ok t => set t

/-- SWR of FREC (R387). -/
def writeFrec (v : Word) : Exec Unit := do
  refuseIf (field v 19 45 != 0 || field v 0 6 != 0)
  releaseNow
  upd fun s => s.postRecord (partFn s.myPart) (Memory.readList s.mem (lsKey s.core v.toNat) 64)

/-- A sel register's write. -/
def Slot.setSelReg (x : Slot) (n : Nat) (v : Word) : Slot :=
  match n with
  | 0x000 => { x with xstat := v }
  | 0x001 => { x with xcause := v }
  | 0x002 => { x with xvalue := v }
  | 0x003 => { x with xpc := v }
  | 0x00C => { x with xtgt := v }
  | 0x00D => { x with reps := v, block := [] }
  | 0x00E => { x with repa := v, block := [] }
  | _ => if 0x860 ≤ n ∧ n < 0x870 then x.setG (BitVec.ofNat 4 (n - 0x860)) v else x

/-- Whether a value breaks the layout of a register without behaviour of its own (Tables 11.3 to 11.11). -/
def regRefuses (n : Nat) (v : Word) : Bool :=
  match n with
  | 0x000 => field v 32 32 != 0
  | 0x001 => field v 9 55 != 0
  | 0x003 | 0x004 | 0x00C | 0x00E => field v 57 7 != 0 || field v 0 2 != 0
  | 0x009 => field v 32 31 != 0
  | 0x00A => field v 2 62 != 0
  | 0x00B => fstatRefused v
  | 0x00D => field v 0 37 != 0 || decide (repsK v < repsJ v) || decide (repsN v < repsI v)
  | 0x014 => field v 0 59 != 0 || decide (16 < field v 59 5)
  | 0x852 => field v 52 12 != 0 || field v 0 12 != 0
  | 0x853 => field v 5 59 != 0 || decide (v.toNat < 16) || decide (24 < v.toNat)
  | 0x855 => field v 4 60 != 0
  | _ => false

/-- Stores the checked value of a register without behaviour of its own. -/
def State.setPlainReg (s : State) (n : Nat) (v : Word) : State :=
  let core (f : Core → Core) : State := s.modCore s.core f
  match n with
  | 0x004 => core fun c => { c with xvec := v }
  | 0x009 => core fun c => { c with sliceLen := BitVec.ofNat 32 v.toNat, raised := false }
  | 0x00A => s.modCur fun x => { x with dstat := v }
  | 0x00B => s.modCur fun x => { x with status := setField x.status 4 8 (field v 4 8) }
  | 0x010 => s.modCur fun x => { x with lossI := v }
  | 0x011 => s.modCur fun x => { x with lossM := v }
  | 0x012 => s.modCur fun x => { x with lossG := v }
  | 0x013 => s.modCur fun x => { x with lossV := v }
  | 0x014 => core fun c => { c with histSel := BitVec.ofNat 5 (field v 59 5) }
  | 0x840 => core fun c => { c with inva := BitVec.ofNat 64 (field v 12 45 * 4096) }
  | 0x850 => core fun c => { c with dqt := BitVec.ofNat 32 v.toNat }
  | 0x851 => core fun c => { c with dqb := BitVec.ofNat 32 v.toNat }
  | 0x852 => core fun c => { c with spb := v }
  | 0x853 => core fun c => { c with fper := BitVec.ofNat 5 v.toNat }
  | 0x855 => core fun c => { c with xsel := BitVec.ofNat 4 v.toNat }
  | 0x886 => s.modPart s.myPart fun p => { p with chdisc := v }
  | _ => s

/-- A register without behaviour of its own. -/
def writePlain (num : BitVec 12) (v : Word) : Exec Unit := do
  let n := num.toNat
  refuseIf (regRefuses n v)
  if regSel n then
    match (← get).selSlot with
    | some k => upd fun s => s.modSlot s.core k fun x => x.setSelReg n v
    | none => pure ()
  else upd fun s => s.setPlainReg n v

/-- WriteState (R239). -/
def writeState (num : BitVec 12) (v : Word) : Exec Unit :=
  match num.toNat with
  | 0x841 => writeInvd v
  | 0x844 => writeDirptr v
  | 0x845 => writeDirdone v
  | 0x846 => writeShob v
  | 0x847 => writeShos v
  | 0x854 => writeLslk v
  | 0x856 => writeHasid v
  | 0x871 => writeXjnt v
  | 0x882 => writeTqpop
  | 0x883 => writeXkill v
  | 0x884 => writeDstop v
  | 0x885 => writeSavb v
  | 0x88A => upd fun s => s.callPop (s.callFn s.core)
  | 0x88B => writeCallr v
  | 0x88C => writeFrec v
  | _ => writePlain num v

/-! ### SRD and SWR -/

/-- SRD (R239). -/
def execSrd (e : Bool) (rd : GReg) (num : BitVec 12) (s : State) : Host.Outcome State Fault Refusal :=
  runStrand (issue 8 e false [] [rd] do
    regCheck false num
    checkDest rd
    let v ← readState num
    writeG rd v
    return .g rd v) s

/-- SWR (R239). -/
def execSwr (e : Bool) (ra : GReg) (num : BitVec 12) (s : State) : Host.Outcome State Fault Refusal :=
  runStrand (issue 8 e false [ra] [] do
    regCheck true num
    let v ← srcG ra
    writeState num v
    return .done) s

/-- A write of one register, as the SWR that the strand issues performs it; `applies` tells whether the row is that of the value. -/
def swrRow (num : BitVec 12) (applies : Bool) (v : Word) (s : State) : Host.Outcome State Fault Refusal :=
  if ! applies then .next s
  else
    runStrand (issuePlain 8 [] [] do
      regCheck true num
      writeState num v) s

/-- INVD_ONE_PAGE (R38). -/
def execInvdOnePage (d : Word) (s : State) : Host.Outcome State Fault Refusal := swrRow 0x841 (field d 0 2 == 0) d s
/-- INVD_RANGE (R38). -/
def execInvdRange (d : Word) (s : State) : Host.Outcome State Fault Refusal := swrRow 0x841 (field d 0 2 == 1) d s
/-- INVD_ASID (R38). -/
def execInvdAsid (d : Word) (s : State) : Host.Outcome State Fault Refusal := swrRow 0x841 (field d 0 2 == 2) d s
/-- INVD_PARTITION (R38). -/
def execInvdPartition (d : Word) (s : State) : Host.Outcome State Fault Refusal := swrRow 0x841 (field d 0 2 == 3) d s
/-- HASID_WRITE (R417). -/
def execHasidWrite (v : Word) (s : State) : Host.Outcome State Fault Refusal := swrRow 0x856 true v s
/-- DIRPTR_WRITE (R77). -/
def execDirptrWrite (v : Word) (s : State) : Host.Outcome State Fault Refusal := swrRow 0x844 true v s
/-- DIRDONE_LIST_COMPLETE (R75): RESULT 00. -/
def execDirdoneListComplete (v : Word) (s : State) : Host.Outcome State Fault Refusal := swrRow 0x845 (field v 0 2 == 0) v s
/-- DIRDONE_BROADCAST (R76): RESULT 01. -/
def execDirdoneBroadcast (v : Word) (s : State) : Host.Outcome State Fault Refusal := swrRow 0x845 (field v 0 2 == 1) v s
/-- LSLK_WRITE (R168). -/
def execLslkWrite (v : Word) (s : State) : Host.Outcome State Fault Refusal := swrRow 0x854 true v s
/-- TQPOP_WRITE (R364). -/
def execTqpopWrite (v : Word) (s : State) : Host.Outcome State Fault Refusal := swrRow 0x882 true v s
/-- XKILL_WRITE (R368). -/
def execXkillWrite (v : Word) (s : State) : Host.Outcome State Fault Refusal := swrRow 0x883 true v s
/-- DSTOP_STOP (R380): S = 1. -/
def execDstopStop (v : Word) (s : State) : Host.Outcome State Fault Refusal := swrRow 0x884 (bit v 4) v s
/-- DSTOP_RESTART (R380): S = 0. -/
def execDstopRestart (v : Word) (s : State) : Host.Outcome State Fault Refusal := swrRow 0x884 (! bit v 4) v s
/-- XJNT_WRITE (R241). -/
def execXjntWrite (v : Word) (s : State) : Host.Outcome State Fault Refusal := swrRow 0x871 true v s
/-- SHOB_WRITE (R152). -/
def execShobWrite (v : Word) (s : State) : Host.Outcome State Fault Refusal := swrRow 0x846 true v s
/-- SHOS_WRITE (R152). -/
def execShosWrite (v : Word) (s : State) : Host.Outcome State Fault Refusal := swrRow 0x847 true v s
/-- SAVB_WRITE (R372). -/
def execSavbWrite (v : Word) (s : State) : Host.Outcome State Fault Refusal := swrRow 0x885 true v s
/-- CALLR_WRITE (R385). -/
def execCallrWrite (v : Word) (s : State) : Host.Outcome State Fault Refusal := swrRow 0x88B true v s
/-- CALLPOP_WRITE (R384). -/
def execCallpopWrite (v : Word) (s : State) : Host.Outcome State Fault Refusal := swrRow 0x88A true v s
/-- FREC_WRITE (R387). -/
def execFrecWrite (v : Word) (s : State) : Host.Outcome State Fault Refusal := swrRow 0x88C true v s
/-- REG_WRITE (R239): a register without behaviour of its own, or any other number's checks. -/
def execRegWrite (num : BitVec 12) (v : Word) (s : State) : Host.Outcome State Fault Refusal := swrRow num true v s

/-- TRAP_QUEUE_ENTRY (R364): records that wait at their sources enter in order while there is room; one that enters an empty queue
starts a vacant supervisor slot. -/
def State.fillTrapQueue (s : State) (core : Nat) : List TrapRecord → State
  | [] => s
  | r :: rest => (s.pushTrap core r).fillTrapQueue core rest

/-- TRAP_QUEUE_ENTRY. -/
def execTrapQueueEntry (core : Nat) (s : State) : Host.Outcome State Fault Refusal :=
  let h := (s.coreAt core).held
  .next ((s.modCore core fun c => { c with held := [] }).fillTrapQueue core h)

/-! ### SLEEP (R243) -/

/-- The reason that ends a sleep now, if any: 2 a record in the supervisor's queue, 1 a consumable element of a held mortise. -/
def State.wakeReason (s : State) : Option Word :=
  let x := s.cur
  let ready := (setBits x.tags).any fun i =>
    jointKind x.g[i]! == 2 &&
      match s.endRec s.core x.g[i]! with
      | some (_, r) => r.pres.getLsbD (r.elem r.cons) || (r.endv && r.endseq == r.cons)
      | none => false
  if s.slot = 15 ∧ (s.coreAt s.core).trapQ ≠ [] then some 2 else if ready then some 1 else none

/-- One look of a sleeping strand: its end, or the wait for it, with the cycle at which it is due. -/
def sleepBody (rd : GReg) (imm : BitVec 32) : Exec Unit := do
  scoreboard [rd]
  repGate false []
  checkDest rd
  let s ← get
  let now := (s.coreAt s.core).cycle.toNat
  let wake (r : Word) : Exec Unit := do
    modCur fun x => { x with sleep := none }
    writeG rd r
    modCur fun x => x.advance 8
  match s.wakeReason with
  | some r => wake r
  | none =>
    match s.cur.sleep with
    | some due => if imm ≠ 0 ∧ due ≤ now then wake 0 else stall .message
    | none =>
      modCur fun x => { x with sleep := some (now + imm.toNat) }
      stall .message

/-- SLEEP (R243). -/
def execSleep (rd : GReg) (imm : BitVec 32) (s : State) : Host.Outcome State Fault Refusal := runStrand (sleepBody rd imm) s

/-- SLEEP_TIMEOUT (R243): the count of a sleeping strand expires. -/
def execSleepTimeout (core slot : Nat) (s : State) : Host.Outcome State Fault Refusal :=
  let t := { s with core := core, slot := slot }
  match t.cur.sleep with
  | none => .next s
  | some due =>
    if ! t.cur.occupied ∨ (t.coreAt core).cycle.toNat < due then .next s
    else
      match t.fetch with
      | (.instr (.sleep rd imm) _, u) => runStrand (sleepBody rd imm) u
      | _ => .next s

/-- ELECT_VALUE_TAKEN (R170): a member whose posted value has come takes it, and its elect instruction is complete; a destination
that holds a joint faults as in electStep (log 68). -/
def execElectValueTaken (core slot : Nat) (s : State) : Host.Outcome State Fault Refusal :=
  let t := { s with core := core, slot := slot }
  let x := t.cur
  let ready := x.occupied && x.isGang && x.wait == .message && ! x.trapped && ! x.stopped && x.ds == 0 && x.slotPos == 0
  match x.electQ.find? (fun p => p.n == x.electN), t.fetch with
  | some p, (.instr _ n, u) =>
    match u.peekWord0 u.cur.pc with
    | none => .next s
    | some w =>
      if ready ∧ (W0.unpack w).e then
        runStrand (do
          checkDests p.value.dests
          modCur fun x =>
            { (x.takePosted p.value) with
              electN := x.electN + 1, electQ := x.electQ.filter fun q => q.n != x.electN }.advance n) u
      else .next s
  | _, _ => .next s

/-! ### REP (R245) -/

/-- Captures the instruction at an address: it, and its length. -/
def captureOne (a : Word) : Exec (Instr × Nat) := do
  let w0 ← fetchBytes (← get).me a 4
  let w := BitVec.ofNat 32 (ofBytes w0)
  match lengthOf w with
  | none => trap Cause.length a
  | some n =>
    if 32 < field a 0 5 + n then trap Cause.illegal a
    let bs ← fetchBytes (← get).me a n
    let op := (W0.unpack w).op.toNat
    if ! ((decide (0xA0 ≤ op) && decide (op ≤ 0xAC)) || op == 0xAE || op == 0xAF || op == 0xB0) || (W0.unpack w).e then
      trap Cause.rep a
    match decodeBytes bs with
    | .ok i => return (i, n)
    | .error _ => return (.undefinedEncoding false, n)

/-- Captures `n` instructions from an address: they, the address of the first, and the address after the last. -/
def captureFrom (a : Word) : (n : Nat) → Exec (List Instr × Word)
  | 0 => pure ([], a)
  | n + 1 => do
    let (i, len) ← captureOne (skipTail a)
    let (is, b) ← captureFrom (skipTail a + BitVec.ofNat 64 len) n
    return (i :: is, b)

/-- REP (R245): n - 1, k - 1 and s as its immediate holds them. -/
def execRep (n : BitVec 3) (k : BitVec 8) (st : BitVec 4) (s : State) : Host.Outcome State Fault Refusal :=
  runStrand (do
    repGate false []
    noDelaySlot
    let x ← cur
    let a := skipTail (x.pc + 8)
    let (is, b) ← captureFrom a (n.toNat + 1)
    modCur fun x =>
      { x.advance 8 with
        pc := skipTail b, entered := false, repa := a, block := is, aheadN := 0
        reps := BitVec.ofNat 64 (2 ^ 63 + n.toNat * 2 ^ 60 + k.toNat * 2 ^ 52 + st.toNat * 2 ^ 48) }) s

/-- Captures a block again from REPA, after a restore or a supervisor's write (R247). -/
def recapture : Exec Unit := do
  let x ← cur
  let (is, _) ← captureFrom x.repa (repsN x.reps + 1)
  modCur fun x => { x with block := is }

end Sys2Proof.Machine
end

