-- ==== Sys2Proof/Machine/HomeEvents.lean ====
section
/-! DEFINITION. Occurrences at translation caches, port dies, home slices and caches (R34, R37, R39, R41, R46, R72 to R76, R80, R84,
R89, R155, R157, R394, R415). One that is not enabled changes nothing. -/

namespace Sys2Proof.Machine

/-- The agent of a request that a core has sent, under a version tag: no strand waits for it, which slot 16 says. -/
def State.requester (s : State) (core : Nat) (tag : BitVec 8) : Agent :=
  { core := core, slot := 16, part := s.partOf core, asid := 0, super := false, engine := false, copy := false, unit := redUnit - 1, tag := tag
    launch := none, admitted := false, feed := false }

/-! ### Translation -/

/-- TLB_WALK_DONE (R34): the walk's result enters the TLBs; a failed walk leaves nothing. -/
def execTlbWalkDone (core : Nat) (asid : BitVec 8) (va : Word) (write : Bool) (s : State) : Host.Outcome State Fault Refusal :=
  runEvent (do let _ ← translateMiss { s.requester core 0 with asid := asid } va write) s

/-- SHOOTDOWN_ACKNOWLEDGE (R37, R39): once no unit counts a request of its previous generation the strand's INVD is complete, and
the next shootdown starts. -/
def execShootdownAcknowledge (part : Nat) (s : State) : Host.Outcome State Fault Refusal :=
  match (s.partAt part).shoots with
  | [] => .next s
  | h :: rest =>
    if ! h.begun then .next (s.startShootdown part)
    else if s.draining part then .next (s.post (.shootdownAcknowledge part))
    else
      let s := s.modPart part fun p => { p with shoots := rest }
      let s := s.modSlot h.core h.slot fun x => if x.op = .waiting then { x with op := .done 0 } else x
      .next (s.startShootdown part)

/-- INVALIDATE_REQUEST (R37, R39): a host invalidation joins the port die's queue; it is answered once the requests counted before it have
completed. A request without a PASID matches no entry and is answered all the same. -/
def execInvalidateRequest (fn : Nat) (pasid : Option (BitVec 20)) (ua : Word) (pages : Nat) (s : State) :
    Host.Outcome State Fault Refusal :=
  let v : Invalidation := { fn := fn, pasid := pasid, ua := ua, pages := pages, begun := false }
  let port := (s.fnAt fn).port
  .next ((s.modPort port fun p => { p with invals := p.invals ++ [v] }).settleInvalidations port)

/-! ### The host's answers (R41, R89, R415) -/

/-- Changes the host accesses of a function's strands and commands, and of the function itself, to a page in a PASID that have not been sent. -/
def State.modWaiting (s : State) (f : Nat) (pasid : BitVec 20) (ua : Word) (g : HostAccess → HostAccess) : State :=
  let change (h : HostAccess) : HostAccess :=
    if h.pasid = pasid ∧ h.ua.toNat / 4096 = ua.toNat / 4096 ∧ ! h.sent then g h else h
  let s := { s with cores := s.cores.map fun (c : Nat × Core) =>
      (c.1, if s.partOf c.1 = fnPart f then
          { c.2 with slots := c.2.slots.map fun (k : Nat × Slot) => (k.1, { k.2 with host := k.2.host.map change }) }
        else c.2) }
  (s.modPart (fnPart f) fun p => { p with engineHost := p.engineHost.map fun e => (e.1, change e.2) }).modFn f fun x =>
    { x with host := x.host.map fun e => (e.1, change e.2) }

/-- The replies and fault records of a function that have waited for the host are tried again (R383, R387). -/
def State.sendWaiting (s : State) (f : Nat) : State :=
  let s := s.sendOwed f
  s.sendRecords f (s.fnAt f).records

/-- ATS_TRANSLATION_COMPLETION (R41): the answer is cached, whatever it permits, and HostResolve goes on. -/
def execAtsTranslationCompletion (fn : Nat) (pasid : BitVec 20) (ua ta : Word) (r w : Bool) (s : State) :
    Host.Outcome State Fault Refusal :=
  let s := s.modPart (fnPart fn) fun p =>
    { p with atc := { pasid := pasid, ua := ua, ta := ta, r := r, w := w } :: p.atc.filter fun e => ! e.overlaps pasid ua 1 }
  .next ((s.modWaiting fn pasid ua fun h => { h with asked := false }).sendWaiting fn)

/-- What a Page Request Response does to an access that has made the request: a success asks for the translation again, any other response
faults it (R41). -/
def HostAccess.paged (cause : Option (BitVec 8)) (h : HostAccess) : HostAccess :=
  if ! h.paging then h
  else
    match cause with
    | none => { h with paging := false, tries := h.tries + 1, asked := true }
    | some c => { h with paging := false, refused := some c }

/-- PAGE_REQUEST_RESPONSE (R41): the accesses that wait for it go on; Response Failure stops the function's page requests. -/
def execPageRequestResponse (fn : Nat) (pasid : BitVec 20) (ua : Word) (resp : PageResponse) (s : State) :
    Host.Outcome State Fault Refusal :=
  let p := fnPart fn
  if resp = .success then
    let s := s.modPart p fun x => { x with atc := x.atc.filter fun e => ! e.overlaps pasid ua 1 }
    .next ((s.modWaiting fn pasid ua (HostAccess.paged none)).sendWaiting fn)
  else
    let cause := if s.isRevoked p ua then Cause.hostRevoked else Cause.hostPage
    let s := s.modPart p fun x => { x with priStop := x.priStop || resp == .failure }
    .next ((s.modWaiting fn pasid ua (HostAccess.paged (some cause))).sendWaiting fn)

/-- What the host does to the bytes of a request before it answers: an AtomicOp is performed with a Successful Completion, not with an
Unsupported Request, and with any other answer it may have been (R89). -/
def State.hostPerforms (s : State) (h : HostAccess) (res : Completion) : State :=
  match h.amo with
  | none => s
  | some r =>
    if res = .success ∨ (res ≠ .unsupported ∧ Config.hostPerformed s.tick) then
      s.store (hostKey h.ta) h.n (r.apply h.n (s.load (hostKey h.ta) h.n))
    else s

/-- What a completion leaves of an access: with success its bytes, as they are at this moment, and no request; else the failure. -/
def HostAccess.answered (h : HostAccess) (bs : List Byte) (p : Progress) (res : Completion) : Option HostAccess × Progress :=
  if res = .success then (none, { p with got := p.got.set h.index bs }) else (some { h with answer := some res }, p)

/-- The answer to a request that the port die has sent for a strand: what it brings is kept, and the request is uncounted (R35, R36, R401). -/
def State.hostAnswer (s : State) (core slot : Nat) (res : Completion) : State :=
  match (s.slotAt core slot).host with
  | some h =>
    if h.sent ∧ h.answer.isNone then
      let bs := toBytes h.n (s.load (hostKey h.ta) h.n)
      ((s.hostPerforms h res).uncountHost false 0 core (s.partOf core) h).modSlot core slot fun x =>
        { x with
          host := (h.answered bs x.prog res).1, prog := (h.answered bs x.prog res).2 }
    else s
  | none => s

/-- The engine that a completion names, as the unit of a command: a copy by its quad and index; from 512 on, a command of a core's truss by
its stream, the weight-load path being 4; from 2560 on, the call of a partition. -/
def engineUnit (unit index : Nat) : Nat :=
  if unit < 512 then copyUnit unit index else if unit < 2560 then trussUnit + (unit - 512) * 8 + index else callUnit + (unit - 2560)

/-- The partition of that engine. -/
def State.enginePart (s : State) (unit : Nat) : Nat :=
  if unit < 512 then partOfQuad s.parts unit else if unit < 2560 then s.partOf (unit - 512) else unit - 2560

/-- The answer to a request that the port die has sent for an engine command. -/
def State.engineAnswer (s : State) (unit index : Nat) (res : Completion) : State :=
  let part := s.enginePart unit
  let u := engineUnit unit index
  match (s.partAt part).engineHost.find u with
  | some h =>
    if h.sent ∧ h.answer.isNone then
      let bs := toBytes h.n (s.load (hostKey h.ta) h.n)
      let a := h.answered bs (((s.partAt part).engineProg.find u).getD Progress.none) res
      (s.uncountHost true u 0 part h).modPart part fun p =>
        { p with
          engineProg := p.engineProg.set u a.2
          engineHost := match a.1 with
            | some g => p.engineHost.set u g
            | none => Map.erase p.engineHost u }
    else s
  | none => s

/-- HOST_READ_COMPLETION (R415): the access of a strand or an engine command goes on with the data or the failure. `index` is
the slot, or the second number of `engineUnit`. -/
def execHostReadCompletion (reader : HostReader) (index : Nat) (res : Completion) (s : State) : Host.Outcome State Fault Refusal :=
  .next (if reader.engine then s.engineAnswer reader.unit index res else s.hostAnswer reader.unit index res)

/-- HOST_ATOMIC_COMPLETION (R89): the strand's atomic goes on with the old value or the failure. -/
def execHostAtomicCompletion (core slot : Nat) (res : Completion) (s : State) : Host.Outcome State Fault Refusal :=
  .next (s.hostAnswer core slot res)

/-- COMPLETION_TIMEOUT (R415): the access fails as with a Completer Abort: BUS_ERROR for a strand, a suspension for an engine command. -/
def execCompletionTimeout (engine : Bool) (unit index : Nat) (s : State) : Host.Outcome State Fault Refusal :=
  .next (if engine then s.engineAnswer unit index .abort else s.hostAnswer unit index .abort)

/-! ### Home slices and caches -/

/-- A leaf of an RC page, whose accesses are versioned. -/
def rcLeaf : BitVec 64 := 16

/-- HOME_READ_REQUEST (R72): a fill for a core, under the version tag of its requester. -/
def execHomeReadRequest (core line : Nat) (vtag : BitVec 8) (s : State) : Host.Outcome State Fault Refusal :=
  if s.homeCheck (s.partOf core) (line * 64) ≠ .ok ∨ (vtag ≠ 0 ∧ ! s.liveTag (s.partOf core) vtag) then .next s
  else runEvent (do let _ ← readPhys (s.requester core vtag) (line * 64) 64 rcLeaf) s

/-- OWNERSHIP_REQUEST (R72): an L1 of the home die takes a line in E. -/
def execOwnershipRequest (core line : Nat) (s : State) : Host.Outcome State Fault Refusal :=
  if s.homeCheck (s.partOf core) (line * 64) ≠ .ok ∨ core / 256 ≠ dieOf (line * 64) then .next s
  else
    runEvent (do
      upd fun s => s.mergeGranule (line / 32)
      homeWant (s.requester core 0) (line * 64) 64 false .own (some (sharerPtr core (line * 64)))
      upd fun s => s.l1Put core line (CacheLine.coherent .exclusive 0 15)) s

/-- WRITE_THROUGH_AT_HOME (R46, R58): a store of another die's core is performed at the home; every copy but the issuing core's and its
die's is invalidated. -/
def execWriteThroughAtHome (core pa : Nat) (size : Size) (x : BitVec 128) (s : State) : Host.Outcome State Fault Refusal :=
  if s.homeCheck (s.partOf core) pa ≠ .ok ∨ 64 < pa % 64 + size.bytes ∨ core / 256 = dieOf pa then .next s
  else
    runEvent (do
      upd fun s => s.mergeGranule (pa / 2048)
      writeThrough (s.requester core 0) pa (toBytes size.bytes x.toNat)) s

/-- UPDATE_ONLY_GRANT_REQUEST (R84). -/
def execUpdateOnlyGrantRequest (core line : Nat) (op : RedOp) (size : Size) (s : State) : Host.Outcome State Fault Refusal :=
  if s.homeCheck (s.partOf core) (line * 64) ≠ .ok then .next s
  else
    runEvent (do
      upd fun s => s.releaseU core line
      grantUpdate (s.requester core 0) line op size) s

/-- ATOMIC_AT_HOME (R80): one indivisible read-modify-write, whose old value goes to the strand's register. -/
def execAtomicAtHome (r : AtomicReq) (s : State) : Host.Outcome State Fault Refusal :=
  let t := { s with core := r.core, slot := r.slot }
  let n := r.size.bytes
  let f (old : Nat) : Nat :=
    match r.op with
    | some op => amoApply op n old (r.x.toNat % 2 ^ (8 * n))
    | none => if old = r.cmp.toNat % 2 ^ (8 * n) then r.x.toNat % 2 ^ (8 * n) else old
  if ! t.cur.occupied then .next s
  else
    runEvent (do
      let old ←
        if r.key < populated then rmwPhys t.me r.key n rcLeaf true f
        else do
          arrivalTurn t.me r.key
          let old := (← get).load r.key n
          upd fun s => s.store r.key n (f old)
          pure old
      let _ ← writeSized r.size r.zx r.rd old) t

/-- Whether the launch that a reduction of a version tag belongs to is still live (R161). -/
def State.redLives (s : State) (part : Nat) (r : RedReq) : Bool :=
  r.vtag == 0 || match r.launch.bind fun n => (s.partAt part).liveLaunch n with
    | some l => l.tag == r.vtag
    | none => false

/-- A reduction has been performed, or its launch has ended: its strand's count falls, an elect step that waits for it is complete (R116), and its
core counts the request no more (R36). -/
def State.redDone (s : State) (r : RedReq) : State :=
  let s := s.modGen false 0 r.core fun g => g.done r.gen
  if r.slot < 16 then
    s.modSlot r.core r.slot fun x =>
      { x with
        osc := if x.osc = 0 then 0 else x.osc - 1
        op := if r.elect ∧ x.op = .waiting then .done 0 else x.op }
  else s

/-- RED_AT_HOME (R84): the reduction is gathered in its core's L1 once the line is granted, or performed at its home as one read-modify-write,
unless its launch has ended. One that waits at its home stays due. -/
def execRedAtHome (r : RedReq) (s : State) : Host.Outcome State Fault Refusal :=
  let n := r.size.bytes
  let part := s.partOf r.core
  let ag := { (s.requester r.core r.vtag) with launch := r.launch, unit := redUnit + r.id }
  let act : Exec Unit :=
    if r.gather then gatherRed ag r.key r.op r.size r.x.toNat
    else do let _ ← rmwPhys ag r.key n rcLeaf true fun old => redApply r.op n old r.x.toNat
  if ! s.redLives part r then .next (s.redDone r)
  else
    match act s with
    | .ok (_, t) => .next (t.redDone r)
    | .error (.quit t) => .next (t.redDone r)
    | .error (.wait _ t) => .next (t.post (.redAtHome r))
    | .error _ => .next (s.redDone r)

/-- WRITE_BACK_ARRIVAL (R73): the core gives up its dirty sectors or its partial; the pointer of a released line goes. -/
def execWriteBackArrival (core line : Nat) (s : State) : Host.Outcome State Fault Refusal :=
  match (s.coreAt core).l1.find line with
  | none => .next s
  | some l =>
    if l.uo then .next (s.uoWriteBack core line)
    else if l.state = .updateOnly ∨ l.state = .modified then .next (s.evictL1 core line)
    else .next s

/-- INVALIDATION_AT_HOLDER (R73): the holder gives up its copy, a partial with its combination, and acknowledges. -/
def execInvalidationAtHolder (rdc : Bool) (holder line : Nat) (s : State) : Host.Outcome State Fault Refusal :=
  match (if rdc then (s.dieAt holder).rdc.find line else (s.coreAt holder).l1.find line) with
  | none => .next s
  | some l => .next (if l.uo then s else if rdc then s.evictRdc holder line else s.evictL1 holder line)

/-- RECALL_ACK (R72, R75): the holders of a listed line have acknowledged: SOFT and BCAST clear, and the requests that wait can be served. -/
def execRecallAck (line : Nat) (s : State) : Host.Outcome State Fault Refusal :=
  match (s.dieAt (dieOf (line * 64))).lists.find? (fun l => l.line == line) with
  | none => .next s
  | some l =>
    if ! l.ready ∨ l.acted then .next s
    else
      let s := (s.recallAll line (s.holders line (s.dirAt line) l.ptrs)).setDir line 0
      .next (s.nextWaiter l (l.queue.filter s.stillWaits))

/-- L1_VTAG_DROP (R157). -/
def execL1VtagDrop (core : Nat) (tag : BitVec 8) (s : State) : Host.Outcome State Fault Refusal :=
  if tag = 0 ∨ s.liveTag (s.partOf core) tag then .next s
  else
    .next (s.modCore core fun c =>
      { c with l1 := c.l1.filter fun e => e.2.vtag != tag, icache := c.icache.filter fun e => e.1 % 256 != tag.toNat })

/-! ### Shadow versions -/

/-- SHADOW_SPILL_RESUME (R155): the oldest waiting spill tries again. -/
def execShadowSpillResume (part : Nat) (s : State) : Host.Outcome State Fault Refusal :=
  match (s.partAt part).spills with
  | [] => .next s
  | w :: rest => .next ((s.modPart part fun p => { p with spills := rest }).spill w)

/-- The place of a granule in a sweep: its slices in order, each in set order. -/
def State.sweepKey (s : State) (gr : Nat) : Nat := s.homeQuadOf (gr * 2048) * 128 + s.homeSet (gr * 2048)

/-- The granule of a partition with shadow data of a tag that is not live that comes first in set order (R157). -/
def State.deadGranule (s : State) (part : Nat) : Option Nat :=
  let dead := s.dies.flatMap fun d => (d.2.shadows.filter fun w => w.part == part && s.tagState part w.tag != 1).map (·.gran)
  dead.foldl
    (fun best g =>
      match best with
      | none => some g
      | some b => if s.sweepKey g < s.sweepKey b then some g else some b)
    none

/-- Frees the tags that are neither free nor live, once nothing is left of them (R142, R157). -/
def State.freeTags (s : State) (part : Nat) : State :=
  let dead := (s.partAt part).vst.filter fun e => field e.2 30 2 == 2 || field e.2 30 2 == 3
  dead.foldl
    (fun t e => (t.sweepTag part (BitVec.ofNat 8 e.1)).modPart part fun p => { p with vst := Map.erase p.vst e.1 }) s

/-- MERGE_SWEEP (R157): a granule is merged or discarded; the sweep goes on to the next, and after the last the tags become free. -/
def execMergeSweep (part granule : Nat) (s : State) : Host.Outcome State Fault Refusal :=
  let s := s.mergeGranule granule
  match s.deadGranule part with
  | some g => .next (s.post (.mergeSweep part g))
  | none => .next (s.freeTags part)

/-- The command whose access meets an uncorrected error suspends with BUS_ERROR (R394, R43): numbers from 16 are the copies of a core's quad by
their indexes, from 48 the commands of its truss by their positions, and from 160 the subscriptions of its die's feeds by their positions. -/
def State.engineError (s : State) (core n : Nat) : State :=
  if n < 48 then
    match (s.quadAt (core / 4)).copies.find? fun k => k.index == n - 16 && k.susp.isNone with
    | some k => s.suspendCopy (core / 4) k Cause.bus false
    | none => s
  else if n < 160 then
    match (s.coreAt core).truss[n - 48]? with
    | some k => if k.susp.isNone then s.suspendTruss core (n - 48) k Cause.bus false else s
    | none => s
  else
    match (s.dieAt (core / 256)).feeds[n - 160]? with
    | some f => if f.susp.isNone then s.suspendFeed (core / 256) f Cause.bus false else s
    | none => s

/-- SOFT_ERROR (R394): a corrected error is counted; an uncorrected one faults the access of a strand with BUS_ERROR, or suspends the command
that makes it (`slot` from 16), and posts a record of type 5 to the function of the core, or to PF0's for an error at no core (DEDUCED, log 23). -/
def execSoftError (corrected : Bool) (core slot : Nat) (atCore virtual : Bool) (addr : Word) (s : State) :
    Host.Outcome State Fault Refusal :=
  if corrected then .next { s with sys := { s.sys with corrected := s.sys.corrected + 1 } }
  else
    let f := if atCore ∧ s.partOf core ≠ noPart then s.partOf core + 1 else 0
    let w := (if atCore then core else 0xFFFF) + 2 ^ 16 * virtual.toNat
    let s := s.postFault f 5 f (toBytes 4 w ++ toBytes 8 addr.toNat)
    if 16 ≤ slot then .next (s.engineError core slot)
    else
      let x := s.slotAt core slot
      .next (if x.occupied ∧ ! x.trapped then s.takeTrap core slot Cause.bus addr false else s)

end Sys2Proof.Machine
end

