-- ==== Sys2Proof/Machine/Scalar.lean ====
section
/-! DEFINITION. NOP and the integer family (R224 to R232). -/

namespace Sys2Proof.Machine

/-- NOP has no effect; its elected form posts completion (R224, R225). -/
def execNop (e : Bool) (s : State) : Host.Outcome State Fault Refusal :=
  runAhead (issue 8 e true [] [] (pure .done)) s

/-- An instruction that computes a register from two registers. -/
def binary (e : Bool) (rd ra rb : GReg) (f : Word → Word → Word) : Exec Unit :=
  issue 8 e true [ra, rb] [rd] do
    let a ← srcG ra
    let b ← srcG rb
    checkDest rd
    writeG rd (f a b)
    return .g rd (f a b)

/-- An instruction that computes a register from one register. -/
def unary (e : Bool) (rd ra : GReg) (f : Word → Word) : Exec Unit :=
  issue 8 e true [ra] [rd] do
    let a ← srcG ra
    checkDest rd
    writeG rd (f a)
    return .g rd (f a)

/-- The signed minimum. -/
def minS (a b : Word) : Word := if b.slt a then b else a
/-- The signed maximum. -/
def maxS (a b : Word) : Word := if a.slt b then b else a
/-- The unsigned minimum. -/
def minU (a b : Word) : Word := if b.ult a then b else a
/-- The unsigned maximum. -/
def maxU (a b : Word) : Word := if a.ult b then b else a
/-- a AND NOT b. -/
def andNot (a b : Word) : Word := a &&& ~~~b
/-- The shift count b[5:0]. -/
def shiftCount (b : Word) : Nat := b.toNat % 64
/-- Left by b[5:0], zeros in. -/
def shlW (a b : Word) : Word := a <<< shiftCount b
/-- Right by b[5:0], zeros in. -/
def shrW (a b : Word) : Word := a >>> shiftCount b
/-- Right by b[5:0], copies of the sign in. -/
def sarW (a b : Word) : Word := a.sshiftRight (shiftCount b)
/-- Rotated right by b[5:0]. -/
def rorW (a b : Word) : Word := a.rotateRight (shiftCount b)

/-- MULH: the high half of the exact signed product (R227). -/
def mulhS (a b : Word) : Word := BitVec.ofInt 64 (a.toInt * b.toInt / 2 ^ 64)
/-- MULH.n: the high half of the exact unsigned product. -/
def mulhU (a b : Word) : Word := BitVec.ofNat 64 (a.toNat * b.toNat / 2 ^ 64)
/-- DIV (R227). -/
def divS (a b : Word) : Word := if b = 0 then BitVec.allOnes 64 else BitVec.ofInt 64 (a.toInt.tdiv b.toInt)
/-- DIV.n. -/
def divU (a b : Word) : Word := if b = 0 then BitVec.allOnes 64 else BitVec.ofNat 64 (a.toNat / b.toNat)
/-- REM. -/
def remS (a b : Word) : Word := if b = 0 then a else BitVec.ofInt 64 (a.toInt.tmod b.toInt)
/-- REM.n. -/
def remU (a b : Word) : Word := if b = 0 then a else BitVec.ofNat 64 (a.toNat % b.toNat)

/-- Leading zero bits (R228). -/
def clzW (a : Word) : Word := a.clz
/-- Trailing zero bits. -/
def ctzW (a : Word) : Word := a.ctz
/-- One bits. -/
def popcW (a : Word) : Word := a.cpop
/-- The bit order reversed. -/
def brevW (a : Word) : Word := a.reverse
/-- The byte order reversed. -/
def bswapW (a : Word) : Word :=
  a.extractLsb' 0 8 ++ a.extractLsb' 8 8 ++ a.extractLsb' 16 8 ++ a.extractLsb' 24 8
    ++ a.extractLsb' 32 8 ++ a.extractLsb' 40 8 ++ a.extractLsb' 48 8 ++ a.extractLsb' 56 8

/-- EXT (R229): the field of W bits at LO, extended. -/
def extW (signed : Bool) (w lo : Nat) (a : Word) : Word :=
  if signed then sxNat w (field a lo w) else BitVec.ofNat 64 (field a lo w)
/-- INS (R229): the old value with W bits at LO replaced by the low bits of a. -/
def insW (w lo : Nat) (old a : Word) : Word := setField old lo w a.toNat

/-- ADD: a + b (R226). -/
def execAdd (e : Bool) (rd ra rb : GReg) (s : State) : Host.Outcome State Fault Refusal :=
  runAhead (binary e rd ra rb (· + ·)) s

/-- SUB: a - b (R226). -/
def execSub (e : Bool) (rd ra rb : GReg) (s : State) : Host.Outcome State Fault Refusal :=
  runAhead (binary e rd ra rb (· - ·)) s

/-- AND: a AND b (R226). -/
def execAnd (e : Bool) (rd ra rb : GReg) (s : State) : Host.Outcome State Fault Refusal :=
  runAhead (binary e rd ra rb (· &&& ·)) s

/-- OR: a OR b (R226). -/
def execOr (e : Bool) (rd ra rb : GReg) (s : State) : Host.Outcome State Fault Refusal :=
  runAhead (binary e rd ra rb (· ||| ·)) s

/-- XOR: a XOR b (R226). -/
def execXor (e : Bool) (rd ra rb : GReg) (s : State) : Host.Outcome State Fault Refusal :=
  runAhead (binary e rd ra rb (· ^^^ ·)) s

/-- ANDN: a AND NOT b (R226). -/
def execAndn (e : Bool) (rd ra rb : GReg) (s : State) : Host.Outcome State Fault Refusal :=
  runAhead (binary e rd ra rb andNot) s

/-- SHL: a shifted left (R226). -/
def execShl (e : Bool) (rd ra rb : GReg) (s : State) : Host.Outcome State Fault Refusal :=
  runAhead (binary e rd ra rb shlW) s

/-- SHR: a shifted right, zeros in (R226). -/
def execShr (e : Bool) (rd ra rb : GReg) (s : State) : Host.Outcome State Fault Refusal :=
  runAhead (binary e rd ra rb shrW) s

/-- SAR: a shifted right, sign in (R226). -/
def execSar (e : Bool) (rd ra rb : GReg) (s : State) : Host.Outcome State Fault Refusal :=
  runAhead (binary e rd ra rb sarW) s

/-- ROR: a rotated right (R226). -/
def execRor (e : Bool) (rd ra rb : GReg) (s : State) : Host.Outcome State Fault Refusal :=
  runAhead (binary e rd ra rb rorW) s

/-- MIN: the smaller, signed (R226). -/
def execMin (e : Bool) (rd ra rb : GReg) (s : State) : Host.Outcome State Fault Refusal :=
  runAhead (binary e rd ra rb minS) s

/-- MAX: the larger, signed (R226). -/
def execMax (e : Bool) (rd ra rb : GReg) (s : State) : Host.Outcome State Fault Refusal :=
  runAhead (binary e rd ra rb maxS) s

/-- MINN: the smaller, unsigned (R226). -/
def execMinN (e : Bool) (rd ra rb : GReg) (s : State) : Host.Outcome State Fault Refusal :=
  runAhead (binary e rd ra rb minU) s

/-- MAXN: the larger, unsigned (R226). -/
def execMaxN (e : Bool) (rd ra rb : GReg) (s : State) : Host.Outcome State Fault Refusal :=
  runAhead (binary e rd ra rb maxU) s

/-- ADDI: a + b, b the immediate (R226). -/
def execAddi (e : Bool) (rd ra : GReg) (imm : BitVec 32) (s : State) : Host.Outcome State Fault Refusal :=
  runAhead (unary e rd ra (· + imm32 imm)) s

/-- SUBI: a - b, b the immediate (R226). -/
def execSubi (e : Bool) (rd ra : GReg) (imm : BitVec 32) (s : State) : Host.Outcome State Fault Refusal :=
  runAhead (unary e rd ra (· - imm32 imm)) s

/-- ANDI: a AND b, b the immediate (R226). -/
def execAndi (e : Bool) (rd ra : GReg) (imm : BitVec 32) (s : State) : Host.Outcome State Fault Refusal :=
  runAhead (unary e rd ra (· &&& imm32 imm)) s

/-- ORI: a OR b, b the immediate (R226). -/
def execOri (e : Bool) (rd ra : GReg) (imm : BitVec 32) (s : State) : Host.Outcome State Fault Refusal :=
  runAhead (unary e rd ra (· ||| imm32 imm)) s

/-- XORI: a XOR b, b the immediate (R226). -/
def execXori (e : Bool) (rd ra : GReg) (imm : BitVec 32) (s : State) : Host.Outcome State Fault Refusal :=
  runAhead (unary e rd ra (· ^^^ imm32 imm)) s

/-- ANDNI: a AND NOT b, b the immediate (R226). -/
def execAndni (e : Bool) (rd ra : GReg) (imm : BitVec 32) (s : State) : Host.Outcome State Fault Refusal :=
  runAhead (unary e rd ra (fun a => andNot a (imm32 imm))) s

/-- SHLI: a shifted left, b the immediate (R226). -/
def execShli (e : Bool) (rd ra : GReg) (imm : BitVec 32) (s : State) : Host.Outcome State Fault Refusal :=
  runAhead (unary e rd ra (fun a => shlW a (imm32 imm))) s

/-- SHRI: a shifted right, zeros in, b the immediate (R226). -/
def execShri (e : Bool) (rd ra : GReg) (imm : BitVec 32) (s : State) : Host.Outcome State Fault Refusal :=
  runAhead (unary e rd ra (fun a => shrW a (imm32 imm))) s

/-- SARI: a shifted right, sign in, b the immediate (R226). -/
def execSari (e : Bool) (rd ra : GReg) (imm : BitVec 32) (s : State) : Host.Outcome State Fault Refusal :=
  runAhead (unary e rd ra (fun a => sarW a (imm32 imm))) s

/-- RORI: a rotated right, b the immediate (R226). -/
def execRori (e : Bool) (rd ra : GReg) (imm : BitVec 32) (s : State) : Host.Outcome State Fault Refusal :=
  runAhead (unary e rd ra (fun a => rorW a (imm32 imm))) s

/-- MINI: the smaller, signed, b the immediate (R226). -/
def execMini (e : Bool) (rd ra : GReg) (imm : BitVec 32) (s : State) : Host.Outcome State Fault Refusal :=
  runAhead (unary e rd ra (fun a => minS a (imm32 imm))) s

/-- MAXI: the larger, signed, b the immediate (R226). -/
def execMaxi (e : Bool) (rd ra : GReg) (imm : BitVec 32) (s : State) : Host.Outcome State Fault Refusal :=
  runAhead (unary e rd ra (fun a => maxS a (imm32 imm))) s

/-- MININ: the smaller, unsigned, b the immediate (R226). -/
def execMiniN (e : Bool) (rd ra : GReg) (imm : BitVec 32) (s : State) : Host.Outcome State Fault Refusal :=
  runAhead (unary e rd ra (fun a => minU a (imm32 imm))) s

/-- MAXIN: the larger, unsigned, b the immediate (R226). -/
def execMaxiN (e : Bool) (rd ra : GReg) (imm : BitVec 32) (s : State) : Host.Outcome State Fault Refusal :=
  runAhead (unary e rd ra (fun a => maxU a (imm32 imm))) s

/-- MUL: the low half of the product (R227). -/
def execMul (e : Bool) (rd ra rb : GReg) (s : State) : Host.Outcome State Fault Refusal :=
  runAhead (binary e rd ra rb (· * ·)) s

/-- MULH: the high half, signed (R227). -/
def execMulh (e : Bool) (rd ra rb : GReg) (s : State) : Host.Outcome State Fault Refusal :=
  runAhead (binary e rd ra rb mulhS) s

/-- MULHN: the high half, unsigned (R227). -/
def execMulhN (e : Bool) (rd ra rb : GReg) (s : State) : Host.Outcome State Fault Refusal :=
  runAhead (binary e rd ra rb mulhU) s

/-- DIV: signed quotient toward zero (R227). -/
def execDiv (e : Bool) (rd ra rb : GReg) (s : State) : Host.Outcome State Fault Refusal :=
  runAhead (binary e rd ra rb divS) s

/-- DIVN: unsigned quotient (R227). -/
def execDivN (e : Bool) (rd ra rb : GReg) (s : State) : Host.Outcome State Fault Refusal :=
  runAhead (binary e rd ra rb divU) s

/-- REM: remainder with the sign of the dividend (R227). -/
def execRem (e : Bool) (rd ra rb : GReg) (s : State) : Host.Outcome State Fault Refusal :=
  runAhead (binary e rd ra rb remS) s

/-- REMN: unsigned remainder (R227). -/
def execRemN (e : Bool) (rd ra rb : GReg) (s : State) : Host.Outcome State Fault Refusal :=
  runAhead (binary e rd ra rb remU) s

/-- MULI: the low half of the product with the immediate (R227). -/
def execMuli (e : Bool) (rd ra : GReg) (imm : BitVec 32) (s : State) : Host.Outcome State Fault Refusal :=
  runAhead (unary e rd ra (· * imm32 imm)) s

/-- CLZ: leading zeros (R228). -/
def execClz (e : Bool) (rd ra : GReg) (s : State) : Host.Outcome State Fault Refusal :=
  runAhead (unary e rd ra clzW) s

/-- CTZ: trailing zeros (R228). -/
def execCtz (e : Bool) (rd ra : GReg) (s : State) : Host.Outcome State Fault Refusal :=
  runAhead (unary e rd ra ctzW) s

/-- POPC: one bits (R228). -/
def execPopc (e : Bool) (rd ra : GReg) (s : State) : Host.Outcome State Fault Refusal :=
  runAhead (unary e rd ra popcW) s

/-- BREV: bits reversed (R228). -/
def execBrev (e : Bool) (rd ra : GReg) (s : State) : Host.Outcome State Fault Refusal :=
  runAhead (unary e rd ra brevW) s

/-- BSWAP: bytes reversed (R228). -/
def execBswap (e : Bool) (rd ra : GReg) (s : State) : Host.Outcome State Fault Refusal :=
  runAhead (unary e rd ra bswapW) s

/-- EXT (R229). -/
def execExt (e : Bool) (rd ra : GReg) (signed : Bool) (w1 lo : BitVec 6) (s : State) : Host.Outcome State Fault Refusal :=
  runAhead (unary e rd ra (extW signed (w1.toNat + 1) lo.toNat)) s

/-- INS reads its destination as a source (R229). -/
def execIns (e : Bool) (rd ra : GReg) (w1 lo : BitVec 6) (s : State) : Host.Outcome State Fault Refusal :=
  runAhead (binary e rd rd ra (insW (w1.toNat + 1) lo.toNat)) s

/-- SET.cc (R231). -/
def execSetCc (e : Bool) (cc : Cond) (rd ra rb : GReg) (s : State) : Host.Outcome State Fault Refusal :=
  runAhead (binary e rd ra rb fun a b => ofFlag (condHolds cc a b)) s

/-- SETI.cc (R231). -/
def execSetiCc (e : Bool) (cc : Cond) (rd ra : GReg) (imm : BitVec 32) (s : State) : Host.Outcome State Fault Refusal :=
  runAhead (unary e rd ra fun a => ofFlag (condHolds cc a (imm32 imm))) s

/-- SEL reads its three sources (R231). -/
def execSel (e : Bool) (rd ra rb rc : GReg) (s : State) : Host.Outcome State Fault Refusal :=
  runAhead (issue 8 e true [ra, rb, rc] [rd] do
    let a ← srcG ra
    let b ← srcG rb
    let c ← srcG rc
    checkDest rd
    let r := if c ≠ 0 then a else b
    writeG rd r
    return .g rd r) s

/-- MOVI (R232). -/
def execMovi (e : Bool) (rd : GReg) (imm : Word) (s : State) : Host.Outcome State Fault Refusal :=
  runAhead (issue 12 e true [] [rd] do
    checkDest rd
    writeG rd imm
    return .g rd imm) s

/-- ADDSH: a plus b shifted left (R232). -/
def execAddsh (e : Bool) (rd ra rb : GReg) (sh : BitVec 6) (s : State) : Host.Outcome State Fault Refusal :=
  runAhead (binary e rd ra rb fun a b => a + (b <<< sh.toNat)) s

/-- ADDPC: the address of the instruction plus the immediate (R232). -/
def execAddpc (e : Bool) (rd : GReg) (imm : BitVec 32) (s : State) : Host.Outcome State Fault Refusal :=
  runAhead (issue 8 e true [] [rd] do
    checkDest rd
    let r := (← cur).pc + imm32 imm
    writeG rd r
    return .g rd r) s

end Sys2Proof.Machine
end

