-- ==== Sys2Proof/Machine/Startup.lean ====
section
/-! DEFINITION. Start-up: power, the stages of Table 17.5, the release of cores from reset, and the enabling of functions (R183, R387,
R389, R391, R417). -/

namespace Sys2Proof.Machine

/-- POWER_ON (R391): stage 0 begins. -/
def execPowerOn (s : State) : Host.Outcome State Fault Refusal :=
  if s.sys.powered then .next s else .next { s with sys := { s.sys with powered := true, stage := 0, failed := false } }

/-- STARTUP_STAGE_COMPLETE (R391): the next stage is reached, stage 1 only with a verified firmware image; a failure leaves the device
in the stage before it. Stage 2 sets up the region tables and partitions that the operator has given (Table 17.5). -/
def execStartupStageComplete (ok : Bool) (s : State) : Host.Outcome State Fault Refusal :=
  if ! s.sys.powered ∨ 2 ≤ s.sys.stage then .next s
  else if ! ok then .next { s with sys := { s.sys with failed := true } }
  else if s.sys.stage = 0 ∧ ! s.sys.firmware then .next s
  else
    let s := { s with sys := { s.sys with stage := s.sys.stage + 1, failed := false } }
    .next (if s.sys.stage = 2 then s.takeChanges fun _ => true else s)

/-- CORE_RESET_RELEASE (R391, R183): the core leaves reset; its first arrival at the framing phase comes 2^FPER cycles later. The
operator's firmware has set HASID to the partition's lowest-numbered ASID (R417). -/
def execCoreResetRelease (core : Nat) (s : State) : Host.Outcome State Fault Refusal :=
  if ! s.sys.powered ∨ 2048 ≤ core ∨ (s.coreAt core).up then .next s
  else
    let part := s.partOf core
    .next (s.setCore core
      { Core.off with
        up := true
        framing := 2 ^ 20
        vcn := if part = noPart then none else (s.partAt part).vcnOfCore core
        hasid := if part = noPart then 0 else s.lowestAsid part })

/-- VF_ENABLE (R387, R389): once stage 2 is reached, a function that no port has yet is enabled on one of the two ports (R1). -/
def execVfEnable (fn port : Nat) (s : State) : Host.Outcome State Fault Refusal :=
  if fn = 0 ∨ 32 < fn ∨ 2 ≤ port ∨ s.sys.stage < 2 ∨ (s.fnAt fn).enabled then .next s
  else .next (s.modFn fn fun x => { x with enabled := true, port := port, seq := 0 })

end Sys2Proof.Machine
end

