-- ==== Sys2Proof/Machine/Vector.lean ====
section
/-! DEFINITION. The vector and mask instructions (R312 to R326). -/

namespace Sys2Proof.Machine

/-! ### Loads and stores (R313 to R315) -/

/-- ea of format V: G(fa) + SExt(imm16). -/
def eaV (ra : GReg) (v : VForm) : Exec Word := do return (← srcG ra) + sx64 v.imm

/-- The pieces of the elements of an instruction; those of VLD and VST may form one run (R400). -/
def lanePieces (ag : Agent) (cls : Access) (run : Bool) (rs : List (Word × Nat)) : Exec (List (Word × Nat)) :=
  if run then runPieces ag cls rs else pure (rs.flatMap fun r => pieces r.1 r.2)

/-- Loads the selected lanes' elements, at the address that `at_` gives each, and writes the register. -/
def loadLanes (run : Bool) (vd : VReg) (v : VForm) (at_ : Nat → Word) : Exec PostedValue := do
  let x ← cur
  let m := x.mask v.mask
  let b := v.type.bytes
  let ls := lanesIn m
  let ag := (← get).me
  let bs ← readAll ag .load (← lanePieces ag .load run (ls.map fun l => (at_ l, b)))
  let got (l : Nat) : Nat :=
    let i := (ls.takeWhile (· != l)).length
    toLane v.type (ofBytes ((bs.drop (b * i)).take b))
  let r := (mapLanes (x.vec vd) m fun l => (got l, 0)).1
  writeV vd r
  laneWork m
  return .v vd r

/-- Stores the selected lanes' elements in ascending order of lanes. -/
def storeLanes (run : Bool) (vc : VReg) (v : VForm) (at_ : Nat → Word) : Exec Unit := do
  let x ← cur
  let m := x.mask v.mask
  let b := v.type.bytes
  let ls := lanesIn m
  let ag := (← get).me
  writeAll ag (← lanePieces ag .store run (ls.map fun l => (at_ l, b))) (ls.flatMap fun l => toBytes b (lane (x.vec vc) l))
  laneWork m

/-- The slot that a ring operand qN+k names (R63, R313): refused with RING, or waited for. -/
def ringOperand (q : QReg) (v : VForm) (produce : Bool) : Exec Word := do
  let s ← get
  let r := s.ring s.core q.toNat
  let k := field v.imm 0 8
  if ! r.valid ∨ (if produce then r.pkind else r.ckind) ≠ 0 ∨ r.slotBytes < 32 * v.type.bytes then trap Cause.ring (zx64 q)
  if (if produce then r.free else r.filled) < k + 1 then stall .memory
  return aliasAddr (r.slotOff ((if produce then r.head else r.tail) + k))

/-- VLD (R313). -/
def execVld (e : Bool) (vd : VReg) (ra : GReg) (v : VForm) (s : State) : Host.Outcome State Fault Refusal :=
  runStrand (issueVec e [ra] [] do
    let a ← eaV ra v
    loadLanes true vd v fun l => a + BitVec.ofNat 64 (v.type.bytes * l)) s

/-- VLD of a ring slot (R313). -/
def execVldRing (e : Bool) (vd : VReg) (q : QReg) (v : VForm) (s : State) : Host.Outcome State Fault Refusal :=
  runStrand (issueVec e [] [] do
    let a ← ringOperand q v false
    loadLanes true vd v fun l => a + BitVec.ofNat 64 (v.type.bytes * l)) s

/-- VST (R313). -/
def execVst (ra : GReg) (vc : VReg) (v : VForm) (s : State) : Host.Outcome State Fault Refusal :=
  runStrand (issueV [ra] [] do
    let a ← eaV ra v
    storeLanes true vc v fun l => a + BitVec.ofNat 64 (v.type.bytes * l)) s

/-- VST to a ring slot (R313). -/
def execVstRing (q : QReg) (vc : VReg) (v : VForm) (s : State) : Host.Outcome State Fault Refusal :=
  runStrand (issueV [] [] do
    let a ← ringOperand q v true
    storeLanes true vc v fun l => a + BitVec.ofNat 64 (v.type.bytes * l)) s

/-- The address of a lane of VLDG and VSTS (R314). -/
def gatherAddr (a : Word) (vb : BitVec 1024) (v : VForm) (l : Nat) : Word :=
  a + (sx64 (BitVec.ofNat 32 (lane vb l)) <<< field v.aux 0 2)

/-- VLDG (R314). -/
def execVldg (e : Bool) (vd : VReg) (ra : GReg) (vb : VReg) (v : VForm) (s : State) : Host.Outcome State Fault Refusal :=
  runStrand (issueVec e [ra] [] do
    let a ← eaV ra v
    let x ← cur
    loadLanes false vd v (gatherAddr a (x.vec vb) v)) s

/-- VSTS (R314). -/
def execVsts (ra : GReg) (vb vc : VReg) (v : VForm) (s : State) : Host.Outcome State Fault Refusal :=
  runStrand (issueV [ra] [] do
    let a ← eaV ra v
    let x ← cur
    storeLanes false vc v (gatherAddr a (x.vec vb) v)) s

/-! ### Lane by lane -/

/-- An instruction that computes each selected lane, with flags. -/
def lanewise (vd : VReg) (v : VForm) (f : Slot → Nat → Nat × BitVec 5) : Exec Unit := do
  let x ← cur
  let m := x.mask v.mask
  let (r, fl) := mapLanes (x.vec vd) m (f x)
  writeV vd r
  raise_ fl
  laneWork m

/-- The second source of VIOP: a lane, or the immediate (R316). -/
def viopB (x : Slot) (vb : VReg) (v : VForm) (l : Nat) : Nat :=
  if v.aux = 1 then (BitVec.ofInt (typeBits v.type) v.imm.toInt).toNat else elemOf v.type (lane (x.vec vb) l)

/-- A VIOP (R316): `f` takes the elements of w bits and answers the lane. -/
def viop (vd va vb : VReg) (v : VForm) (f : Nat → Nat → Nat) (s : State) : Host.Outcome State Fault Refusal :=
  runStrand (issueV [] [] (lanewise vd v fun x l => (f (elemOf v.type (lane (x.vec va) l)) (viopB x vb v l), 0))) s

/-- A signed result, wrapped or with sat clamped. -/
def viopSigned (v : VForm) (f : Int → Int → Int) (a b : Nat) : Nat :=
  let r := f (elemInt v.type a) (elemInt v.type b)
  intLane v.type (if v.sat then clampInt (typeBits v.type) r else r)

/-- VADD (R316). -/
def execVadd (vd va vb : VReg) (v : VForm) (s : State) : Host.Outcome State Fault Refusal :=
  viop vd va vb v (viopSigned v fun a b => a + b) s

/-- VSUB (R316). -/
def execVsub (vd va vb : VReg) (v : VForm) (s : State) : Host.Outcome State Fault Refusal :=
  viop vd va vb v (viopSigned v fun a b => a - b) s

/-- VMUL (R316). -/
def execVmul (vd va vb : VReg) (v : VForm) (s : State) : Host.Outcome State Fault Refusal :=
  viop vd va vb v (viopSigned v fun a b => a * b) s

/-- VAND (R316). -/
def execVand (vd va vb : VReg) (v : VForm) (s : State) : Host.Outcome State Fault Refusal :=
  viop vd va vb v (fun a b => toLane v.type (a &&& b)) s

/-- VOR (R316). -/
def execVor (vd va vb : VReg) (v : VForm) (s : State) : Host.Outcome State Fault Refusal :=
  viop vd va vb v (fun a b => toLane v.type (a ||| b)) s

/-- VXOR (R316). -/
def execVxor (vd va vb : VReg) (v : VForm) (s : State) : Host.Outcome State Fault Refusal :=
  viop vd va vb v (fun a b => toLane v.type (a ^^^ b)) s

/-- VSHL (R316): the count is b[4:0]. -/
def execVshl (vd va vb : VReg) (v : VForm) (s : State) : Host.Outcome State Fault Refusal :=
  viop vd va vb v (fun a b => toLane v.type (if typeBits v.type ≤ b % 32 then 0 else a * 2 ^ (b % 32))) s

/-- VSHR (R316). -/
def execVshr (vd va vb : VReg) (v : VForm) (s : State) : Host.Outcome State Fault Refusal :=
  viop vd va vb v (fun a b => toLane v.type (if typeBits v.type ≤ b % 32 then 0 else a / 2 ^ (b % 32))) s

/-- VSAR (R316). -/
def execVsar (vd va vb : VReg) (v : VForm) (s : State) : Host.Outcome State Fault Refusal :=
  viop vd va vb v (fun a b => intLane v.type (elemInt v.type a / (2 ^ (b % 32) : Nat))) s

/-- VMIN (R316). -/
def execVmin (vd va vb : VReg) (v : VForm) (s : State) : Host.Outcome State Fault Refusal :=
  viop vd va vb v (fun a b => toLane v.type (if elemInt v.type b < elemInt v.type a then b else a)) s

/-- VMAX (R316). -/
def execVmax (vd va vb : VReg) (v : VForm) (s : State) : Host.Outcome State Fault Refusal :=
  viop vd va vb v (fun a b => toLane v.type (if elemInt v.type a < elemInt v.type b then b else a)) s

/-- VMIN.N (R316). -/
def execVminN (vd va vb : VReg) (v : VForm) (s : State) : Host.Outcome State Fault Refusal :=
  viop vd va vb v (fun a b => toLane v.type (if b < a then b else a)) s

/-- VMAX.N (R316). -/
def execVmaxN (vd va vb : VReg) (v : VForm) (s : State) : Host.Outcome State Fault Refusal :=
  viop vd va vb v (fun a b => toLane v.type (if a < b then b else a)) s

/-! ### Floating arithmetic (R317) -/

/-- An instruction over the exact values of one or two sources, with the mode of its rounding. -/
def vfop (vd va vb : VReg) (v : VForm) (f : Mode → Nat → Nat → Nat × BitVec 5) (s : State) : Host.Outcome State Fault Refusal :=
  runStrand (issueV [] [] (lanewise vd v fun x l =>
    f (x.mode v.rnd) (elemOf v.type (lane (x.vec va) l)) (elemOf v.type (lane (x.vec vb) l)))) s

/-- An exact result rounded once; a NaN that the operation makes sets NV. -/
def rounded (f : Fmt) (mode : Mode) (sat : Bool) (x : Ext × Bool) : Nat × BitVec 5 :=
  if x.2 then (f.nanCode, flagNV) else f.ofExt mode sat x.1

/-- VFADD (R317). -/
def execVfadd (vd va vb : VReg) (v : VForm) (s : State) : Host.Outcome State Fault Refusal :=
  let f := elemFmt v.type
  vfop vd va vb v (fun m a b => rounded f m v.sat (Ext.add m (f.value a) (f.value b))) s

/-- VFSUB (R317). -/
def execVfsub (vd va vb : VReg) (v : VForm) (s : State) : Host.Outcome State Fault Refusal :=
  let f := elemFmt v.type
  vfop vd va vb v (fun m a b => rounded f m v.sat (Ext.add m (f.value a) (f.value b).neg)) s

/-- VFMUL (R317). -/
def execVfmul (vd va vb : VReg) (v : VForm) (s : State) : Host.Outcome State Fault Refusal :=
  let f := elemFmt v.type
  vfop vd va vb v (fun m a b => rounded f m v.sat (Ext.mul (f.value a) (f.value b))) s

/-- The smaller of two codes; -0 is below +0, a NaN gives the canonical NaN. -/
def Fmt.minCode (f : Fmt) (a b : Nat) : Nat :=
  let x := f.value a
  let y := f.value b
  if x.isNan ∨ y.isNan then f.nanCode
  else if x.lt y then a
  else if y.lt x then b
  else if 2 ^ (f.ebits + f.fbits) ≤ a then a else b

/-- The larger of two codes. -/
def Fmt.topCode (f : Fmt) (a b : Nat) : Nat :=
  let x := f.value a
  let y := f.value b
  if x.isNan ∨ y.isNan then f.nanCode
  else if x.lt y then b
  else if y.lt x then a
  else if 2 ^ (f.ebits + f.fbits) ≤ a then b else a

/-- VFMIN (R317). -/
def execVfmin (vd va vb : VReg) (v : VForm) (s : State) : Host.Outcome State Fault Refusal :=
  vfop vd va vb v (fun _ a b => ((elemFmt v.type).minCode a b, 0)) s

/-- VFMAX (R317). -/
def execVfmax (vd va vb : VReg) (v : VForm) (s : State) : Host.Outcome State Fault Refusal :=
  vfop vd va vb v (fun _ a b => ((elemFmt v.type).topCode a b, 0)) s

/-- VFDIV (R317). -/
def execVfdiv (vd va vb : VReg) (v : VForm) (s : State) : Host.Outcome State Fault Refusal :=
  let f := elemFmt v.type
  vfop vd va vb v (fun m a b => f.div m v.sat (f.value a) (f.value b)) s

/-- VFSQRT (R317). -/
def execVfsqrt (vd va : VReg) (v : VForm) (s : State) : Host.Outcome State Fault Refusal :=
  let f := elemFmt v.type
  vfop vd va va v (fun m a _ => f.sqrt m v.sat (f.value a)) s

/-- VFRCP (R317). -/
def execVfrcp (vd va : VReg) (v : VForm) (s : State) : Host.Outcome State Fault Refusal :=
  let f := elemFmt v.type
  vfop vd va va v (fun m a _ => f.div m v.sat (.fin false 1 0) (f.value a)) s

/-- 1 / the square root, rounded once (R317). -/
def Fmt.rsqrt (f : Fmt) (mode : Mode) (sat : Bool) (a : Ext) : Nat × BitVec 5 :=
  match a with
  | .nan => (f.nanCode, 0)
  | .inf s => if s then (f.nanCode, flagNV) else (f.zeroCode false, 0)
  | .fin s m e =>
    if m = 0 then ((f.ofExt mode sat (.inf s)).1, flagDZ)
    else if s then (f.nanCode, flagNV)
    else
      let sh0 := 2 * (f.fbits + 4) + bitLen m
      let sh := if ((sh0 : Int) + e) % 2 = 0 then sh0 else sh0 + 1
      let q := 2 ^ sh / m
      let r := isqrtFrom q (bitLen q / 2 + 1) 0
      f.round mode sat false r (-(((sh : Int) + e) / 2)) (r * r * m != 2 ^ sh)

/-- VFRSQ (R317). -/
def execVfrsq (vd va : VReg) (v : VForm) (s : State) : Host.Outcome State Fault Refusal :=
  let f := elemFmt v.type
  vfop vd va va v (fun m a _ => f.rsqrt m v.sat (f.value a)) s

/-- A fused multiply-add: the product, negated when `np`, plus c, negated when `nc`, rounded once (R317). -/
def Fmt.fma (f : Fmt) (mode : Mode) (sat np nc : Bool) (a b c : Ext) : Nat × BitVec 5 :=
  let (p, nv) := Ext.mul a b
  if nv then (f.nanCode, flagNV)
  else rounded f mode sat (Ext.add mode (if np then p.neg else p) (if nc then c.neg else c))

/-- VFMA, VFMS and VFNMA over the lanes. -/
def vfmaOp (vd va vb vc : VReg) (v : VForm) (np nc : Bool) (s : State) : Host.Outcome State Fault Refusal :=
  let f := elemFmt v.type
  runStrand (issueV [] [] (lanewise vd v fun x l =>
    let val (r : VReg) : Ext := f.value (elemOf v.type (lane (x.vec r) l))
    f.fma (x.mode v.rnd) v.sat np nc (val va) (val vb) (val vc))) s

/-- VFMA (R317). -/
def execVfma (vd va vb vc : VReg) (v : VForm) (s : State) : Host.Outcome State Fault Refusal := vfmaOp vd va vb vc v false false s

/-- VFMS (R317). -/
def execVfms (vd va vb vc : VReg) (v : VForm) (s : State) : Host.Outcome State Fault Refusal := vfmaOp vd va vb vc v false true s

/-- VFNMA (R317). -/
def execVfnma (vd va vb vc : VReg) (v : VForm) (s : State) : Host.Outcome State Fault Refusal := vfmaOp vd va vb vc v true false s

/-! ### Conversions and comparisons -/

/-- The conversion of an element (R215, R318): the lane and the flags. -/
def convert (src dst : ElemType) (mode : Mode) (sat : Bool) (x : Nat) : Nat × BitVec 5 :=
  if src = dst then (toLane dst x, 0)
  else if dst.isInt then
    if src.isInt then
      let i := elemInt src x
      (intLane dst (if sat then clampInt (typeBits dst) i else i), 0)
    else
      let (i, fl) := toInt mode (typeBits dst) (elemExt src x)
      (intLane dst i, fl)
  else (elemFmt dst).ofExt mode sat (elemExt src x)

/-- VCVT (R318). -/
def execVcvt (vd va : VReg) (v : VForm) (s : State) : Host.Outcome State Fault Refusal :=
  runStrand (issueV [] [] (lanewise vd v fun x l =>
    convert ((auxType v.aux).getD v.type) v.type (x.mode v.rnd) v.sat (lane (x.vec va) l))) s

/-- Cond on elements (R319). -/
def vcond (cc : Cond) (t : ElemType) (a b : Nat) : Bool :=
  if t.isInt then
    match cc with
    | .eq => elemOf t a == elemOf t b
    | .ne => elemOf t a != elemOf t b
    | .lt => decide (elemInt t a < elemInt t b)
    | .ge => decide (elemInt t b ≤ elemInt t a)
    | .ltN => decide (elemOf t a < elemOf t b)
    | .geN => decide (elemOf t b ≤ elemOf t a)
  else
    let x := elemExt t a
    let y := elemExt t b
    match cc with
    | .eq => x.eqv y
    | .ne => ! x.eqv y
    | .lt => x.lt y
    | .ge => ! x.isNan && ! y.isNan && ! x.lt y
    | .ltN => false
    | .geN => false

/-- A mask whose selected bits are computed. -/
def mapMask (old m : BitVec 32) (f : Nat → Bool) : BitVec 32 :=
  BitVec.ofNat 32 (((List.range 32).filter fun l => if m.getLsbD l then f l else old.getLsbD l).foldl (fun a l => a + 2 ^ l) 0)

/-- VCMP (R319). -/
def execVcmpCc (cc : Cond) (md : MReg) (va vb : VReg) (v : VForm) (s : State) : Host.Outcome State Fault Refusal :=
  runStrand (issueV [] [] do
    let x ← cur
    let m := x.mask v.mask
    writeM md (mapMask (x.mask md) m fun l => vcond cc v.type (lane (x.vec va) l) (lane (x.vec vb) l))
    laneWork m) s

/-! ### Moving lanes (R320, R321) -/

/-- VSEL (R320). -/
def execVsel (vd va vb : VReg) (mc : MReg) (v : VForm) (s : State) : Host.Outcome State Fault Refusal :=
  runStrand (issueV [] [] (lanewise vd v fun x l =>
    (lane (if (x.mask mc).getLsbD l then x.vec va else x.vec vb) l, 0))) s

/-- VPERM (R320). -/
def execVperm (vd va vb : VReg) (v : VForm) (s : State) : Host.Outcome State Fault Refusal :=
  runStrand (issueV [] [] (lanewise vd v fun x l => (lane (x.vec va) (lane (x.vec vb) l % 32), 0))) s

/-- VBC (R320). -/
def execVbc (vd : VReg) (ra : GReg) (v : VForm) (s : State) : Host.Outcome State Fault Refusal :=
  runStrand (issueV [ra] [] do
    let g ← srcG ra
    lanewise vd v fun _ _ => (g.toNat % 2 ^ 32, 0)) s

/-- VMVG to a g register (R321): it does not anchor. -/
def execVmvgToG (e : Bool) (rd : GReg) (va : VReg) (v : VForm) (s : State) : Host.Outcome State Fault Refusal :=
  runStrand (issue 8 e false [] [rd] do
    checkDest rd
    let x ← cur
    let w := BitVec.ofNat 64 (lane (x.vec va) (field v.imm 0 5))
    writeG rd w
    laneWork 1
    return .g rd w) s

/-- VMVG to a lane (R321). -/
def execVmvgToV (e : Bool) (vd : VReg) (ra : GReg) (v : VForm) (s : State) : Host.Outcome State Fault Refusal :=
  runStrand (issue 8 e false [ra] [] do
    let g ← srcG ra
    let x ← cur
    let r := setField (x.vec vd) (32 * field v.imm 0 5) 32 (g.toNat % 2 ^ 32)
    writeV vd r
    laneWork 1
    return .v vd r) s

/-! ### Reductions, transforms and quantization -/

/-- The identity of a reduction (R218). -/
def redIdentity (op : VredOp) (t : ElemType) : Nat :=
  let w := typeBits t
  let f := elemFmt t
  match op with
  | .add => if t.isInt then 0 else f.zeroCode true
  | .min => if t.isInt then 2 ^ (w - 1) - 1 else f.infCode false
  | .max => if t.isInt then 2 ^ (w - 1) else f.infCode true
  | .and => 2 ^ w - 1
  | .or => 0
  | .xor => 0

/-- One step of a reduction on elements, with flags (R218, R322). -/
def redStep (op : VredOp) (t : ElemType) (a b : Nat) : Nat × BitVec 5 :=
  let f := elemFmt t
  match op with
  | .add => if t.isInt then ((a + b) % 2 ^ typeBits t, 0) else f.addCodes .rne false (f.value a) (f.value b)
  | .min => if t.isInt then (if elemInt t b < elemInt t a then b else a, 0) else (f.minCode a b, 0)
  | .max => if t.isInt then (if elemInt t a < elemInt t b then b else a, 0) else (f.topCode a b, 0)
  | .and => (a &&& b, 0)
  | .or => (a ||| b, 0)
  | .xor => (a ^^^ b, 0)

/-- The tree of R218 on a list of 2^n elements: lane l with lane l + half. -/
def redTree (op : VredOp) (t : ElemType) : (n : Nat) → List Nat → Nat × BitVec 5
  | 0, xs => (xs.headD 0, 0)
  | n + 1, xs =>
    let rs := ((xs.take (2 ^ n)).zip (xs.drop (2 ^ n))).map fun e => redStep op t e.1 e.2
    let (r, fl) := redTree op t n (rs.map (·.1))
    (r, rs.foldl (fun a e => a ||| e.2) fl)

/-- VRED (R322): lane 0 takes the result, the other lanes are zero. -/
def execVred (e : Bool) (op : VredOp) (vd va : VReg) (v : VForm) (s : State) : Host.Outcome State Fault Refusal :=
  runStrand (issueVec e [] [] do
    let x ← cur
    let m := x.mask v.mask
    let xs := (List.range 32).map fun l => if m.getLsbD l then elemOf v.type (lane (x.vec va) l) else redIdentity op v.type
    let (r, fl) := redTree op v.type 5 xs
    let w := BitVec.ofNat 1024 (toLane v.type r)
    writeV vd w
    raise_ fl
    laneWork m
    return .v vd w) s

/-- VHAD (R323). -/
def execVhad (vd va : VReg) (rb rc : GReg) (v : VForm) (s : State) : Host.Outcome State Fault Refusal :=
  runStrand (issueV [rb, rc] [] do
    let seed ← srcG rb
    let k0 ← srcG rc
    if k0.toNat % 32 ≠ 0 then trap Cause.illegal (regValue rc)
    let x ← cur
    let f := elemFmt v.type
    let mode := x.mode v.rnd
    let a := (List.range 32).map fun l => f.value (elemOf v.type (lane (x.vec va) l))
    let nan := a.any Ext.isNan
    lanewise vd v fun _ l =>
      let y := hadOutput a seed k0.toNat l
      let y := if bit v.aux 0 then y.scale (-5) else y
      match y with
      | .nan => (f.nanCode, if nan then 0 else flagNV)
      | .fin _ 0 _ => (f.zeroCode (mode == .rdn), 0)
      | z => f.ofExt mode v.sat z) s

/-- The magnitude of an exact value. -/
def Ext.abs : Ext → Ext
  | .fin _ m e => .fin false m e
  | .inf _ => .inf false
  | .nan => .nan

/-- Floor(Log2) of a finite non-zero magnitude. -/
def Ext.log2 : Ext → Int
  | .fin _ m e => bitLen m - 1 + e
  | _ => 0

/-- EMAX of QNT (R324). -/
def qntEmax (v : VForm) : Int :=
  if v.aux = 1 then 2 else match v.type with
    | .e4m3 => 8
    | .e5m2 => 15
    | _ => 6

/-- RoundSat of QNT: clamped to the largest magnitude; NX and UF may be set, OF never is. -/
def qntRound (v : VForm) (mode : Mode) (y : Ext) : Nat × BitVec 5 :=
  if v.aux = 1 ∨ v.type ≠ .i8 then
    let (x, fl) := (if v.aux = 1 then e2m1 else elemFmt v.type).ofExt mode true y
    (x, fl &&& 3)
  else
    match y with
    | .fin s m e =>
      let (r, exact) := roundInt mode s m e
      let c := if 127 < r then 127 else if r < -127 then -127 else r
      (intLane .i8 c, if exact ∧ c = r then 0 else flagNX)
    | _ => (0, 0)

/-- QNaN of QNT. -/
def qntNan (v : VForm) : Nat :=
  match v.type with
  | .e4m3 => 0x7F
  | .e5m2 => 0x7E
  | _ => 0

/-- QNT (R324). -/
def execQnt (vd va : VReg) (rb : GReg) (v : VForm) (s : State) : Host.Outcome State Fault Refusal :=
  runStrand (issueV [] [rb] do
    checkDest rb
    let x ← cur
    let m := x.mask v.mask
    let val (l : Nat) : Ext := fp32.value (lane (x.vec va) l)
    let ls := lanesIn m
    let finite (y : Ext) : Bool := match y with
      | .fin _ _ _ => true
      | _ => false
    if ! ls.all fun l => finite (val l) then
      writeG rb 0xFF
      lanewise vd v fun _ _ => (qntNan v, flagNV)
    else
      let amax := ls.foldl (fun a l => if a.lt (val l).abs then (val l).abs else a) (.fin false 0 0)
      let e := if amax.eqv (.fin false 0 0) then -127 else amax.log2 - qntEmax v
      let e := if e < -127 then -127 else if 127 < e then 127 else e
      writeG rb (BitVec.ofInt 64 (e + 127))
      lanewise vd v fun x l => qntRound v (x.mode v.rnd) ((val l).scale (-e))) s

/-! ### Masks (R325) and VREL (R326) -/

/-- A mask instruction that writes a mask computed from the registers. -/
def maskOp (md : MReg) (f : Slot → BitVec 32) (s : State) : Host.Outcome State Fault Refusal :=
  runStrand (issueV [] [] do
    let x ← cur
    writeM md (f x)) s

/-- MAND (R325). -/
def execMand (md ma mb : MReg) (s : State) : Host.Outcome State Fault Refusal := maskOp md (fun x => x.mask ma &&& x.mask mb) s

/-- MOR (R325). -/
def execMor (md ma mb : MReg) (s : State) : Host.Outcome State Fault Refusal := maskOp md (fun x => x.mask ma ||| x.mask mb) s

/-- MXOR (R325). -/
def execMxor (md ma mb : MReg) (s : State) : Host.Outcome State Fault Refusal := maskOp md (fun x => x.mask ma ^^^ x.mask mb) s

/-- MNOT (R325). -/
def execMnot (md ma : MReg) (s : State) : Host.Outcome State Fault Refusal := maskOp md (fun x => ~~~ x.mask ma) s

/-- MPOP (R325): it does not anchor. -/
def execMpop (rd : GReg) (ma : MReg) (s : State) : Host.Outcome State Fault Refusal :=
  runStrand (issueV [] [rd] do
    checkDest rd
    let x ← cur
    writeG rd (BitVec.ofNat 64 (popCount (x.mask ma)))) s

/-- MSET (R325). -/
def execMset (md : MReg) (ra : GReg) (s : State) : Host.Outcome State Fault Refusal :=
  runStrand (issueV [ra] [] do
    let g ← srcG ra
    writeM md (g.setWidth 32)) s

/-- The state that VREL leaves (R326). -/
def Slot.release (x : Slot) : Slot :=
  { x with
    v := Vector.replicate 16 0
    m := Vector.replicate 8 0
    d := Vector.replicate 4 DistReg.released
    status := setBit x.status 0 false }

/-- VREL (R326). -/
def execVrel (s : State) : Host.Outcome State Fault Refusal :=
  runStrand (issuePlain 8 [] [] (modCur Slot.release)) s

end Sys2Proof.Machine
end

