-- ==== Sys2Proof/Machine/Dispatch.lean ====
section
/-! DEFINITION. The one match from an instruction to its meaning: one arm for each constructor, in the table's order. -/

namespace Sys2Proof.Machine

def exec (i : Instr) (s : State) : Host.Outcome State Fault Refusal :=
  match i with
  | .nop e => Sys2Proof.Machine.execNop e s
  | .j disp => Sys2Proof.Machine.execJ disp s
  | .jl rd disp => Sys2Proof.Machine.execJl rd disp s
  | .jr ra => Sys2Proof.Machine.execJr ra s
  | .jlr rd ra => Sys2Proof.Machine.execJlr rd ra s
  | .bCc cc ra rb disp => Sys2Proof.Machine.execBCc cc ra rb disp s
  | .biCc cc ra imm disp => Sys2Proof.Machine.execBiCc cc ra imm disp s
  | .trap imm => Sys2Proof.Machine.execTrap imm s
  | .brk imm => Sys2Proof.Machine.execBrk imm s
  | .tret => Sys2Proof.Machine.execTret s
  | .srd e rd num => Sys2Proof.Machine.execSrd e rd num s
  | .swr e ra num => Sys2Proof.Machine.execSwr e ra num s
  | .ifence => Sys2Proof.Machine.execIfence s
  | .sleep rd imm => Sys2Proof.Machine.execSleep rd imm s
  | .xlat e rd ra disp => Sys2Proof.Machine.execXlat e rd ra disp s
  | .rep n k st => Sys2Proof.Machine.execRep n k st s
  | .add e rd ra rb => Sys2Proof.Machine.execAdd e rd ra rb s
  | .sub e rd ra rb => Sys2Proof.Machine.execSub e rd ra rb s
  | .and e rd ra rb => Sys2Proof.Machine.execAnd e rd ra rb s
  | .or e rd ra rb => Sys2Proof.Machine.execOr e rd ra rb s
  | .xor e rd ra rb => Sys2Proof.Machine.execXor e rd ra rb s
  | .andn e rd ra rb => Sys2Proof.Machine.execAndn e rd ra rb s
  | .shl e rd ra rb => Sys2Proof.Machine.execShl e rd ra rb s
  | .shr e rd ra rb => Sys2Proof.Machine.execShr e rd ra rb s
  | .sar e rd ra rb => Sys2Proof.Machine.execSar e rd ra rb s
  | .ror e rd ra rb => Sys2Proof.Machine.execRor e rd ra rb s
  | .min e rd ra rb => Sys2Proof.Machine.execMin e rd ra rb s
  | .max e rd ra rb => Sys2Proof.Machine.execMax e rd ra rb s
  | .minN e rd ra rb => Sys2Proof.Machine.execMinN e rd ra rb s
  | .maxN e rd ra rb => Sys2Proof.Machine.execMaxN e rd ra rb s
  | .addi e rd ra imm => Sys2Proof.Machine.execAddi e rd ra imm s
  | .subi e rd ra imm => Sys2Proof.Machine.execSubi e rd ra imm s
  | .andi e rd ra imm => Sys2Proof.Machine.execAndi e rd ra imm s
  | .ori e rd ra imm => Sys2Proof.Machine.execOri e rd ra imm s
  | .xori e rd ra imm => Sys2Proof.Machine.execXori e rd ra imm s
  | .andni e rd ra imm => Sys2Proof.Machine.execAndni e rd ra imm s
  | .shli e rd ra imm => Sys2Proof.Machine.execShli e rd ra imm s
  | .shri e rd ra imm => Sys2Proof.Machine.execShri e rd ra imm s
  | .sari e rd ra imm => Sys2Proof.Machine.execSari e rd ra imm s
  | .rori e rd ra imm => Sys2Proof.Machine.execRori e rd ra imm s
  | .mini e rd ra imm => Sys2Proof.Machine.execMini e rd ra imm s
  | .maxi e rd ra imm => Sys2Proof.Machine.execMaxi e rd ra imm s
  | .miniN e rd ra imm => Sys2Proof.Machine.execMiniN e rd ra imm s
  | .maxiN e rd ra imm => Sys2Proof.Machine.execMaxiN e rd ra imm s
  | .mul e rd ra rb => Sys2Proof.Machine.execMul e rd ra rb s
  | .mulh e rd ra rb => Sys2Proof.Machine.execMulh e rd ra rb s
  | .mulhN e rd ra rb => Sys2Proof.Machine.execMulhN e rd ra rb s
  | .div e rd ra rb => Sys2Proof.Machine.execDiv e rd ra rb s
  | .divN e rd ra rb => Sys2Proof.Machine.execDivN e rd ra rb s
  | .rem e rd ra rb => Sys2Proof.Machine.execRem e rd ra rb s
  | .remN e rd ra rb => Sys2Proof.Machine.execRemN e rd ra rb s
  | .muli e rd ra imm => Sys2Proof.Machine.execMuli e rd ra imm s
  | .clz e rd ra => Sys2Proof.Machine.execClz e rd ra s
  | .ctz e rd ra => Sys2Proof.Machine.execCtz e rd ra s
  | .popc e rd ra => Sys2Proof.Machine.execPopc e rd ra s
  | .brev e rd ra => Sys2Proof.Machine.execBrev e rd ra s
  | .bswap e rd ra => Sys2Proof.Machine.execBswap e rd ra s
  | .ext e rd ra signed w1 lo => Sys2Proof.Machine.execExt e rd ra signed w1 lo s
  | .ins e rd ra w1 lo => Sys2Proof.Machine.execIns e rd ra w1 lo s
  | .setCc e cc rd ra rb => Sys2Proof.Machine.execSetCc e cc rd ra rb s
  | .setiCc e cc rd ra imm => Sys2Proof.Machine.execSetiCc e cc rd ra imm s
  | .sel e rd ra rb rc => Sys2Proof.Machine.execSel e rd ra rb rc s
  | .movi e rd imm => Sys2Proof.Machine.execMovi e rd imm s
  | .addsh e rd ra rb sh => Sys2Proof.Machine.execAddsh e rd ra rb sh s
  | .addpc e rd imm => Sys2Proof.Machine.execAddpc e rd imm s
  | .ld e rd ra m => Sys2Proof.Machine.execLd e rd ra m s
  | .st e ra rc m => Sys2Proof.Machine.execSt e ra rc m s
  | .ldx e rd ra rb m => Sys2Proof.Machine.execLdx e rd ra rb m s
  | .stx e ra rb rc m => Sys2Proof.Machine.execStx e ra rb rc m s
  | .bld e rd ra rb m => Sys2Proof.Machine.execBld e rd ra rb m s
  | .bst e ra rb rc m => Sys2Proof.Machine.execBst e ra rb rc m s
  | .pf ra m => Sys2Proof.Machine.execPf ra m s
  | .cwb ra m => Sys2Proof.Machine.execCwb ra m s
  | .cinv ra m => Sys2Proof.Machine.execCinv ra m s
  | .fence kinds scope => Sys2Proof.Machine.execFence kinds scope s
  | .wosc => Sys2Proof.Machine.execWosc s
  | .amo e op rd ra rc m => Sys2Proof.Machine.execAmo e op rd ra rc m s
  | .cas e rd ra rb rc m => Sys2Proof.Machine.execCas e rd ra rb rc m s
  | .red e op ra rc m => Sys2Proof.Machine.execRed e op ra rc m s
  | .binit ra rb m => Sys2Proof.Machine.execBinit ra rb m s
  | .barr rd ra m => Sys2Proof.Machine.execBarr rd ra m s
  | .bexp ra rc m => Sys2Proof.Machine.execBexp ra rc m s
  | .bwait rd ra rb m => Sys2Proof.Machine.execBwait rd ra rb m s
  | .btest rd ra rb m => Sys2Proof.Machine.execBtest rd ra rb m s
  | .nbar rd level group => Sys2Proof.Machine.execNbar rd level group s
  | .arm ra rb rc m => Sys2Proof.Machine.execArm ra rb rc m s
  | .cpy rd ra rb rc c => Sys2Proof.Machine.execCpy rd ra rb rc c s
  | .cpy2 rd ra rb rc c => Sys2Proof.Machine.execCpy2 rd ra rb rc c s
  | .cpym rd ra rb rc c => Sys2Proof.Machine.execCpym rd ra rb rc c s
  | .cpyq rd q rb rc c => Sys2Proof.Machine.execCpyq rd q rb rc c s
  | .qcfg q ra => Sys2Proof.Machine.execQcfg q ra s
  | .qpush q ra => Sys2Proof.Machine.execQpush q ra s
  | .qpop q ra => Sys2Proof.Machine.execQpop q ra s
  | .qstat rd q => Sys2Proof.Machine.execQstat rd q s
  | .isub rd ra rb q c => Sys2Proof.Machine.execIsub rd ra rb q c s
  | .osub rd ra rb q c => Sys2Proof.Machine.execOsub rd ra rb q c s
  | .unsub rd => Sys2Proof.Machine.execUnsub rd s
  | .cpyres rd ra => Sys2Proof.Machine.execCpyres rd ra s
  | .fork ra rb rc disp => Sys2Proof.Machine.execFork ra rb rc disp s
  | .spawn ra rb => Sys2Proof.Machine.execSpawn ra rb s
  | .gang ra => Sys2Proof.Machine.execGang ra s
  | .join ra m => Sys2Proof.Machine.execJoin ra m s
  | .jdec ra m => Sys2Proof.Machine.execJdec ra m s
  | .exit => Sys2Proof.Machine.execExit s
  | .yield => Sys2Proof.Machine.execYield s
  | .migr ra => Sys2Proof.Machine.execMigr ra s
  | .pin => Sys2Proof.Machine.execPin s
  | .unpin => Sys2Proof.Machine.execUnpin s
  | .taskr rd ra rb rc c => Sys2Proof.Machine.execTaskr rd ra rb rc c s
  | .tasks rd ra rb y x => Sys2Proof.Machine.execTasks rd ra rb y x s
  | .tdone ra => Sys2Proof.Machine.execTdone ra s
  | .chan rd ra rb esize ldepth => Sys2Proof.Machine.execChan rd ra rb esize ldepth s
  | .snd rd ra rc => Sys2Proof.Machine.execSnd rd ra rc s
  | .sndb rd ra rc => Sys2Proof.Machine.execSndb rd ra rc s
  | .sndj rd ra rc => Sys2Proof.Machine.execSndj rd ra rc s
  | .rcv rd ra rb rc => Sys2Proof.Machine.execRcv rd ra rb rc s
  | .trcv rd ra rb rc => Sys2Proof.Machine.execTrcv rd ra rb rc s
  | .close ra => Sys2Proof.Machine.execClose ra s
  | .dropj ra => Sys2Proof.Machine.execDropj ra s
  | .movj rd ra => Sys2Proof.Machine.execMovj rd ra s
  | .jkind rd ra => Sys2Proof.Machine.execJkind rd ra s
  | .grant rd stream index => Sys2Proof.Machine.execGrant rd stream index s
  | .gdup rd ra => Sys2Proof.Machine.execGdup rd ra s
  | .mcmd rd ra rb t => Sys2Proof.Machine.execMcmd rd ra rb t s
  | .lnch rd ra rb disp => Sys2Proof.Machine.execLnch rd ra rb disp s
  | .lwait rd ra => Sys2Proof.Machine.execLwait rd ra s
  | .labrt ra => Sys2Proof.Machine.execLabrt ra s
  | .vld e vd ra v => Sys2Proof.Machine.execVld e vd ra v s
  | .vldRing e vd q v => Sys2Proof.Machine.execVldRing e vd q v s
  | .vst ra vc v => Sys2Proof.Machine.execVst ra vc v s
  | .vstRing q vc v => Sys2Proof.Machine.execVstRing q vc v s
  | .vldg e vd ra vb v => Sys2Proof.Machine.execVldg e vd ra vb v s
  | .vsts ra vb vc v => Sys2Proof.Machine.execVsts ra vb vc v s
  | .vadd vd va vb v => Sys2Proof.Machine.execVadd vd va vb v s
  | .vsub vd va vb v => Sys2Proof.Machine.execVsub vd va vb v s
  | .vmul vd va vb v => Sys2Proof.Machine.execVmul vd va vb v s
  | .vand vd va vb v => Sys2Proof.Machine.execVand vd va vb v s
  | .vor vd va vb v => Sys2Proof.Machine.execVor vd va vb v s
  | .vxor vd va vb v => Sys2Proof.Machine.execVxor vd va vb v s
  | .vshl vd va vb v => Sys2Proof.Machine.execVshl vd va vb v s
  | .vshr vd va vb v => Sys2Proof.Machine.execVshr vd va vb v s
  | .vsar vd va vb v => Sys2Proof.Machine.execVsar vd va vb v s
  | .vmin vd va vb v => Sys2Proof.Machine.execVmin vd va vb v s
  | .vmax vd va vb v => Sys2Proof.Machine.execVmax vd va vb v s
  | .vminN vd va vb v => Sys2Proof.Machine.execVminN vd va vb v s
  | .vmaxN vd va vb v => Sys2Proof.Machine.execVmaxN vd va vb v s
  | .vfadd vd va vb v => Sys2Proof.Machine.execVfadd vd va vb v s
  | .vfsub vd va vb v => Sys2Proof.Machine.execVfsub vd va vb v s
  | .vfmul vd va vb v => Sys2Proof.Machine.execVfmul vd va vb v s
  | .vfmin vd va vb v => Sys2Proof.Machine.execVfmin vd va vb v s
  | .vfmax vd va vb v => Sys2Proof.Machine.execVfmax vd va vb v s
  | .vfdiv vd va vb v => Sys2Proof.Machine.execVfdiv vd va vb v s
  | .vfsqrt vd va v => Sys2Proof.Machine.execVfsqrt vd va v s
  | .vfrcp vd va v => Sys2Proof.Machine.execVfrcp vd va v s
  | .vfrsq vd va v => Sys2Proof.Machine.execVfrsq vd va v s
  | .vfma vd va vb vc v => Sys2Proof.Machine.execVfma vd va vb vc v s
  | .vfms vd va vb vc v => Sys2Proof.Machine.execVfms vd va vb vc v s
  | .vfnma vd va vb vc v => Sys2Proof.Machine.execVfnma vd va vb vc v s
  | .vcvt vd va v => Sys2Proof.Machine.execVcvt vd va v s
  | .vcmpCc cc md va vb v => Sys2Proof.Machine.execVcmpCc cc md va vb v s
  | .vsel vd va vb mc v => Sys2Proof.Machine.execVsel vd va vb mc v s
  | .vperm vd va vb v => Sys2Proof.Machine.execVperm vd va vb v s
  | .vbc vd ra v => Sys2Proof.Machine.execVbc vd ra v s
  | .vmvgToG e rd va v => Sys2Proof.Machine.execVmvgToG e rd va v s
  | .vmvgToV e vd ra v => Sys2Proof.Machine.execVmvgToV e vd ra v s
  | .vred e op vd va v => Sys2Proof.Machine.execVred e op vd va v s
  | .vhad vd va rb rc v => Sys2Proof.Machine.execVhad vd va rb rc v s
  | .qnt vd va rb v => Sys2Proof.Machine.execQnt vd va rb v s
  | .mand md ma mb => Sys2Proof.Machine.execMand md ma mb s
  | .mor md ma mb => Sys2Proof.Machine.execMor md ma mb s
  | .mxor md ma mb => Sys2Proof.Machine.execMxor md ma mb s
  | .mnot md ma => Sys2Proof.Machine.execMnot md ma s
  | .mpop rd ma => Sys2Proof.Machine.execMpop rd ma s
  | .mset md ra => Sys2Proof.Machine.execMset md ra s
  | .vrel => Sys2Proof.Machine.execVrel s
  | .dfrom dd va vb v => Sys2Proof.Machine.execDfrom dd va vb v s
  | .dld e dd ra rb v => Sys2Proof.Machine.execDld e dd ra rb v s
  | .dst ra dc v => Sys2Proof.Machine.execDst ra dc v s
  | .dadd dd da db => Sys2Proof.Machine.execDadd dd da db s
  | .dsub dd da db => Sys2Proof.Machine.execDsub dd da db s
  | .dmul dd da db => Sys2Proof.Machine.execDmul dd da db s
  | .dmax dd da db => Sys2Proof.Machine.execDmax dd da db s
  | .dmin dd da db => Sys2Proof.Machine.execDmin dd da db s
  | .daff dd da rb => Sys2Proof.Machine.execDaff dd da rb s
  | .dmom e vd da v => Sys2Proof.Machine.execDmom e vd da v s
  | .dqnt e vd da v => Sys2Proof.Machine.execDqnt e vd da v s
  | .dlinSet dd lin => Sys2Proof.Machine.execDlinSet dd lin s
  | .dlinGet rd da => Sys2Proof.Machine.execDlinGet rd da s
  | .tdset ra t => Sys2Proof.Machine.execTdset ra t s
  | .tdget ra t => Sys2Proof.Machine.execTdget ra t s
  | .lsta rd t => Sys2Proof.Machine.execLsta rd t s
  | .mswap => Sys2Proof.Machine.execMswap s
  | .mstrm rd t => Sys2Proof.Machine.execMstrm rd t s
  | .mstrmRing rd q t => Sys2Proof.Machine.execMstrmRing rd q t s
  | .mout rd clear t => Sys2Proof.Machine.execMout rd clear t s
  | .moutRing rd q clear t => Sys2Proof.Machine.execMoutRing rd q clear t s
  | .mzero rd t => Sys2Proof.Machine.execMzero rd t s
  | .mstat e rd => Sys2Proof.Machine.execMstat e rd s
  | .tlbWalkDone core asid va write => Sys2Proof.Machine.execTlbWalkDone core asid va write s
  | .atsTranslationCompletion fn pasid ua ta r w => Sys2Proof.Machine.execAtsTranslationCompletion fn pasid ua ta r w s
  | .pageRequestResponse fn pasid ua resp => Sys2Proof.Machine.execPageRequestResponse fn pasid ua resp s
  | .hostReadCompletion reader index res => Sys2Proof.Machine.execHostReadCompletion reader index res s
  | .hostAtomicCompletion core slot res => Sys2Proof.Machine.execHostAtomicCompletion core slot res s
  | .invalidateRequest fn pasid ua pages => Sys2Proof.Machine.execInvalidateRequest fn pasid ua pages s
  | .shootdownAcknowledge part => Sys2Proof.Machine.execShootdownAcknowledge part s
  | .invdOnePage d => Sys2Proof.Machine.execInvdOnePage d s
  | .invdRange d => Sys2Proof.Machine.execInvdRange d s
  | .invdAsid d => Sys2Proof.Machine.execInvdAsid d s
  | .invdPartition d => Sys2Proof.Machine.execInvdPartition d s
  | .hasidWrite v => Sys2Proof.Machine.execHasidWrite v s
  | .homeReadRequest core line vtag => Sys2Proof.Machine.execHomeReadRequest core line vtag s
  | .ownershipRequest core line => Sys2Proof.Machine.execOwnershipRequest core line s
  | .writeThroughAtHome core pa size x => Sys2Proof.Machine.execWriteThroughAtHome core pa size x s
  | .updateOnlyGrantRequest core line op size => Sys2Proof.Machine.execUpdateOnlyGrantRequest core line op size s
  | .atomicAtHome r => Sys2Proof.Machine.execAtomicAtHome r s
  | .redAtHome r => Sys2Proof.Machine.execRedAtHome r s
  | .writeBackArrival core line => Sys2Proof.Machine.execWriteBackArrival core line s
  | .invalidationAtHolder rdc holder line => Sys2Proof.Machine.execInvalidationAtHolder rdc holder line s
  | .recallAck line => Sys2Proof.Machine.execRecallAck line s
  | .dirptrWrite v => Sys2Proof.Machine.execDirptrWrite v s
  | .dirdoneListComplete v => Sys2Proof.Machine.execDirdoneListComplete v s
  | .dirdoneBroadcast v => Sys2Proof.Machine.execDirdoneBroadcast v s
  | .infeedTile die index => Sys2Proof.Machine.execInfeedTile die index s
  | .outfeedTile die index => Sys2Proof.Machine.execOutfeedTile die index s
  | .copyChunkDone quad index => Sys2Proof.Machine.execCopyChunkDone quad index s
  | .deferredQueueRoom quad => Sys2Proof.Machine.execDeferredQueueRoom quad s
  | .channelDataArrival msg => Sys2Proof.Machine.execChannelDataArrival msg s
  | .ackArrival msg => Sys2Proof.Machine.execAckArrival msg s
  | .brokenArrival msg => Sys2Proof.Machine.execBrokenArrival msg s
  | .repointArrival msg => Sys2Proof.Machine.execRepointArrival msg s
  | .drainArrival msg => Sys2Proof.Machine.execDrainArrival msg s
  | .claimArrival msg => Sys2Proof.Machine.execClaimArrival msg s
  | .announceArrival msg => Sys2Proof.Machine.execAnnounceArrival msg s
  | .releaseArrival msg => Sys2Proof.Machine.execReleaseArrival msg s
  | .takeAndDrop core recSlot => Sys2Proof.Machine.execTakeAndDrop core recSlot s
  | .shadowSpillResume part => Sys2Proof.Machine.execShadowSpillResume part s
  | .launchCommit part lnum => Sys2Proof.Machine.execLaunchCommit part lnum s
  | .mergeSweep part granule => Sys2Proof.Machine.execMergeSweep part granule s
  | .slotPop core slot => Sys2Proof.Machine.execSlotPop core slot s
  | .dequePushResume core => Sys2Proof.Machine.execDequePushResume core s
  | .steal core => Sys2Proof.Machine.execSteal core s
  | .migrationLanding quad => Sys2Proof.Machine.execMigrationLanding quad s
  | .electValueTaken core slot => Sys2Proof.Machine.execElectValueTaken core slot s
  | .framingArrival core => Sys2Proof.Machine.execFramingArrival core s
  | .budgetWindow quad => Sys2Proof.Machine.execBudgetWindow quad s
  | .lslkWrite v => Sys2Proof.Machine.execLslkWrite v s
  | .sleepTimeout core slot => Sys2Proof.Machine.execSleepTimeout core slot s
  | .launchPlacement part => Sys2Proof.Machine.execLaunchPlacement part s
  | .samplingWindow core => Sys2Proof.Machine.execSamplingWindow core s
  | .lstaComplete core => Sys2Proof.Machine.execLstaComplete core s
  | .mswapPerform core => Sys2Proof.Machine.execMswapPerform core s
  | .trussRowStep core stream => Sys2Proof.Machine.execTrussRowStep core stream s
  | .sliceExpiry core slot => Sys2Proof.Machine.execSliceExpiry core slot s
  | .swapPrepareTimeout p q => Sys2Proof.Machine.execSwapPrepareTimeout p q s
  | .swapExchange p q => Sys2Proof.Machine.execSwapExchange p q s
  | .swapCopyDone p q => Sys2Proof.Machine.execSwapCopyDone p q s
  | .trapQueueEntry core => Sys2Proof.Machine.execTrapQueueEntry core s
  | .tqpopWrite v => Sys2Proof.Machine.execTqpopWrite v s
  | .xkillWrite v => Sys2Proof.Machine.execXkillWrite v s
  | .dstopStop v => Sys2Proof.Machine.execDstopStop v s
  | .dstopRestart v => Sys2Proof.Machine.execDstopRestart v s
  | .xjntWrite v => Sys2Proof.Machine.execXjntWrite v s
  | .shobWrite v => Sys2Proof.Machine.execShobWrite v s
  | .shosWrite v => Sys2Proof.Machine.execShosWrite v s
  | .savbWrite v => Sys2Proof.Machine.execSavbWrite v s
  | .regWrite num v => Sys2Proof.Machine.execRegWrite num v s
  | .tenantSaveComplete core => Sys2Proof.Machine.execTenantSaveComplete core s
  | .apertureWrite fn offset bytes x => Sys2Proof.Machine.execApertureWrite fn offset bytes x s
  | .apertureRead fn offset bytes => Sys2Proof.Machine.execApertureRead fn offset bytes s
  | .doorbell fn x => Sys2Proof.Machine.execDoorbell fn x s
  | .purlinFrame port frame x => Sys2Proof.Machine.execPurlinFrame port frame x s
  | .ident fn frame => Sys2Proof.Machine.execIdent fn frame s
  | .attest fn frame => Sys2Proof.Machine.execAttest fn frame s
  | .fwload fn frame => Sys2Proof.Machine.execFwload fn frame s
  | .status fn frame => Sys2Proof.Machine.execStatus fn frame s
  | .launch fn frame => Sys2Proof.Machine.execLaunch fn frame s
  | .labort fn frame => Sys2Proof.Machine.execLabort fn frame s
  | .revoke fn frame => Sys2Proof.Machine.execRevoke fn frame s
  | .unrevoke fn frame => Sys2Proof.Machine.execUnrevoke fn frame s
  | .prien fn frame => Sys2Proof.Machine.execPrien fn frame s
  | .emureply fn frame => Sys2Proof.Machine.execEmureply fn frame s
  | .faultarea fn frame => Sys2Proof.Machine.execFaultarea fn frame s
  | .spdm fn frame => Sys2Proof.Machine.execSpdm fn frame s
  | .resize fn frame => Sys2Proof.Machine.execResize fn frame s
  | .save fn frame => Sys2Proof.Machine.execSave fn frame s
  | .restore fn frame => Sys2Proof.Machine.execRestore fn frame s
  | .suprst fn frame => Sys2Proof.Machine.execSuprst fn frame s
  | .trace fn frame => Sys2Proof.Machine.execTrace fn frame s
  | .replay fn frame => Sys2Proof.Machine.execReplay fn frame s
  | .callrWrite v => Sys2Proof.Machine.execCallrWrite v s
  | .callpopWrite v => Sys2Proof.Machine.execCallpopWrite v s
  | .frecWrite v => Sys2Proof.Machine.execFrecWrite v s
  | .powerOn => Sys2Proof.Machine.execPowerOn s
  | .coreResetRelease core => Sys2Proof.Machine.execCoreResetRelease core s
  | .startupStageComplete ok => Sys2Proof.Machine.execStartupStageComplete ok s
  | .traceLossSample core => Sys2Proof.Machine.execTraceLossSample core s
  | .traceReadyHistogram core => Sys2Proof.Machine.execTraceReadyHistogram core s
  | .replayStop part => Sys2Proof.Machine.execReplayStop part s
  | .softError corrected core slot atCore virtual addr => Sys2Proof.Machine.execSoftError corrected core slot atCore virtual addr s
  | .completionTimeout engine unit index => Sys2Proof.Machine.execCompletionTimeout engine unit index s
  | .tenantRestoreComplete core => Sys2Proof.Machine.execTenantRestoreComplete core s
  | .contextRestoreComplete core slot => Sys2Proof.Machine.execContextRestoreComplete core slot s
  | .nbarMulticastDown part group => Sys2Proof.Machine.execNbarMulticastDown part group s
  | .vfEnable fn port => Sys2Proof.Machine.execVfEnable fn port s
  | .l1VtagDrop core tag => Sys2Proof.Machine.execL1VtagDrop core tag s
  | .undefinedEncoding length => Sys2Proof.Machine.execUndefinedEncoding length s
  | .fetchFault cause va malformed => Sys2Proof.Machine.execFetchFault cause va malformed s

end Sys2Proof.Machine
end

