-- ==== Sys2Proof/Machine/Barrel.lean ====
section
/-! DEFINITION. The barrel (R166 to R168): which strand of a core issues in a cycle, the issue of a captured block (R245 to R247), what a
cycle counts (Tables 11.8 and 11.9), the clocks it advances (R177, R183, R185, R350, R354, R392), and which core or occurrence comes
next. -/

namespace Sys2Proof.Machine

/-! ### One strand issues -/

/-- Runs what a fetch has found for the strand that issues. -/
def runFetched (f : Fetched) (s : State) : Host.Outcome State Fault Refusal :=
  match f with
  | .instr i _ => exec i s
  | .undefined_ l => exec (.undefinedEncoding l) s
  | .fault c v mal => exec (.fetchFault c v mal) s
  | .wait => .next (s.setWait .memory)

/-- The strand's next instruction by its pc: fetched and run. -/
def issueStream (s : State) : Host.Outcome State Fault Refusal :=
  let (f, t) := s.fetch
  runFetched f t

/-- The instruction that a block issues at repetition J, captured instruction I (R245). -/
def Slot.blockInstr (x : Slot) : Instr := stagger (repsJ x.reps * repsS x.reps) (x.block.getD (repsI x.reps) (.undefinedEncoding false))

/-- REPS after the issue at J and I (R245). -/
def nextReps (r : Word) : Word :=
  if repsI r < repsN r then setField r 37 3 (repsI r + 1)
  else if repsJ r < repsK r then setField (setField r 37 3 0) 40 8 (repsJ r + 1)
  else setBit r 63 false

/-- The address of the strand's next instruction: past a tail that it has not been sent to (R202). -/
def Slot.nextPc (x : Slot) : Word := if x.entered then x.pc else skipTail x.pc

/-- The strand's slot while a captured instruction issues: no delay slot, no block to wait for, the pc at the next instruction of the stream, which
a trap saves (R247); `captured` keeps it from migrating (R246). -/
def Slot.enterBlock (x : Slot) : Slot :=
  { (x.setDs 0) with slotPos := 0, pc := x.nextPc, reps := setBit x.reps 63 false, captured := true }

/-- What the stream holds comes back after a captured instruction: its pc, delay slots and target. -/
def Slot.leaveBlock (x old : Slot) (reps : Word) : Slot :=
  { (x.setDs old.ds) with
    pc := old.pc, entered := old.entered, slotPos := old.slotPos, xtgt := old.xtgt, reps := reps, captured := false
    block := if bit reps 63 then x.block else [], aheadN := if bit reps 63 then x.aheadN else 0 }

/-- The state after a captured instruction: complete, it moves J and I on; one that trapped or waits leaves them (R247). A trap finds
XSTAT, DS and XTGT of the stream; the supervisor slot's block then holds until its TRET. -/
def State.afterCaptured (s : State) (old : Slot) (wasTrap : Bool) : State :=
  let x := s.cur
  if ! x.occupied then s
  else if s.slot = 15 ∧ ((s.coreAt s.core).halted ∨ (s.coreAt s.core).inTrap ≠ wasTrap) then
    s.modCur fun x => { x with xstat := zx64 old.status, reps := old.reps, captured := false, repHold := true }
  else if x.trapped then
    s.modCur fun x => { x.leaveBlock old old.reps with xstat := zx64 old.status }
  else if x.wait ≠ .none ∨ x.pc = old.nextPc then s.modCur fun x => x.leaveBlock old old.reps
  else s.modCur fun x => x.leaveBlock old (nextReps old.reps)

/-- Issues the block's next captured instruction; a block that a restore or a supervisor's write has left uncaptured is captured again
from REPA. -/
def issueBlock (s : State) : Host.Outcome State Fault Refusal :=
  if s.cur.block = [] then runStrand recapture s
  else
    let old := s.cur
    match exec old.blockInstr (s.modCur Slot.enterBlock) with
    | .next t => .next (t.afterCaptured old (s.coreAt s.core).inTrap)
    | .fault r => .fault r
    | .refused r => .refused r

/-- Whether the strand that issued is still waiting for its instruction. -/
def State.stalled (s : State) : Bool := s.cur.occupied && s.cur.wait != .none

/-- Two ways to issue in turn: the second is tried when the first has to wait. -/
def orElseIssue (a b : State → Host.Outcome State Fault Refusal) (s : State) : Host.Outcome State Fault Refusal :=
  match a s with
  | .next t => if t.stalled ∧ t.cur.inRep then b t else .next t
  | r => r

/-- Issues the next instruction of the strand in slot `k` of core `c`; with a block in progress, the block's or the stream's (R246). -/
def issueSlot (c k : Nat) (s : State) : Host.Outcome State Fault Refusal :=
  let s := { s with core := c, slot := k }
  if ! s.cur.inRep then issueStream s
  else if Config.aheadFirst s.tick then orElseIssue issueStream issueBlock s
  else orElseIssue issueBlock issueStream s

/-! ### A cycle of a core -/

/-- Whether the strand of a slot may try to issue (R166): it is not suspended, stopped, killed (R158), held at a boundary, being restored, waiting
for a saved swap, not ready after YIELD, or of a partition that replay has stopped. -/
def State.tryable (s : State) (c k : Nat) : Bool :=
  let x := s.slotAt c k
  x.occupied && (x.kill.isNone || x.inHost) && ! x.trapped && ! x.stopped && ! x.restoring && ! x.swapWait && x.yielded == 0 && ! s.heldBack c k
    && ! (k == 15 && (s.coreAt c).halted) && ! (k != 15 && (s.partAt (s.partOf c)).stoppedReplay)

/-- Whether the strand of a slot is ready: its next instruction can issue this cycle, to complete or to trap (R166). -/
def State.readySlot (s : State) (c k : Nat) : Bool :=
  s.tryable c k &&
    match issueSlot c k s with
    | .next t => ! ((t.slotAt c k).occupied && (t.slotAt c k).wait != .none)
    | _ => false

/-- The arrival of a framing phase is made (R183). -/
def State.arrivalMade (s : State) (c : Nat) : State := s.modCore c fun x => { x with arriving := false }

/-- An arrival takes no issue cycle when the supervisor slot cannot issue (R183). -/
def State.freeArrival (s : State) (c : Nat) : State :=
  if (s.coreAt c).arriving && ! s.readySlot c 15 then s.arrivalMade c else s

/-- The order of a cycle: the visited slot, then the slots that it may lend to (R167). All slots of a core belong to one partition. -/
def lendOrder (n : Nat) : List Nat := (List.range 16).map fun i => (n + i) % 16

/-- Tries slots in order until one issues; answers which did. An arrival that is to be made takes the supervisor slot's issue (R183). -/
def issueFrom (c : Nat) : List Nat → State → Host.Outcome (State × Option Nat) Fault Refusal
  | [], s => .next (s, none)
  | k :: rest, s =>
    if ! s.tryable c k then issueFrom c rest s
    else if k = 15 ∧ (s.coreAt c).arriving = true then .next (s.arrivalMade c, some k)
    else
      match issueSlot c k s with
      | .next t => if (t.slotAt c k).occupied && (t.slotAt c k).wait != .none then issueFrom c rest t else .next (t, some k)
      | .fault r => .fault r
      | .refused r => .refused r

/-- Kills and stops that strands await take effect at their boundaries, and strands of an aborted launch end (R158, R368, R380). -/
def State.atBoundaries (s : State) (c : Nat) : State :=
  (s.coreAt c).slots.foldl
    (fun t e =>
      let x := t.slotAt c e.1
      if x.inHost then t
      else
        let t := if x.kill.isSome then t.reap c e.1 else if t.orphaned c x then t.discard c e.1 false else t
        if x.stopReq then t.takeStop c e.1 else t)
    s

/-- The visit of slot `k`: a vacant slot takes a strand (R176), and a slot after YIELD passes a visit (R284). -/
def State.visit (s : State) (c k : Nat) : State :=
  let x := s.slotAt c k
  if x.free then s.slotPop c k
  else if 0 < x.yielded then s.modSlot c k fun x => { x with yielded := x.yielded - 1 }
  else s

/-- The class of a visit (Table 11.8): `was` is the slot as the visit found it. -/
def State.countVisit (s : State) (c k : Nat) (was : Slot) (issued : Option Nat) : State :=
  s.modSlot c k fun x =>
    if issued = some k then { x with lossI := x.lossI + 1 }
    else if ! was.occupied || was.stopped || (k == 15 && (s.coreAt c).halted) then { x with lossV := x.lossV + 1 }
    else if x.wait = .message then { x with lossG := x.lossG + 1 }
    else { x with lossM := x.lossM + 1 }

/-- User slots that are ready in a cycle (Table 11.9). -/
def State.readyUsers (s : State) (c : Nat) : Nat :=
  ((s.coreAt c).slots.filter fun e => decide (e.1 < 15) && s.readySlot c e.1).length

/-- A slot's slice timer after one more cycle (R354). -/
def Slot.tickSlice (x : Slot) (limit : Nat) : Slot :=
  if ! x.occupied ∨ x.restoring ∨ x.expired then x else { x with slice := x.slice + 1, expired := decide (limit ≤ x.slice + 1) }

/-- One cycle passes for a core's slice timers; those that expire become due. -/
def State.tickSlices (s : State) (c : Nat) : State :=
  let co := s.coreAt c
  if co.sliceLen = 0 then s
  else
    co.slots.foldl
      (fun t e =>
        let x := e.2.tickSlice co.sliceEnd
        if 15 ≤ e.1 ∨ x = e.2 then t
        else
          let t := t.setSlot c e.1 x
          if x.expired then t.post (.sliceExpiry c e.1) else t)
      s

/-- The arrival timer (R183). -/
def State.tickFraming (s : State) (c : Nat) : State :=
  let n := (s.coreAt c).framing
  if n = 0 then s
  else
    let s := s.modCore c fun x => { x with framing := n - 1 }
    if n = 1 then s.post (.framingArrival c) else s

/-- An empty core steals at once and then every 256 cycles (R177). -/
def State.tickSteal (s : State) (c : Nat) : State :=
  let co := s.coreAt c
  let now := co.cycle.toNat
  if ! s.isEmptyCore c then (if co.stealAt = 0 then s else s.modCore c fun x => { x with stealAt := 0 })
  else if co.stealAt = 0 ∨ co.stealAt + 256 ≤ now then (s.modCore c fun x => { x with stealAt := now }).post (.steal c)
  else s

/-- The windows that a core's cycle count closes: sampling, loss and histogram samples, and its quad's budget window (R185, R350,
R392). -/
def State.tickWindows (s : State) (c : Nat) : State :=
  let now := (s.coreAt c).cycle.toNat
  let s := if now % 2 ^ 16 = 0 then (s.post (.samplingWindow c)).post (.traceLossSample c) else s
  let s := if now % 2 ^ 20 = 0 then s.post (.traceReadyHistogram c) else s
  if c % 4 = 0 ∧ now % 4096 = 0 then s.post (.budgetWindow (c / 4)) else s

/-- A cycle is over: what it counts, then the clocks. `n` is the visited slot, `ready` the user slots that were ready. -/
def State.endCycle (s : State) (c n : Nat) (was : Slot) (issued : Option Nat) (ready : Nat) : State :=
  let s := s.countVisit c n was issued
  let s := match issued with
    | some k => s.modSlot c k fun x => { x with issuedInWindow := true }
    | none => s
  let s := s.modCore c fun x => { x with cycle := x.cycle + 1, hist := x.hist.set ready (x.hist.get 0 ready + 1) }
  (((s.tickSlices c).tickFraming c).tickSteal c).tickWindows c

/-- The slot that a core visits in its present cycle (R167). -/
def State.visited (s : State) (c : Nat) : Nat := (s.coreAt c).cycle.toNat % 16

/-- What a cycle does before a strand issues: strands reach boundaries, and the visited slot may take a strand. -/
def State.beginCycle (s : State) (c : Nat) : State := (s.atBoundaries c).visit c (s.visited c)

/-- One cycle of a core (R167); the stops that have taken effect are posted after the traps of the cycle (R364). -/
def coreCycle (c : Nat) (s : State) : Host.Outcome State Fault Refusal :=
  let n := s.visited c
  let was := s.slotAt c n
  let u := s.beginCycle c
  let stops := (List.range 15).filter fun k => (s.slotAt c k).stopReq && ! (u.slotAt c k).stopReq && (u.slotAt c k).stopped
  match issueFrom c (lendOrder n) (u.freeArrival c) with
  | .next (t, issued) => .next ((t.postStops c stops).endCycle c n was issued (u.readyUsers c))
  | .fault r => .fault r
  | .refused r => .refused r

/-! ### Which comes next -/

/-- The dependence tables free the entries whose commands have ended (R291). -/
def State.sweepTables (s : State) : State :=
  s.quads.foldl (fun t q => if q.2.dep.any fun e => e.2.state == .retired then t.sweepDep q.1 else t) s

/-- The cores that are out of reset. -/
def State.upCores (s : State) : List Nat := (s.cores.filter fun c => c.2.up).map (·.1)

/-- The core whose cycle comes next: no order among cores is given (R183), so the choice is free when there are several. -/
def State.nextCore (s : State) (c : Nat) (rest : List Nat) : Nat :=
  match rest with
  | [] => c
  | _ => (c :: rest).getD (Config.pickCore s.tick % (rest.length + 1)) c

/-- Removes the n-th of a list. -/
def dropNth {α : Type} : Nat → List α → List α
  | _, [] => []
  | 0, _ :: rest => rest
  | n + 1, a :: rest => a :: dropNth n rest

/-- The k-th due occurrence is taken. -/
def takeEvent (k : Nat) (s : State) : Host.Outcome State Fault Refusal :=
  match s.events[k]? with
  | none => .next s
  | some e => exec e { s with events := dropNth k s.events }

/-- What comes next: a cycle of a core, or an occurrence that is due; no order is given among them (log 2). With one thing to do, it is
done. -/
def advance (s : State) : Host.Outcome State Fault Refusal :=
  match s.upCores with
  | [] =>
    match s.events with
    | [] => .next s
    | [_] => takeEvent 0 s
    | es => takeEvent (Config.pick s.tick % es.length) s
  | c :: rest =>
    match s.events with
    | [] => coreCycle (s.nextCore c rest) s
    | es =>
      match Config.pick s.tick % (es.length + 1) with
      | 0 => coreCycle (s.nextCore c rest) s
      | k + 1 => takeEvent k s

/-- The state that a step starts from: the tick passes and the tables are swept. -/
def State.beginStep (s : State) : State := { s with tick := s.tick + 1 }.sweepTables

/-! ### The first fetch (the host's placement of an instruction) -/

/-- The page that holds a placed instruction: virtual and physical address 0x10000. -/
def placedAt : Nat := 0x10000

/-- The leaf of that page: V, R, W, X, A, M, class RC (Table 1.5). -/
def placedLeaf : BitVec 64 := BitVec.ofNat 64 (0x10 * 2 ^ 13 + 2 ^ 11 + 2 ^ 10 + 16 + 15)

/-- A region of the first 64 GiB of die 0 that partition 0 owns, over every slice and channel (R56). -/
def placedRegion : BitVec 256 := BitVec.ofNat 256 (1 + 64 * 2 ^ 8 + (2 ^ 64 - 1) * 2 ^ 48 + (2 ^ 128 - 1) * 2 ^ 112)

/-- The state with the bytes of an instruction at the pc of the only strand that the next step can issue (log 30). -/
def State.placeFetch (s : State) (bs : List Byte) : State :=
  let c := s.coreAt 0
  let x := { Slot.vacant with occupied := true, sid := s.serial, pc := BitVec.ofNat 64 placedAt }
  let t : TlbEntry := { asid := 0, part := 0, page := placedAt / 4096, log2 := 12, leaf := placedLeaf }
  let s := { s with
    serial := s.serial + 1
    events := []
    sys := { s.sys with ast := s.sys.ast.set 0 1 }
    dies := s.dies.set 0 { (s.dieAt 0) with regions := (s.dieAt 0).regions.set 0 placedRegion }
    parts := [(0, { s.partAt 0 with exists_ := true, quads := [0], vcnMap := [(0, 0)], stoppedReplay := false })]
    cores := [(0, { c with
      up := true, cycle := 0, framing := 2 ^ 20, vcn := some 0, frozen := false, saving := none, l1tlb := [t], icache := [], l1 := []
      slots := [(0, x)] })] }
  s.storeBytes placedAt ((bs ++ List.replicate 32 0).take 32)

end Sys2Proof.Machine
end

