-- ==== Sys2Proof/Machine/Step.lean ====
section
/-! DEFINITION. One step of the machine, and how the host places an instruction where the next step fetches it. -/

namespace Sys2Proof.Machine

/-- One step: a cycle of a core or a due occurrence (R126, R167, R183). -/
def step (s : State) : Host.Outcome State Fault Refusal := advance s.beginStep

/-- The state with an instruction where `step` fetches next (log 30). -/
def State.withFetchWord (s : State) (nbits w : Nat) : State := s.placeFetch (toBytes 32 (w % 2 ^ nbits))

end Sys2Proof.Machine
end

