-- ==== Sys2Proof/Laws/PerInstr.lean ====
section
/-! SUPPORT. Per instruction: the length field of word 0 says how long the encoding is (R200). -/

namespace Sys2Proof.Laws.Encoding

open Sys2Proof

/-- The length that the fetch path reads in an instruction's word 0 is the length of its encoding (R200). -/
def Statement (i : Instr) : Prop := ∀ w, (encode i).head? = some w → lengthOf w = some (4 * (encode i).length)

theorem length_of_head (len : BitVec 2) (op : BitVec 8) (fn : BitVec 5) (e : Bool) (fd fa fb fc : BitVec 4) (h : len ≠ 3) :
    lengthOf (head len op fn e fd fa fb fc) = some (8 + 4 * len.toNat) := by
  have h2 : (W0.unpack (head len op fn e fd fa fb fc)).len = len := by
    apply BitVec.eq_of_getLsbD_eq
    intro i hi
    simp only [W0.unpack, head, W0.pack, BitVec.getLsbD_extractLsb', hi, decide_true, Bool.true_and, Nat.zero_add]
    exact (BitVec.getLsbD_append ..).trans (by rw [if_pos hi])
  unfold lengthOf
  rw [h2]
  exact if_neg (by simpa using h)

/-- The words of an instruction of two, three or four words. -/
theorem of_words {i : Instr} {len : BitVec 2} {op : BitVec 8} {fn : BitVec 5} {e : Bool} {fd fa fb fc : BitVec 4} {rest : List (BitVec 32)}
    (h : encode i = head len op fn e fd fa fb fc :: rest) (hl : len ≠ 3) (hr : rest.length = len.toNat + 1) : Statement i := by
  intro w hw
  rw [h] at hw ⊢
  cases hw
  rw [length_of_head _ _ _ _ _ _ _ _ hl, List.length_cons, hr]
  congr 1
  omega

/-- An event has no words. -/
theorem of_event {i : Instr} (h : encode i = []) : Statement i := by
  intro w hw
  rw [h] at hw
  cases hw

end Sys2Proof.Laws.Encoding

open Sys2Proof

theorem Sys2Proof.Laws.Encoding.nop (e : Bool) :
    Encoding.Statement (.nop e) :=
  Encoding.of_words rfl (by decide) rfl
theorem Sys2Proof.Laws.Encoding.j (disp : BitVec 32) :
    Encoding.Statement (.j disp) :=
  Encoding.of_words rfl (by decide) rfl
theorem Sys2Proof.Laws.Encoding.jl (rd : GReg) (disp : BitVec 32) :
    Encoding.Statement (.jl rd disp) :=
  Encoding.of_words rfl (by decide) rfl
theorem Sys2Proof.Laws.Encoding.jr (ra : GReg) :
    Encoding.Statement (.jr ra) :=
  Encoding.of_words rfl (by decide) rfl
theorem Sys2Proof.Laws.Encoding.jlr (rd ra : GReg) :
    Encoding.Statement (.jlr rd ra) :=
  Encoding.of_words rfl (by decide) rfl
theorem Sys2Proof.Laws.Encoding.bCc (cc : Cond) (ra rb : GReg) (disp : BitVec 32) :
    Encoding.Statement (.bCc cc ra rb disp) :=
  Encoding.of_words rfl (by decide) rfl
theorem Sys2Proof.Laws.Encoding.biCc (cc : Cond) (ra : GReg) (imm disp : BitVec 32) :
    Encoding.Statement (.biCc cc ra imm disp) :=
  Encoding.of_words rfl (by decide) rfl
theorem Sys2Proof.Laws.Encoding.trap (imm : BitVec 32) :
    Encoding.Statement (.trap imm) :=
  Encoding.of_words rfl (by decide) rfl
theorem Sys2Proof.Laws.Encoding.brk (imm : BitVec 32) :
    Encoding.Statement (.brk imm) :=
  Encoding.of_words rfl (by decide) rfl
theorem Sys2Proof.Laws.Encoding.tret :
    Encoding.Statement .tret :=
  Encoding.of_words rfl (by decide) rfl
theorem Sys2Proof.Laws.Encoding.srd (e : Bool) (rd : GReg) (num : BitVec 12) :
    Encoding.Statement (.srd e rd num) :=
  Encoding.of_words rfl (by decide) rfl
theorem Sys2Proof.Laws.Encoding.swr (e : Bool) (ra : GReg) (num : BitVec 12) :
    Encoding.Statement (.swr e ra num) :=
  Encoding.of_words rfl (by decide) rfl
theorem Sys2Proof.Laws.Encoding.ifence :
    Encoding.Statement .ifence :=
  Encoding.of_words rfl (by decide) rfl
theorem Sys2Proof.Laws.Encoding.sleep (rd : GReg) (imm : BitVec 32) :
    Encoding.Statement (.sleep rd imm) :=
  Encoding.of_words rfl (by decide) rfl
theorem Sys2Proof.Laws.Encoding.xlat (e : Bool) (rd ra : GReg) (disp : BitVec 20) :
    Encoding.Statement (.xlat e rd ra disp) :=
  Encoding.of_words rfl (by decide) rfl
theorem Sys2Proof.Laws.Encoding.rep (n : BitVec 3) (k : BitVec 8) (st : BitVec 4) :
    Encoding.Statement (.rep n k st) :=
  Encoding.of_words rfl (by decide) rfl
theorem Sys2Proof.Laws.Encoding.add (e : Bool) (rd ra rb : GReg) :
    Encoding.Statement (.add e rd ra rb) :=
  Encoding.of_words rfl (by decide) rfl
theorem Sys2Proof.Laws.Encoding.sub (e : Bool) (rd ra rb : GReg) :
    Encoding.Statement (.sub e rd ra rb) :=
  Encoding.of_words rfl (by decide) rfl
theorem Sys2Proof.Laws.Encoding.and (e : Bool) (rd ra rb : GReg) :
    Encoding.Statement (.and e rd ra rb) :=
  Encoding.of_words rfl (by decide) rfl
theorem Sys2Proof.Laws.Encoding.or (e : Bool) (rd ra rb : GReg) :
    Encoding.Statement (.or e rd ra rb) :=
  Encoding.of_words rfl (by decide) rfl
theorem Sys2Proof.Laws.Encoding.xor (e : Bool) (rd ra rb : GReg) :
    Encoding.Statement (.xor e rd ra rb) :=
  Encoding.of_words rfl (by decide) rfl
theorem Sys2Proof.Laws.Encoding.andn (e : Bool) (rd ra rb : GReg) :
    Encoding.Statement (.andn e rd ra rb) :=
  Encoding.of_words rfl (by decide) rfl
theorem Sys2Proof.Laws.Encoding.shl (e : Bool) (rd ra rb : GReg) :
    Encoding.Statement (.shl e rd ra rb) :=
  Encoding.of_words rfl (by decide) rfl
theorem Sys2Proof.Laws.Encoding.shr (e : Bool) (rd ra rb : GReg) :
    Encoding.Statement (.shr e rd ra rb) :=
  Encoding.of_words rfl (by decide) rfl
theorem Sys2Proof.Laws.Encoding.sar (e : Bool) (rd ra rb : GReg) :
    Encoding.Statement (.sar e rd ra rb) :=
  Encoding.of_words rfl (by decide) rfl
theorem Sys2Proof.Laws.Encoding.ror (e : Bool) (rd ra rb : GReg) :
    Encoding.Statement (.ror e rd ra rb) :=
  Encoding.of_words rfl (by decide) rfl
theorem Sys2Proof.Laws.Encoding.min (e : Bool) (rd ra rb : GReg) :
    Encoding.Statement (.min e rd ra rb) :=
  Encoding.of_words rfl (by decide) rfl
theorem Sys2Proof.Laws.Encoding.max (e : Bool) (rd ra rb : GReg) :
    Encoding.Statement (.max e rd ra rb) :=
  Encoding.of_words rfl (by decide) rfl
theorem Sys2Proof.Laws.Encoding.minN (e : Bool) (rd ra rb : GReg) :
    Encoding.Statement (.minN e rd ra rb) :=
  Encoding.of_words rfl (by decide) rfl
theorem Sys2Proof.Laws.Encoding.maxN (e : Bool) (rd ra rb : GReg) :
    Encoding.Statement (.maxN e rd ra rb) :=
  Encoding.of_words rfl (by decide) rfl
theorem Sys2Proof.Laws.Encoding.addi (e : Bool) (rd ra : GReg) (imm : BitVec 32) :
    Encoding.Statement (.addi e rd ra imm) :=
  Encoding.of_words rfl (by decide) rfl
theorem Sys2Proof.Laws.Encoding.subi (e : Bool) (rd ra : GReg) (imm : BitVec 32) :
    Encoding.Statement (.subi e rd ra imm) :=
  Encoding.of_words rfl (by decide) rfl
theorem Sys2Proof.Laws.Encoding.andi (e : Bool) (rd ra : GReg) (imm : BitVec 32) :
    Encoding.Statement (.andi e rd ra imm) :=
  Encoding.of_words rfl (by decide) rfl
theorem Sys2Proof.Laws.Encoding.ori (e : Bool) (rd ra : GReg) (imm : BitVec 32) :
    Encoding.Statement (.ori e rd ra imm) :=
  Encoding.of_words rfl (by decide) rfl
theorem Sys2Proof.Laws.Encoding.xori (e : Bool) (rd ra : GReg) (imm : BitVec 32) :
    Encoding.Statement (.xori e rd ra imm) :=
  Encoding.of_words rfl (by decide) rfl
theorem Sys2Proof.Laws.Encoding.andni (e : Bool) (rd ra : GReg) (imm : BitVec 32) :
    Encoding.Statement (.andni e rd ra imm) :=
  Encoding.of_words rfl (by decide) rfl
theorem Sys2Proof.Laws.Encoding.shli (e : Bool) (rd ra : GReg) (imm : BitVec 32) :
    Encoding.Statement (.shli e rd ra imm) :=
  Encoding.of_words rfl (by decide) rfl
theorem Sys2Proof.Laws.Encoding.shri (e : Bool) (rd ra : GReg) (imm : BitVec 32) :
    Encoding.Statement (.shri e rd ra imm) :=
  Encoding.of_words rfl (by decide) rfl
theorem Sys2Proof.Laws.Encoding.sari (e : Bool) (rd ra : GReg) (imm : BitVec 32) :
    Encoding.Statement (.sari e rd ra imm) :=
  Encoding.of_words rfl (by decide) rfl
theorem Sys2Proof.Laws.Encoding.rori (e : Bool) (rd ra : GReg) (imm : BitVec 32) :
    Encoding.Statement (.rori e rd ra imm) :=
  Encoding.of_words rfl (by decide) rfl
theorem Sys2Proof.Laws.Encoding.mini (e : Bool) (rd ra : GReg) (imm : BitVec 32) :
    Encoding.Statement (.mini e rd ra imm) :=
  Encoding.of_words rfl (by decide) rfl
theorem Sys2Proof.Laws.Encoding.maxi (e : Bool) (rd ra : GReg) (imm : BitVec 32) :
    Encoding.Statement (.maxi e rd ra imm) :=
  Encoding.of_words rfl (by decide) rfl
theorem Sys2Proof.Laws.Encoding.miniN (e : Bool) (rd ra : GReg) (imm : BitVec 32) :
    Encoding.Statement (.miniN e rd ra imm) :=
  Encoding.of_words rfl (by decide) rfl
theorem Sys2Proof.Laws.Encoding.maxiN (e : Bool) (rd ra : GReg) (imm : BitVec 32) :
    Encoding.Statement (.maxiN e rd ra imm) :=
  Encoding.of_words rfl (by decide) rfl
theorem Sys2Proof.Laws.Encoding.mul (e : Bool) (rd ra rb : GReg) :
    Encoding.Statement (.mul e rd ra rb) :=
  Encoding.of_words rfl (by decide) rfl
theorem Sys2Proof.Laws.Encoding.mulh (e : Bool) (rd ra rb : GReg) :
    Encoding.Statement (.mulh e rd ra rb) :=
  Encoding.of_words rfl (by decide) rfl
theorem Sys2Proof.Laws.Encoding.mulhN (e : Bool) (rd ra rb : GReg) :
    Encoding.Statement (.mulhN e rd ra rb) :=
  Encoding.of_words rfl (by decide) rfl
theorem Sys2Proof.Laws.Encoding.div (e : Bool) (rd ra rb : GReg) :
    Encoding.Statement (.div e rd ra rb) :=
  Encoding.of_words rfl (by decide) rfl
theorem Sys2Proof.Laws.Encoding.divN (e : Bool) (rd ra rb : GReg) :
    Encoding.Statement (.divN e rd ra rb) :=
  Encoding.of_words rfl (by decide) rfl
theorem Sys2Proof.Laws.Encoding.rem (e : Bool) (rd ra rb : GReg) :
    Encoding.Statement (.rem e rd ra rb) :=
  Encoding.of_words rfl (by decide) rfl
theorem Sys2Proof.Laws.Encoding.remN (e : Bool) (rd ra rb : GReg) :
    Encoding.Statement (.remN e rd ra rb) :=
  Encoding.of_words rfl (by decide) rfl
theorem Sys2Proof.Laws.Encoding.muli (e : Bool) (rd ra : GReg) (imm : BitVec 32) :
    Encoding.Statement (.muli e rd ra imm) :=
  Encoding.of_words rfl (by decide) rfl
theorem Sys2Proof.Laws.Encoding.clz (e : Bool) (rd ra : GReg) :
    Encoding.Statement (.clz e rd ra) :=
  Encoding.of_words rfl (by decide) rfl
theorem Sys2Proof.Laws.Encoding.ctz (e : Bool) (rd ra : GReg) :
    Encoding.Statement (.ctz e rd ra) :=
  Encoding.of_words rfl (by decide) rfl
theorem Sys2Proof.Laws.Encoding.popc (e : Bool) (rd ra : GReg) :
    Encoding.Statement (.popc e rd ra) :=
  Encoding.of_words rfl (by decide) rfl
theorem Sys2Proof.Laws.Encoding.brev (e : Bool) (rd ra : GReg) :
    Encoding.Statement (.brev e rd ra) :=
  Encoding.of_words rfl (by decide) rfl
theorem Sys2Proof.Laws.Encoding.bswap (e : Bool) (rd ra : GReg) :
    Encoding.Statement (.bswap e rd ra) :=
  Encoding.of_words rfl (by decide) rfl
theorem Sys2Proof.Laws.Encoding.ext (e : Bool) (rd ra : GReg) (signed : Bool) (w1 lo : BitVec 6) :
    Encoding.Statement (.ext e rd ra signed w1 lo) :=
  Encoding.of_words rfl (by decide) rfl
theorem Sys2Proof.Laws.Encoding.ins (e : Bool) (rd ra : GReg) (w1 lo : BitVec 6) :
    Encoding.Statement (.ins e rd ra w1 lo) :=
  Encoding.of_words rfl (by decide) rfl
theorem Sys2Proof.Laws.Encoding.setCc (e : Bool) (cc : Cond) (rd ra rb : GReg) :
    Encoding.Statement (.setCc e cc rd ra rb) :=
  Encoding.of_words rfl (by decide) rfl
theorem Sys2Proof.Laws.Encoding.setiCc (e : Bool) (cc : Cond) (rd ra : GReg) (imm : BitVec 32) :
    Encoding.Statement (.setiCc e cc rd ra imm) :=
  Encoding.of_words rfl (by decide) rfl
theorem Sys2Proof.Laws.Encoding.sel (e : Bool) (rd ra rb rc : GReg) :
    Encoding.Statement (.sel e rd ra rb rc) :=
  Encoding.of_words rfl (by decide) rfl
theorem Sys2Proof.Laws.Encoding.movi (e : Bool) (rd : GReg) (imm : Word) :
    Encoding.Statement (.movi e rd imm) :=
  Encoding.of_words rfl (by decide) rfl
theorem Sys2Proof.Laws.Encoding.addsh (e : Bool) (rd ra rb : GReg) (sh : BitVec 6) :
    Encoding.Statement (.addsh e rd ra rb sh) :=
  Encoding.of_words rfl (by decide) rfl
theorem Sys2Proof.Laws.Encoding.addpc (e : Bool) (rd : GReg) (imm : BitVec 32) :
    Encoding.Statement (.addpc e rd imm) :=
  Encoding.of_words rfl (by decide) rfl
theorem Sys2Proof.Laws.Encoding.ld (e : Bool) (rd ra : GReg) (m : MForm) :
    Encoding.Statement (.ld e rd ra m) :=
  Encoding.of_words rfl (by decide) rfl
theorem Sys2Proof.Laws.Encoding.st (e : Bool) (ra rc : GReg) (m : MForm) :
    Encoding.Statement (.st e ra rc m) :=
  Encoding.of_words rfl (by decide) rfl
theorem Sys2Proof.Laws.Encoding.ldx (e : Bool) (rd ra rb : GReg) (m : MForm) :
    Encoding.Statement (.ldx e rd ra rb m) :=
  Encoding.of_words rfl (by decide) rfl
theorem Sys2Proof.Laws.Encoding.stx (e : Bool) (ra rb rc : GReg) (m : MForm) :
    Encoding.Statement (.stx e ra rb rc m) :=
  Encoding.of_words rfl (by decide) rfl
theorem Sys2Proof.Laws.Encoding.bld (e : Bool) (rd ra rb : GReg) (m : MForm) :
    Encoding.Statement (.bld e rd ra rb m) :=
  Encoding.of_words rfl (by decide) rfl
theorem Sys2Proof.Laws.Encoding.bst (e : Bool) (ra rb rc : GReg) (m : MForm) :
    Encoding.Statement (.bst e ra rb rc m) :=
  Encoding.of_words rfl (by decide) rfl
theorem Sys2Proof.Laws.Encoding.pf (ra : GReg) (m : MForm) :
    Encoding.Statement (.pf ra m) :=
  Encoding.of_words rfl (by decide) rfl
theorem Sys2Proof.Laws.Encoding.cwb (ra : GReg) (m : MForm) :
    Encoding.Statement (.cwb ra m) :=
  Encoding.of_words rfl (by decide) rfl
theorem Sys2Proof.Laws.Encoding.cinv (ra : GReg) (m : MForm) :
    Encoding.Statement (.cinv ra m) :=
  Encoding.of_words rfl (by decide) rfl
theorem Sys2Proof.Laws.Encoding.fence (kinds : BitVec 4) (scope : Scope) :
    Encoding.Statement (.fence kinds scope) :=
  Encoding.of_words rfl (by decide) rfl
theorem Sys2Proof.Laws.Encoding.wosc :
    Encoding.Statement .wosc :=
  Encoding.of_words rfl (by decide) rfl
theorem Sys2Proof.Laws.Encoding.amo (e : Bool) (op : AmoOp) (rd ra rc : GReg) (m : MForm) :
    Encoding.Statement (.amo e op rd ra rc m) :=
  Encoding.of_words rfl (by decide) rfl
theorem Sys2Proof.Laws.Encoding.cas (e : Bool) (rd ra rb rc : GReg) (m : MForm) :
    Encoding.Statement (.cas e rd ra rb rc m) :=
  Encoding.of_words rfl (by decide) rfl
theorem Sys2Proof.Laws.Encoding.red (e : Bool) (op : RedOp) (ra rc : GReg) (m : MForm) :
    Encoding.Statement (.red e op ra rc m) :=
  Encoding.of_words rfl (by decide) rfl
theorem Sys2Proof.Laws.Encoding.binit (ra rb : GReg) (m : MForm) :
    Encoding.Statement (.binit ra rb m) :=
  Encoding.of_words rfl (by decide) rfl
theorem Sys2Proof.Laws.Encoding.barr (rd ra : GReg) (m : MForm) :
    Encoding.Statement (.barr rd ra m) :=
  Encoding.of_words rfl (by decide) rfl
theorem Sys2Proof.Laws.Encoding.bexp (ra rc : GReg) (m : MForm) :
    Encoding.Statement (.bexp ra rc m) :=
  Encoding.of_words rfl (by decide) rfl
theorem Sys2Proof.Laws.Encoding.bwait (rd ra rb : GReg) (m : MForm) :
    Encoding.Statement (.bwait rd ra rb m) :=
  Encoding.of_words rfl (by decide) rfl
theorem Sys2Proof.Laws.Encoding.btest (rd ra rb : GReg) (m : MForm) :
    Encoding.Statement (.btest rd ra rb m) :=
  Encoding.of_words rfl (by decide) rfl
theorem Sys2Proof.Laws.Encoding.nbar (rd : GReg) (level : Scope) (group : BitVec 8) :
    Encoding.Statement (.nbar rd level group) :=
  Encoding.of_words rfl (by decide) rfl
theorem Sys2Proof.Laws.Encoding.arm (ra rb rc : GReg) (m : MForm) :
    Encoding.Statement (.arm ra rb rc m) :=
  Encoding.of_words rfl (by decide) rfl
theorem Sys2Proof.Laws.Encoding.cpy (rd ra rb rc : GReg) (c : CForm) :
    Encoding.Statement (.cpy rd ra rb rc c) :=
  Encoding.of_words rfl (by decide) rfl
theorem Sys2Proof.Laws.Encoding.cpy2 (rd ra rb rc : GReg) (c : CForm) :
    Encoding.Statement (.cpy2 rd ra rb rc c) :=
  Encoding.of_words rfl (by decide) rfl
theorem Sys2Proof.Laws.Encoding.cpym (rd ra rb rc : GReg) (c : CForm) :
    Encoding.Statement (.cpym rd ra rb rc c) :=
  Encoding.of_words rfl (by decide) rfl
theorem Sys2Proof.Laws.Encoding.cpyq (rd : GReg) (q : QReg) (rb rc : GReg) (c : CForm) :
    Encoding.Statement (.cpyq rd q rb rc c) :=
  Encoding.of_words rfl (by decide) rfl
theorem Sys2Proof.Laws.Encoding.qcfg (q : QReg) (ra : GReg) :
    Encoding.Statement (.qcfg q ra) :=
  Encoding.of_words rfl (by decide) rfl
theorem Sys2Proof.Laws.Encoding.qpush (q : QReg) (ra : GReg) :
    Encoding.Statement (.qpush q ra) :=
  Encoding.of_words rfl (by decide) rfl
theorem Sys2Proof.Laws.Encoding.qpop (q : QReg) (ra : GReg) :
    Encoding.Statement (.qpop q ra) :=
  Encoding.of_words rfl (by decide) rfl
theorem Sys2Proof.Laws.Encoding.qstat (rd : GReg) (q : QReg) :
    Encoding.Statement (.qstat rd q) :=
  Encoding.of_words rfl (by decide) rfl
theorem Sys2Proof.Laws.Encoding.isub (rd ra rb : GReg) (q : QReg) (c : CForm) :
    Encoding.Statement (.isub rd ra rb q c) :=
  Encoding.of_words rfl (by decide) rfl
theorem Sys2Proof.Laws.Encoding.osub (rd ra rb : GReg) (q : QReg) (c : CForm) :
    Encoding.Statement (.osub rd ra rb q c) :=
  Encoding.of_words rfl (by decide) rfl
theorem Sys2Proof.Laws.Encoding.unsub (rd : GReg) :
    Encoding.Statement (.unsub rd) :=
  Encoding.of_words rfl (by decide) rfl
theorem Sys2Proof.Laws.Encoding.cpyres (rd ra : GReg) :
    Encoding.Statement (.cpyres rd ra) :=
  Encoding.of_words rfl (by decide) rfl
theorem Sys2Proof.Laws.Encoding.fork (ra rb rc : GReg) (disp : BitVec 32) :
    Encoding.Statement (.fork ra rb rc disp) :=
  Encoding.of_words rfl (by decide) rfl
theorem Sys2Proof.Laws.Encoding.spawn (ra rb : GReg) :
    Encoding.Statement (.spawn ra rb) :=
  Encoding.of_words rfl (by decide) rfl
theorem Sys2Proof.Laws.Encoding.gang (ra : GReg) :
    Encoding.Statement (.gang ra) :=
  Encoding.of_words rfl (by decide) rfl
theorem Sys2Proof.Laws.Encoding.join (ra : GReg) (m : MForm) :
    Encoding.Statement (.join ra m) :=
  Encoding.of_words rfl (by decide) rfl
theorem Sys2Proof.Laws.Encoding.jdec (ra : GReg) (m : MForm) :
    Encoding.Statement (.jdec ra m) :=
  Encoding.of_words rfl (by decide) rfl
theorem Sys2Proof.Laws.Encoding.exit :
    Encoding.Statement .exit :=
  Encoding.of_words rfl (by decide) rfl
theorem Sys2Proof.Laws.Encoding.yield :
    Encoding.Statement .yield :=
  Encoding.of_words rfl (by decide) rfl
theorem Sys2Proof.Laws.Encoding.migr (ra : GReg) :
    Encoding.Statement (.migr ra) :=
  Encoding.of_words rfl (by decide) rfl
theorem Sys2Proof.Laws.Encoding.pin :
    Encoding.Statement .pin :=
  Encoding.of_words rfl (by decide) rfl
theorem Sys2Proof.Laws.Encoding.unpin :
    Encoding.Statement .unpin :=
  Encoding.of_words rfl (by decide) rfl
theorem Sys2Proof.Laws.Encoding.taskr (rd ra rb rc : GReg) (c : CForm) :
    Encoding.Statement (.taskr rd ra rb rc c) :=
  Encoding.of_words rfl (by decide) rfl
theorem Sys2Proof.Laws.Encoding.tasks (rd ra rb : GReg) (y x : BitVec 8) :
    Encoding.Statement (.tasks rd ra rb y x) :=
  Encoding.of_words rfl (by decide) rfl
theorem Sys2Proof.Laws.Encoding.tdone (ra : GReg) :
    Encoding.Statement (.tdone ra) :=
  Encoding.of_words rfl (by decide) rfl
theorem Sys2Proof.Laws.Encoding.chan (rd ra rb : GReg) (esize : BitVec 3) (ldepth : BitVec 4) :
    Encoding.Statement (.chan rd ra rb esize ldepth) :=
  Encoding.of_words rfl (by decide) rfl
theorem Sys2Proof.Laws.Encoding.snd (rd ra rc : GReg) :
    Encoding.Statement (.snd rd ra rc) :=
  Encoding.of_words rfl (by decide) rfl
theorem Sys2Proof.Laws.Encoding.sndb (rd ra rc : GReg) :
    Encoding.Statement (.sndb rd ra rc) :=
  Encoding.of_words rfl (by decide) rfl
theorem Sys2Proof.Laws.Encoding.sndj (rd ra rc : GReg) :
    Encoding.Statement (.sndj rd ra rc) :=
  Encoding.of_words rfl (by decide) rfl
theorem Sys2Proof.Laws.Encoding.rcv (rd ra rb rc : GReg) :
    Encoding.Statement (.rcv rd ra rb rc) :=
  Encoding.of_words rfl (by decide) rfl
theorem Sys2Proof.Laws.Encoding.trcv (rd ra rb rc : GReg) :
    Encoding.Statement (.trcv rd ra rb rc) :=
  Encoding.of_words rfl (by decide) rfl
theorem Sys2Proof.Laws.Encoding.close (ra : GReg) :
    Encoding.Statement (.close ra) :=
  Encoding.of_words rfl (by decide) rfl
theorem Sys2Proof.Laws.Encoding.dropj (ra : GReg) :
    Encoding.Statement (.dropj ra) :=
  Encoding.of_words rfl (by decide) rfl
theorem Sys2Proof.Laws.Encoding.movj (rd ra : GReg) :
    Encoding.Statement (.movj rd ra) :=
  Encoding.of_words rfl (by decide) rfl
theorem Sys2Proof.Laws.Encoding.jkind (rd ra : GReg) :
    Encoding.Statement (.jkind rd ra) :=
  Encoding.of_words rfl (by decide) rfl
theorem Sys2Proof.Laws.Encoding.grant (rd : GReg) (stream : BitVec 2) (index : BitVec 6) :
    Encoding.Statement (.grant rd stream index) :=
  Encoding.of_words rfl (by decide) rfl
theorem Sys2Proof.Laws.Encoding.gdup (rd ra : GReg) :
    Encoding.Statement (.gdup rd ra) :=
  Encoding.of_words rfl (by decide) rfl
theorem Sys2Proof.Laws.Encoding.mcmd (rd ra rb : GReg) (t : TForm) :
    Encoding.Statement (.mcmd rd ra rb t) :=
  Encoding.of_words rfl (by decide) rfl
theorem Sys2Proof.Laws.Encoding.lnch (rd ra rb : GReg) (disp : BitVec 20) :
    Encoding.Statement (.lnch rd ra rb disp) :=
  Encoding.of_words rfl (by decide) rfl
theorem Sys2Proof.Laws.Encoding.lwait (rd ra : GReg) :
    Encoding.Statement (.lwait rd ra) :=
  Encoding.of_words rfl (by decide) rfl
theorem Sys2Proof.Laws.Encoding.labrt (ra : GReg) :
    Encoding.Statement (.labrt ra) :=
  Encoding.of_words rfl (by decide) rfl
theorem Sys2Proof.Laws.Encoding.vld (e : Bool) (vd : VReg) (ra : GReg) (v : VForm) :
    Encoding.Statement (.vld e vd ra v) :=
  Encoding.of_words rfl (by decide) rfl
theorem Sys2Proof.Laws.Encoding.vldRing (e : Bool) (vd : VReg) (q : QReg) (v : VForm) :
    Encoding.Statement (.vldRing e vd q v) :=
  Encoding.of_words rfl (by decide) rfl
theorem Sys2Proof.Laws.Encoding.vst (ra : GReg) (vc : VReg) (v : VForm) :
    Encoding.Statement (.vst ra vc v) :=
  Encoding.of_words rfl (by decide) rfl
theorem Sys2Proof.Laws.Encoding.vstRing (q : QReg) (vc : VReg) (v : VForm) :
    Encoding.Statement (.vstRing q vc v) :=
  Encoding.of_words rfl (by decide) rfl
theorem Sys2Proof.Laws.Encoding.vldg (e : Bool) (vd : VReg) (ra : GReg) (vb : VReg) (v : VForm) :
    Encoding.Statement (.vldg e vd ra vb v) :=
  Encoding.of_words rfl (by decide) rfl
theorem Sys2Proof.Laws.Encoding.vsts (ra : GReg) (vb vc : VReg) (v : VForm) :
    Encoding.Statement (.vsts ra vb vc v) :=
  Encoding.of_words rfl (by decide) rfl
theorem Sys2Proof.Laws.Encoding.vadd (vd va vb : VReg) (v : VForm) :
    Encoding.Statement (.vadd vd va vb v) :=
  Encoding.of_words rfl (by decide) rfl
theorem Sys2Proof.Laws.Encoding.vsub (vd va vb : VReg) (v : VForm) :
    Encoding.Statement (.vsub vd va vb v) :=
  Encoding.of_words rfl (by decide) rfl
theorem Sys2Proof.Laws.Encoding.vmul (vd va vb : VReg) (v : VForm) :
    Encoding.Statement (.vmul vd va vb v) :=
  Encoding.of_words rfl (by decide) rfl
theorem Sys2Proof.Laws.Encoding.vand (vd va vb : VReg) (v : VForm) :
    Encoding.Statement (.vand vd va vb v) :=
  Encoding.of_words rfl (by decide) rfl
theorem Sys2Proof.Laws.Encoding.vor (vd va vb : VReg) (v : VForm) :
    Encoding.Statement (.vor vd va vb v) :=
  Encoding.of_words rfl (by decide) rfl
theorem Sys2Proof.Laws.Encoding.vxor (vd va vb : VReg) (v : VForm) :
    Encoding.Statement (.vxor vd va vb v) :=
  Encoding.of_words rfl (by decide) rfl
theorem Sys2Proof.Laws.Encoding.vshl (vd va vb : VReg) (v : VForm) :
    Encoding.Statement (.vshl vd va vb v) :=
  Encoding.of_words rfl (by decide) rfl
theorem Sys2Proof.Laws.Encoding.vshr (vd va vb : VReg) (v : VForm) :
    Encoding.Statement (.vshr vd va vb v) :=
  Encoding.of_words rfl (by decide) rfl
theorem Sys2Proof.Laws.Encoding.vsar (vd va vb : VReg) (v : VForm) :
    Encoding.Statement (.vsar vd va vb v) :=
  Encoding.of_words rfl (by decide) rfl
theorem Sys2Proof.Laws.Encoding.vmin (vd va vb : VReg) (v : VForm) :
    Encoding.Statement (.vmin vd va vb v) :=
  Encoding.of_words rfl (by decide) rfl
theorem Sys2Proof.Laws.Encoding.vmax (vd va vb : VReg) (v : VForm) :
    Encoding.Statement (.vmax vd va vb v) :=
  Encoding.of_words rfl (by decide) rfl
theorem Sys2Proof.Laws.Encoding.vminN (vd va vb : VReg) (v : VForm) :
    Encoding.Statement (.vminN vd va vb v) :=
  Encoding.of_words rfl (by decide) rfl
theorem Sys2Proof.Laws.Encoding.vmaxN (vd va vb : VReg) (v : VForm) :
    Encoding.Statement (.vmaxN vd va vb v) :=
  Encoding.of_words rfl (by decide) rfl
theorem Sys2Proof.Laws.Encoding.vfadd (vd va vb : VReg) (v : VForm) :
    Encoding.Statement (.vfadd vd va vb v) :=
  Encoding.of_words rfl (by decide) rfl
theorem Sys2Proof.Laws.Encoding.vfsub (vd va vb : VReg) (v : VForm) :
    Encoding.Statement (.vfsub vd va vb v) :=
  Encoding.of_words rfl (by decide) rfl
theorem Sys2Proof.Laws.Encoding.vfmul (vd va vb : VReg) (v : VForm) :
    Encoding.Statement (.vfmul vd va vb v) :=
  Encoding.of_words rfl (by decide) rfl
theorem Sys2Proof.Laws.Encoding.vfmin (vd va vb : VReg) (v : VForm) :
    Encoding.Statement (.vfmin vd va vb v) :=
  Encoding.of_words rfl (by decide) rfl
theorem Sys2Proof.Laws.Encoding.vfmax (vd va vb : VReg) (v : VForm) :
    Encoding.Statement (.vfmax vd va vb v) :=
  Encoding.of_words rfl (by decide) rfl
theorem Sys2Proof.Laws.Encoding.vfdiv (vd va vb : VReg) (v : VForm) :
    Encoding.Statement (.vfdiv vd va vb v) :=
  Encoding.of_words rfl (by decide) rfl
theorem Sys2Proof.Laws.Encoding.vfsqrt (vd va : VReg) (v : VForm) :
    Encoding.Statement (.vfsqrt vd va v) :=
  Encoding.of_words rfl (by decide) rfl
theorem Sys2Proof.Laws.Encoding.vfrcp (vd va : VReg) (v : VForm) :
    Encoding.Statement (.vfrcp vd va v) :=
  Encoding.of_words rfl (by decide) rfl
theorem Sys2Proof.Laws.Encoding.vfrsq (vd va : VReg) (v : VForm) :
    Encoding.Statement (.vfrsq vd va v) :=
  Encoding.of_words rfl (by decide) rfl
theorem Sys2Proof.Laws.Encoding.vfma (vd va vb vc : VReg) (v : VForm) :
    Encoding.Statement (.vfma vd va vb vc v) :=
  Encoding.of_words rfl (by decide) rfl
theorem Sys2Proof.Laws.Encoding.vfms (vd va vb vc : VReg) (v : VForm) :
    Encoding.Statement (.vfms vd va vb vc v) :=
  Encoding.of_words rfl (by decide) rfl
theorem Sys2Proof.Laws.Encoding.vfnma (vd va vb vc : VReg) (v : VForm) :
    Encoding.Statement (.vfnma vd va vb vc v) :=
  Encoding.of_words rfl (by decide) rfl
theorem Sys2Proof.Laws.Encoding.vcvt (vd va : VReg) (v : VForm) :
    Encoding.Statement (.vcvt vd va v) :=
  Encoding.of_words rfl (by decide) rfl
theorem Sys2Proof.Laws.Encoding.vcmpCc (cc : Cond) (md : MReg) (va vb : VReg) (v : VForm) :
    Encoding.Statement (.vcmpCc cc md va vb v) :=
  Encoding.of_words rfl (by decide) rfl
theorem Sys2Proof.Laws.Encoding.vsel (vd va vb : VReg) (mc : MReg) (v : VForm) :
    Encoding.Statement (.vsel vd va vb mc v) :=
  Encoding.of_words rfl (by decide) rfl
theorem Sys2Proof.Laws.Encoding.vperm (vd va vb : VReg) (v : VForm) :
    Encoding.Statement (.vperm vd va vb v) :=
  Encoding.of_words rfl (by decide) rfl
theorem Sys2Proof.Laws.Encoding.vbc (vd : VReg) (ra : GReg) (v : VForm) :
    Encoding.Statement (.vbc vd ra v) :=
  Encoding.of_words rfl (by decide) rfl
theorem Sys2Proof.Laws.Encoding.vmvgToG (e : Bool) (rd : GReg) (va : VReg) (v : VForm) :
    Encoding.Statement (.vmvgToG e rd va v) :=
  Encoding.of_words rfl (by decide) rfl
theorem Sys2Proof.Laws.Encoding.vmvgToV (e : Bool) (vd : VReg) (ra : GReg) (v : VForm) :
    Encoding.Statement (.vmvgToV e vd ra v) :=
  Encoding.of_words rfl (by decide) rfl
theorem Sys2Proof.Laws.Encoding.vred (e : Bool) (op : VredOp) (vd va : VReg) (v : VForm) :
    Encoding.Statement (.vred e op vd va v) :=
  Encoding.of_words rfl (by decide) rfl
theorem Sys2Proof.Laws.Encoding.vhad (vd va : VReg) (rb rc : GReg) (v : VForm) :
    Encoding.Statement (.vhad vd va rb rc v) :=
  Encoding.of_words rfl (by decide) rfl
theorem Sys2Proof.Laws.Encoding.qnt (vd va : VReg) (rb : GReg) (v : VForm) :
    Encoding.Statement (.qnt vd va rb v) :=
  Encoding.of_words rfl (by decide) rfl
theorem Sys2Proof.Laws.Encoding.mand (md ma mb : MReg) :
    Encoding.Statement (.mand md ma mb) :=
  Encoding.of_words rfl (by decide) rfl
theorem Sys2Proof.Laws.Encoding.mor (md ma mb : MReg) :
    Encoding.Statement (.mor md ma mb) :=
  Encoding.of_words rfl (by decide) rfl
theorem Sys2Proof.Laws.Encoding.mxor (md ma mb : MReg) :
    Encoding.Statement (.mxor md ma mb) :=
  Encoding.of_words rfl (by decide) rfl
theorem Sys2Proof.Laws.Encoding.mnot (md ma : MReg) :
    Encoding.Statement (.mnot md ma) :=
  Encoding.of_words rfl (by decide) rfl
theorem Sys2Proof.Laws.Encoding.mpop (rd : GReg) (ma : MReg) :
    Encoding.Statement (.mpop rd ma) :=
  Encoding.of_words rfl (by decide) rfl
theorem Sys2Proof.Laws.Encoding.mset (md : MReg) (ra : GReg) :
    Encoding.Statement (.mset md ra) :=
  Encoding.of_words rfl (by decide) rfl
theorem Sys2Proof.Laws.Encoding.vrel :
    Encoding.Statement .vrel :=
  Encoding.of_words rfl (by decide) rfl
theorem Sys2Proof.Laws.Encoding.dfrom (dd : DReg) (va vb : VReg) (v : VForm) :
    Encoding.Statement (.dfrom dd va vb v) :=
  Encoding.of_words rfl (by decide) rfl
theorem Sys2Proof.Laws.Encoding.dld (e : Bool) (dd : DReg) (ra rb : GReg) (v : VForm) :
    Encoding.Statement (.dld e dd ra rb v) :=
  Encoding.of_words rfl (by decide) rfl
theorem Sys2Proof.Laws.Encoding.dst (ra : GReg) (dc : DReg) (v : VForm) :
    Encoding.Statement (.dst ra dc v) :=
  Encoding.of_words rfl (by decide) rfl
theorem Sys2Proof.Laws.Encoding.dadd (dd da db : DReg) :
    Encoding.Statement (.dadd dd da db) :=
  Encoding.of_words rfl (by decide) rfl
theorem Sys2Proof.Laws.Encoding.dsub (dd da db : DReg) :
    Encoding.Statement (.dsub dd da db) :=
  Encoding.of_words rfl (by decide) rfl
theorem Sys2Proof.Laws.Encoding.dmul (dd da db : DReg) :
    Encoding.Statement (.dmul dd da db) :=
  Encoding.of_words rfl (by decide) rfl
theorem Sys2Proof.Laws.Encoding.dmax (dd da db : DReg) :
    Encoding.Statement (.dmax dd da db) :=
  Encoding.of_words rfl (by decide) rfl
theorem Sys2Proof.Laws.Encoding.dmin (dd da db : DReg) :
    Encoding.Statement (.dmin dd da db) :=
  Encoding.of_words rfl (by decide) rfl
theorem Sys2Proof.Laws.Encoding.daff (dd da : DReg) (rb : GReg) :
    Encoding.Statement (.daff dd da rb) :=
  Encoding.of_words rfl (by decide) rfl
theorem Sys2Proof.Laws.Encoding.dmom (e : Bool) (vd : VReg) (da : DReg) (v : VForm) :
    Encoding.Statement (.dmom e vd da v) :=
  Encoding.of_words rfl (by decide) rfl
theorem Sys2Proof.Laws.Encoding.dqnt (e : Bool) (vd : VReg) (da : DReg) (v : VForm) :
    Encoding.Statement (.dqnt e vd da v) :=
  Encoding.of_words rfl (by decide) rfl
theorem Sys2Proof.Laws.Encoding.dlinSet (dd : DReg) (lin : BitVec 16) :
    Encoding.Statement (.dlinSet dd lin) :=
  Encoding.of_words rfl (by decide) rfl
theorem Sys2Proof.Laws.Encoding.dlinGet (rd : GReg) (da : DReg) :
    Encoding.Statement (.dlinGet rd da) :=
  Encoding.of_words rfl (by decide) rfl
theorem Sys2Proof.Laws.Encoding.tdset (ra : GReg) (t : TReg) :
    Encoding.Statement (.tdset ra t) :=
  Encoding.of_words rfl (by decide) rfl
theorem Sys2Proof.Laws.Encoding.tdget (ra : GReg) (t : TReg) :
    Encoding.Statement (.tdget ra t) :=
  Encoding.of_words rfl (by decide) rfl
theorem Sys2Proof.Laws.Encoding.lsta (rd : GReg) (t : TForm) :
    Encoding.Statement (.lsta rd t) :=
  Encoding.of_words rfl (by decide) rfl
theorem Sys2Proof.Laws.Encoding.mswap :
    Encoding.Statement .mswap :=
  Encoding.of_words rfl (by decide) rfl
theorem Sys2Proof.Laws.Encoding.mstrm (rd : GReg) (t : TForm) :
    Encoding.Statement (.mstrm rd t) :=
  Encoding.of_words rfl (by decide) rfl
theorem Sys2Proof.Laws.Encoding.mstrmRing (rd : GReg) (q : QReg) (t : TForm) :
    Encoding.Statement (.mstrmRing rd q t) :=
  Encoding.of_words rfl (by decide) rfl
theorem Sys2Proof.Laws.Encoding.mout (rd : GReg) (clear : Bool) (t : TForm) :
    Encoding.Statement (.mout rd clear t) :=
  Encoding.of_words rfl (by decide) rfl
theorem Sys2Proof.Laws.Encoding.moutRing (rd : GReg) (q : QReg) (clear : Bool) (t : TForm) :
    Encoding.Statement (.moutRing rd q clear t) :=
  Encoding.of_words rfl (by decide) rfl
theorem Sys2Proof.Laws.Encoding.mzero (rd : GReg) (t : TForm) :
    Encoding.Statement (.mzero rd t) :=
  Encoding.of_words rfl (by decide) rfl
theorem Sys2Proof.Laws.Encoding.mstat (e : Bool) (rd : GReg) :
    Encoding.Statement (.mstat e rd) :=
  Encoding.of_words rfl (by decide) rfl
theorem Sys2Proof.Laws.Encoding.shootdownAcknowledge (part : Nat) :
    Encoding.Statement (.shootdownAcknowledge part) :=
  Encoding.of_event rfl
theorem Sys2Proof.Laws.Encoding.atomicAtHome (r : AtomicReq) :
    Encoding.Statement (.atomicAtHome r) :=
  Encoding.of_event rfl
theorem Sys2Proof.Laws.Encoding.redAtHome (r : RedReq) :
    Encoding.Statement (.redAtHome r) :=
  Encoding.of_event rfl
theorem Sys2Proof.Laws.Encoding.infeedTile (die index : Nat) :
    Encoding.Statement (.infeedTile die index) :=
  Encoding.of_event rfl
theorem Sys2Proof.Laws.Encoding.outfeedTile (die index : Nat) :
    Encoding.Statement (.outfeedTile die index) :=
  Encoding.of_event rfl
theorem Sys2Proof.Laws.Encoding.copyChunkDone (quad index : Nat) :
    Encoding.Statement (.copyChunkDone quad index) :=
  Encoding.of_event rfl
theorem Sys2Proof.Laws.Encoding.deferredQueueRoom (quad : Nat) :
    Encoding.Statement (.deferredQueueRoom quad) :=
  Encoding.of_event rfl
theorem Sys2Proof.Laws.Encoding.channelDataArrival (msg : Msg) :
    Encoding.Statement (.channelDataArrival msg) :=
  Encoding.of_event rfl
theorem Sys2Proof.Laws.Encoding.ackArrival (msg : Msg) :
    Encoding.Statement (.ackArrival msg) :=
  Encoding.of_event rfl
theorem Sys2Proof.Laws.Encoding.brokenArrival (msg : Msg) :
    Encoding.Statement (.brokenArrival msg) :=
  Encoding.of_event rfl
theorem Sys2Proof.Laws.Encoding.repointArrival (msg : Msg) :
    Encoding.Statement (.repointArrival msg) :=
  Encoding.of_event rfl
theorem Sys2Proof.Laws.Encoding.drainArrival (msg : Msg) :
    Encoding.Statement (.drainArrival msg) :=
  Encoding.of_event rfl
theorem Sys2Proof.Laws.Encoding.claimArrival (msg : Msg) :
    Encoding.Statement (.claimArrival msg) :=
  Encoding.of_event rfl
theorem Sys2Proof.Laws.Encoding.announceArrival (msg : Msg) :
    Encoding.Statement (.announceArrival msg) :=
  Encoding.of_event rfl
theorem Sys2Proof.Laws.Encoding.releaseArrival (msg : Msg) :
    Encoding.Statement (.releaseArrival msg) :=
  Encoding.of_event rfl
theorem Sys2Proof.Laws.Encoding.takeAndDrop (core recSlot : Nat) :
    Encoding.Statement (.takeAndDrop core recSlot) :=
  Encoding.of_event rfl
theorem Sys2Proof.Laws.Encoding.shadowSpillResume (part : Nat) :
    Encoding.Statement (.shadowSpillResume part) :=
  Encoding.of_event rfl
theorem Sys2Proof.Laws.Encoding.launchCommit (part lnum : Nat) :
    Encoding.Statement (.launchCommit part lnum) :=
  Encoding.of_event rfl
theorem Sys2Proof.Laws.Encoding.mergeSweep (part granule : Nat) :
    Encoding.Statement (.mergeSweep part granule) :=
  Encoding.of_event rfl
theorem Sys2Proof.Laws.Encoding.slotPop (core slot : Nat) :
    Encoding.Statement (.slotPop core slot) :=
  Encoding.of_event rfl
theorem Sys2Proof.Laws.Encoding.dequePushResume (core : Nat) :
    Encoding.Statement (.dequePushResume core) :=
  Encoding.of_event rfl
theorem Sys2Proof.Laws.Encoding.steal (core : Nat) :
    Encoding.Statement (.steal core) :=
  Encoding.of_event rfl
theorem Sys2Proof.Laws.Encoding.migrationLanding (quad : Nat) :
    Encoding.Statement (.migrationLanding quad) :=
  Encoding.of_event rfl
theorem Sys2Proof.Laws.Encoding.electValueTaken (core slot : Nat) :
    Encoding.Statement (.electValueTaken core slot) :=
  Encoding.of_event rfl
theorem Sys2Proof.Laws.Encoding.framingArrival (core : Nat) :
    Encoding.Statement (.framingArrival core) :=
  Encoding.of_event rfl
theorem Sys2Proof.Laws.Encoding.budgetWindow (quad : Nat) :
    Encoding.Statement (.budgetWindow quad) :=
  Encoding.of_event rfl
theorem Sys2Proof.Laws.Encoding.sleepTimeout (core slot : Nat) :
    Encoding.Statement (.sleepTimeout core slot) :=
  Encoding.of_event rfl
theorem Sys2Proof.Laws.Encoding.launchPlacement (part : Nat) :
    Encoding.Statement (.launchPlacement part) :=
  Encoding.of_event rfl
theorem Sys2Proof.Laws.Encoding.samplingWindow (core : Nat) :
    Encoding.Statement (.samplingWindow core) :=
  Encoding.of_event rfl
theorem Sys2Proof.Laws.Encoding.lstaComplete (core : Nat) :
    Encoding.Statement (.lstaComplete core) :=
  Encoding.of_event rfl
theorem Sys2Proof.Laws.Encoding.mswapPerform (core : Nat) :
    Encoding.Statement (.mswapPerform core) :=
  Encoding.of_event rfl
theorem Sys2Proof.Laws.Encoding.trussRowStep (core stream : Nat) :
    Encoding.Statement (.trussRowStep core stream) :=
  Encoding.of_event rfl
theorem Sys2Proof.Laws.Encoding.sliceExpiry (core slot : Nat) :
    Encoding.Statement (.sliceExpiry core slot) :=
  Encoding.of_event rfl
theorem Sys2Proof.Laws.Encoding.swapPrepareTimeout (p q : Nat) :
    Encoding.Statement (.swapPrepareTimeout p q) :=
  Encoding.of_event rfl
theorem Sys2Proof.Laws.Encoding.swapExchange (p q : Nat) :
    Encoding.Statement (.swapExchange p q) :=
  Encoding.of_event rfl
theorem Sys2Proof.Laws.Encoding.swapCopyDone (p q : Nat) :
    Encoding.Statement (.swapCopyDone p q) :=
  Encoding.of_event rfl
theorem Sys2Proof.Laws.Encoding.trapQueueEntry (core : Nat) :
    Encoding.Statement (.trapQueueEntry core) :=
  Encoding.of_event rfl
theorem Sys2Proof.Laws.Encoding.tenantSaveComplete (core : Nat) :
    Encoding.Statement (.tenantSaveComplete core) :=
  Encoding.of_event rfl
theorem Sys2Proof.Laws.Encoding.traceLossSample (core : Nat) :
    Encoding.Statement (.traceLossSample core) :=
  Encoding.of_event rfl
theorem Sys2Proof.Laws.Encoding.traceReadyHistogram (core : Nat) :
    Encoding.Statement (.traceReadyHistogram core) :=
  Encoding.of_event rfl
theorem Sys2Proof.Laws.Encoding.replayStop (part : Nat) :
    Encoding.Statement (.replayStop part) :=
  Encoding.of_event rfl
theorem Sys2Proof.Laws.Encoding.tenantRestoreComplete (core : Nat) :
    Encoding.Statement (.tenantRestoreComplete core) :=
  Encoding.of_event rfl
theorem Sys2Proof.Laws.Encoding.contextRestoreComplete (core slot : Nat) :
    Encoding.Statement (.contextRestoreComplete core slot) :=
  Encoding.of_event rfl
theorem Sys2Proof.Laws.Encoding.nbarMulticastDown (part group : Nat) :
    Encoding.Statement (.nbarMulticastDown part group) :=
  Encoding.of_event rfl
theorem Sys2Proof.Laws.Encoding.undefinedEncoding (length : Bool) :
    Encoding.Statement (.undefinedEncoding length) :=
  Encoding.of_event rfl
theorem Sys2Proof.Laws.Encoding.fetchFault (cause : BitVec 8) (va : Word) (malformed : Bool) :
    Encoding.Statement (.fetchFault cause va malformed) :=
  Encoding.of_event rfl
theorem Sys2Proof.Laws.Encoding.tlbWalkDone (core : Nat) (asid : BitVec 8) (va : Word) (write : Bool) :
    Encoding.Statement (.tlbWalkDone core asid va write) :=
  Encoding.of_event rfl
theorem Sys2Proof.Laws.Encoding.atsTranslationCompletion (fn : Nat) (pasid : BitVec 20) (ua ta : Word) (r w : Bool) :
    Encoding.Statement (.atsTranslationCompletion fn pasid ua ta r w) :=
  Encoding.of_event rfl
theorem Sys2Proof.Laws.Encoding.pageRequestResponse (fn : Nat) (pasid : BitVec 20) (ua : Word) (resp : PageResponse) :
    Encoding.Statement (.pageRequestResponse fn pasid ua resp) :=
  Encoding.of_event rfl
theorem Sys2Proof.Laws.Encoding.hostReadCompletion (reader : HostReader) (index : Nat) (res : Completion) :
    Encoding.Statement (.hostReadCompletion reader index res) :=
  Encoding.of_event rfl
theorem Sys2Proof.Laws.Encoding.hostAtomicCompletion (core slot : Nat) (res : Completion) :
    Encoding.Statement (.hostAtomicCompletion core slot res) :=
  Encoding.of_event rfl
theorem Sys2Proof.Laws.Encoding.invalidateRequest (fn : Nat) (pasid : Option (BitVec 20)) (ua : Word) (pages : Nat) :
    Encoding.Statement (.invalidateRequest fn pasid ua pages) :=
  Encoding.of_event rfl
theorem Sys2Proof.Laws.Encoding.invdOnePage (d : Word) :
    Encoding.Statement (.invdOnePage d) :=
  Encoding.of_event rfl
theorem Sys2Proof.Laws.Encoding.invdRange (d : Word) :
    Encoding.Statement (.invdRange d) :=
  Encoding.of_event rfl
theorem Sys2Proof.Laws.Encoding.invdAsid (d : Word) :
    Encoding.Statement (.invdAsid d) :=
  Encoding.of_event rfl
theorem Sys2Proof.Laws.Encoding.invdPartition (d : Word) :
    Encoding.Statement (.invdPartition d) :=
  Encoding.of_event rfl
theorem Sys2Proof.Laws.Encoding.hasidWrite (v : Word) :
    Encoding.Statement (.hasidWrite v) :=
  Encoding.of_event rfl
theorem Sys2Proof.Laws.Encoding.homeReadRequest (core line : Nat) (vtag : BitVec 8) :
    Encoding.Statement (.homeReadRequest core line vtag) :=
  Encoding.of_event rfl
theorem Sys2Proof.Laws.Encoding.ownershipRequest (core line : Nat) :
    Encoding.Statement (.ownershipRequest core line) :=
  Encoding.of_event rfl
theorem Sys2Proof.Laws.Encoding.writeThroughAtHome (core pa : Nat) (size : Size) (x : BitVec 128) :
    Encoding.Statement (.writeThroughAtHome core pa size x) :=
  Encoding.of_event rfl
theorem Sys2Proof.Laws.Encoding.updateOnlyGrantRequest (core line : Nat) (op : RedOp) (size : Size) :
    Encoding.Statement (.updateOnlyGrantRequest core line op size) :=
  Encoding.of_event rfl
theorem Sys2Proof.Laws.Encoding.writeBackArrival (core line : Nat) :
    Encoding.Statement (.writeBackArrival core line) :=
  Encoding.of_event rfl
theorem Sys2Proof.Laws.Encoding.invalidationAtHolder (rdc : Bool) (holder line : Nat) :
    Encoding.Statement (.invalidationAtHolder rdc holder line) :=
  Encoding.of_event rfl
theorem Sys2Proof.Laws.Encoding.recallAck (line : Nat) :
    Encoding.Statement (.recallAck line) :=
  Encoding.of_event rfl
theorem Sys2Proof.Laws.Encoding.dirptrWrite (v : Word) :
    Encoding.Statement (.dirptrWrite v) :=
  Encoding.of_event rfl
theorem Sys2Proof.Laws.Encoding.dirdoneListComplete (v : Word) :
    Encoding.Statement (.dirdoneListComplete v) :=
  Encoding.of_event rfl
theorem Sys2Proof.Laws.Encoding.dirdoneBroadcast (v : Word) :
    Encoding.Statement (.dirdoneBroadcast v) :=
  Encoding.of_event rfl
theorem Sys2Proof.Laws.Encoding.lslkWrite (v : Word) :
    Encoding.Statement (.lslkWrite v) :=
  Encoding.of_event rfl
theorem Sys2Proof.Laws.Encoding.tqpopWrite (v : Word) :
    Encoding.Statement (.tqpopWrite v) :=
  Encoding.of_event rfl
theorem Sys2Proof.Laws.Encoding.xkillWrite (v : Word) :
    Encoding.Statement (.xkillWrite v) :=
  Encoding.of_event rfl
theorem Sys2Proof.Laws.Encoding.dstopStop (v : Word) :
    Encoding.Statement (.dstopStop v) :=
  Encoding.of_event rfl
theorem Sys2Proof.Laws.Encoding.dstopRestart (v : Word) :
    Encoding.Statement (.dstopRestart v) :=
  Encoding.of_event rfl
theorem Sys2Proof.Laws.Encoding.xjntWrite (v : Word) :
    Encoding.Statement (.xjntWrite v) :=
  Encoding.of_event rfl
theorem Sys2Proof.Laws.Encoding.shobWrite (v : Word) :
    Encoding.Statement (.shobWrite v) :=
  Encoding.of_event rfl
theorem Sys2Proof.Laws.Encoding.shosWrite (v : Word) :
    Encoding.Statement (.shosWrite v) :=
  Encoding.of_event rfl
theorem Sys2Proof.Laws.Encoding.savbWrite (v : Word) :
    Encoding.Statement (.savbWrite v) :=
  Encoding.of_event rfl
theorem Sys2Proof.Laws.Encoding.regWrite (num : BitVec 12) (v : Word) :
    Encoding.Statement (.regWrite num v) :=
  Encoding.of_event rfl
theorem Sys2Proof.Laws.Encoding.apertureWrite (fn offset bytes : Nat) (x : Word) :
    Encoding.Statement (.apertureWrite fn offset bytes x) :=
  Encoding.of_event rfl
theorem Sys2Proof.Laws.Encoding.apertureRead (fn offset bytes : Nat) :
    Encoding.Statement (.apertureRead fn offset bytes) :=
  Encoding.of_event rfl
theorem Sys2Proof.Laws.Encoding.doorbell (fn : Nat) (x : Word) :
    Encoding.Statement (.doorbell fn x) :=
  Encoding.of_event rfl
theorem Sys2Proof.Laws.Encoding.purlinFrame (port : PurlinPort) (frame : List Byte) (x : Word) :
    Encoding.Statement (.purlinFrame port frame x) :=
  Encoding.of_event rfl
theorem Sys2Proof.Laws.Encoding.ident (fn frame : Nat) :
    Encoding.Statement (.ident fn frame) :=
  Encoding.of_event rfl
theorem Sys2Proof.Laws.Encoding.attest (fn frame : Nat) :
    Encoding.Statement (.attest fn frame) :=
  Encoding.of_event rfl
theorem Sys2Proof.Laws.Encoding.fwload (fn frame : Nat) :
    Encoding.Statement (.fwload fn frame) :=
  Encoding.of_event rfl
theorem Sys2Proof.Laws.Encoding.status (fn frame : Nat) :
    Encoding.Statement (.status fn frame) :=
  Encoding.of_event rfl
theorem Sys2Proof.Laws.Encoding.launch (fn frame : Nat) :
    Encoding.Statement (.launch fn frame) :=
  Encoding.of_event rfl
theorem Sys2Proof.Laws.Encoding.labort (fn frame : Nat) :
    Encoding.Statement (.labort fn frame) :=
  Encoding.of_event rfl
theorem Sys2Proof.Laws.Encoding.revoke (fn frame : Nat) :
    Encoding.Statement (.revoke fn frame) :=
  Encoding.of_event rfl
theorem Sys2Proof.Laws.Encoding.unrevoke (fn frame : Nat) :
    Encoding.Statement (.unrevoke fn frame) :=
  Encoding.of_event rfl
theorem Sys2Proof.Laws.Encoding.prien (fn frame : Nat) :
    Encoding.Statement (.prien fn frame) :=
  Encoding.of_event rfl
theorem Sys2Proof.Laws.Encoding.emureply (fn frame : Nat) :
    Encoding.Statement (.emureply fn frame) :=
  Encoding.of_event rfl
theorem Sys2Proof.Laws.Encoding.faultarea (fn frame : Nat) :
    Encoding.Statement (.faultarea fn frame) :=
  Encoding.of_event rfl
theorem Sys2Proof.Laws.Encoding.spdm (fn frame : Nat) :
    Encoding.Statement (.spdm fn frame) :=
  Encoding.of_event rfl
theorem Sys2Proof.Laws.Encoding.resize (fn frame : Nat) :
    Encoding.Statement (.resize fn frame) :=
  Encoding.of_event rfl
theorem Sys2Proof.Laws.Encoding.save (fn frame : Nat) :
    Encoding.Statement (.save fn frame) :=
  Encoding.of_event rfl
theorem Sys2Proof.Laws.Encoding.restore (fn frame : Nat) :
    Encoding.Statement (.restore fn frame) :=
  Encoding.of_event rfl
theorem Sys2Proof.Laws.Encoding.suprst (fn frame : Nat) :
    Encoding.Statement (.suprst fn frame) :=
  Encoding.of_event rfl
theorem Sys2Proof.Laws.Encoding.trace (fn frame : Nat) :
    Encoding.Statement (.trace fn frame) :=
  Encoding.of_event rfl
theorem Sys2Proof.Laws.Encoding.replay (fn frame : Nat) :
    Encoding.Statement (.replay fn frame) :=
  Encoding.of_event rfl
theorem Sys2Proof.Laws.Encoding.callrWrite (v : Word) :
    Encoding.Statement (.callrWrite v) :=
  Encoding.of_event rfl
theorem Sys2Proof.Laws.Encoding.callpopWrite (v : Word) :
    Encoding.Statement (.callpopWrite v) :=
  Encoding.of_event rfl
theorem Sys2Proof.Laws.Encoding.frecWrite (v : Word) :
    Encoding.Statement (.frecWrite v) :=
  Encoding.of_event rfl
theorem Sys2Proof.Laws.Encoding.powerOn :
    Encoding.Statement .powerOn :=
  Encoding.of_event rfl
theorem Sys2Proof.Laws.Encoding.coreResetRelease (core : Nat) :
    Encoding.Statement (.coreResetRelease core) :=
  Encoding.of_event rfl
theorem Sys2Proof.Laws.Encoding.startupStageComplete (ok : Bool) :
    Encoding.Statement (.startupStageComplete ok) :=
  Encoding.of_event rfl
theorem Sys2Proof.Laws.Encoding.softError (corrected : Bool) (core slot : Nat) (atCore virtual : Bool) (addr : Word) :
    Encoding.Statement (.softError corrected core slot atCore virtual addr) :=
  Encoding.of_event rfl
theorem Sys2Proof.Laws.Encoding.completionTimeout (engine : Bool) (unit index : Nat) :
    Encoding.Statement (.completionTimeout engine unit index) :=
  Encoding.of_event rfl
theorem Sys2Proof.Laws.Encoding.vfEnable (fn port : Nat) :
    Encoding.Statement (.vfEnable fn port) :=
  Encoding.of_event rfl
theorem Sys2Proof.Laws.Encoding.l1VtagDrop (core : Nat) (tag : BitVec 8) :
    Encoding.Statement (.l1VtagDrop core tag) :=
  Encoding.of_event rfl
end

