-- ==== Sys2Proof/Safety.lean ====
section
/-! DEFINITION. The terms the statements use: when a strand's instruction may run, the state its own effect starts from, and the
state after it. -/

namespace Sys2Proof.Safety

open Sys2Proof Sys2Proof.Machine

/-- The canonical form of memory holds. -/
def MemOk (s : State) : Prop := Memory.wf s.mem = true

/-- A step answers a next state. -/
def Runs (s : State) : Prop := ∃ t, step s = .next t

/-- No register named awaits a token (R265). -/
def Written (s : State) (rs : List GReg) : Prop := ∀ r ∈ rs, s.cur.pend.getLsbD r.toNat = false

/-- No register named holds a joint (R119). -/
def Untagged (s : State) (rs : List GReg) : Prop := ∀ r ∈ rs, s.cur.tags.getLsbD r.toNat = false

/-- No REP block holds the instruction back: none is in progress, or the instruction may run ahead of it (R246). -/
def MayRun (s : State) (ahead : Bool) (dests : List GReg) : Prop :=
  s.cur.inRep = true → ahead = true ∧ s.cur.block ≠ [] ∧ s.cur.aheadN < 16 ∧ ∀ r ∈ dests, r ∉ blockReads s.cur.block

/-- The strand stands in no delay slot (R207). -/
def NoSlot (s : State) : Prop := s.cur.slotPos = 0 ∧ s.cur.ds = 0

/-- The strand is the member of its gang that executes its next elected instruction, and there is room for the result (R170). -/
def Elected (s : State) : Prop :=
  s.cur.isGang = true ∧ NoSlot s ∧ s.cur.electQ.find? (fun p => p.n == s.cur.electN) = none
    ∧ lowestLive s.cur.live = s.core % 4 ∧ s.electFull = false

/-- An instruction that reads `regs` and writes `dests` may run: they are written and hold no joint, no REP block holds it back, and
with the elect prefix the strand is the elected member. -/
def Ready (s : State) (e ahead : Bool) (regs dests : List GReg) : Prop :=
  Written s (regs ++ dests) ∧ Untagged s (regs ++ dests) ∧ MayRun s ahead dests ∧ (e = true → Elected s)

/-- The state in which an instruction has its effect: the strand waits for nothing. -/
def begun (s : State) : State := s.setWait .none

/-- The state after an instruction of `len` bytes whose effect on `s` left `t`: with the elect prefix its result `v` has been posted,
the strand has moved to its next instruction (R170, R206), and an instruction ahead of a REP block has been counted (R246). -/
def done (s : State) (e : Bool) (len : Nat) (v : PostedValue) (t : State) : State :=
  (if e then (t.postElect s.cur.electN v).modCur fun x => { x with electN := x.electN + 1 } else t).modCur fun x =>
    x.ranAhead.advance len

/-- The value of a general register of the issuing strand. -/
def reg (s : State) (r : GReg) : Word := s.cur.g[r.toNat]!

/-- The state after an instruction of `len` bytes that writes one general register. -/
def wrote (s : State) (e : Bool) (len : Nat) (rd : GReg) (x : Word) : State :=
  done s e len (.g rd x) ((begun s).modCur fun y => y.setG rd x)

/-- The state after a control transfer of `len` bytes whose effect left `u`: its delay slots follow, and then the target `t` when it is
taken (R206). -/
def moved (len : Nat) (t : Option Word) (u : State) : State := u.modCur fun x => x.ranAhead.transfer len t

/-- Cond(fn, a, b) (Table 11.2). -/
def Holds (cc : Cond) (a b : Word) : Bool :=
  match cc with
  | .eq => decide (a = b)
  | .ne => decide (a ≠ b)
  | .lt => decide (a.toInt < b.toInt)
  | .ge => decide (b.toInt ≤ a.toInt)
  | .ltN => decide (a.toNat < b.toNat)
  | .geN => decide (b.toNat ≤ a.toNat)

/-! ### Control transfers and traps -/

/-- A transfer that reads `regs` and writes `dests` may run: besides, it stands in no delay slot (R207). -/
def MayJump (s : State) (regs dests : List GReg) : Prop :=
  Written s (regs ++ dests) ∧ Untagged s (regs ++ dests) ∧ NoSlot s ∧ MayRun s true dests

/-- An address, or the one past the block tail that it names (R233). -/
def pastTail (a : Word) : Word := if a.extractLsb' 0 5 = 28 then a + 4 else a

/-- The length of the instruction that the fetch path finds at an address, 8 when it finds none or len 11 (R233). -/
def peekedLength (s : State) (a : Word) : Word :=
  match s.peekWord0 a with
  | some w => if w.extractLsb' 0 2 = 3 then 8 else 8 + 4 * (w.extractLsb' 0 2).setWidth 64
  | none => 8

/-- The address after the second delay slot of a transfer of 8 bytes at `a` (R233). -/
def link (s : State) (a : Word) : Word :=
  let s1 := pastTail (a + 8)
  let s2 := pastTail (s1 + peekedLength s s1)
  pastTail (s2 + peekedLength s s2)

/-- The words of both delay slots of a transfer of 8 bytes at `a` are at hand: the fetch path waits for neither (R233). -/
def SlotsAtHand (s : State) (a : Word) : Prop :=
  let s1 := pastTail (a + 8)
  s.peekWait s1 = none ∧ s.peekWait (pastTail (s1 + peekedLength s s1)) = none

/-- The record of a strand trap (Table 16.1). -/
def strandTrap (slot : Nat) (cause : BitVec 8) (mal : Bool) (value : Word) : TrapRecord :=
  { w0 := BitVec.ofNat 64 (2 ^ 63 + slot * 2 ^ 16 + mal.toNat * 2 ^ 8 + cause.toNat), w1 := value }

/-- The record `r` has entered the trap queue of a core, or waits at its source while the queue holds 16 (R364). -/
def Queued (s t : State) (c : Nat) (r : TrapRecord) : Prop :=
  ((s.coreAt c).trapQ.length < 16 ∧ (s.coreAt c).held = [] →
    (t.coreAt c).trapQ = (s.coreAt c).trapQ ++ [r] ∧ (t.coreAt c).held = []) ∧
  (¬ ((s.coreAt c).trapQ.length < 16 ∧ (s.coreAt c).held = []) →
    (t.coreAt c).trapQ = (s.coreAt c).trapQ ∧ (t.coreAt c).held = (s.coreAt c).held ++ [r])

/-- The issuing user strand has taken a trap (R362, R363): its saved registers, its suspension, and its record; what the program
sees of its registers stays. -/
def UserTrap (s t : State) (cause : BitVec 8) (value : Word) (mal : Bool) : Prop :=
  let x := s.cur
  let y := t.slotAt s.core s.slot
  y.xstat = x.status.setWidth 64 ∧ y.xcause = BitVec.ofNat 64 (mal.toNat * 2 ^ 8 + cause.toNat) ∧ y.xvalue = value ∧ y.xpc = x.pc ∧
  y.trapped = true ∧ y.occupied = x.occupied ∧ y.pc = x.pc ∧ y.xtgt = x.xtgt ∧ y.reps = x.reps ∧ y.repa = x.repa ∧
  y.status = x.status ∧ y.g = x.g ∧ y.tags = x.tags ∧ y.v = x.v ∧ y.m = x.m ∧ y.d = x.d ∧ y.dstat = x.dstat ∧
  Queued s t s.core (strandTrap s.slot cause mal value)

/-- The supervisor slot has taken a trap (R365): its saved registers and XVEC.ENTRY; a second one before its TRET stops it. -/
def SupervisorTrap (s t : State) (cause : BitVec 8) (value : Word) (mal : Bool) : Prop :=
  let x := s.cur
  let y := t.slotAt s.core s.slot
  y.xstat = x.status.setWidth 64 ∧ y.xcause = BitVec.ofNat 64 (mal.toNat * 2 ^ 8 + cause.toNat) ∧ y.xvalue = value ∧ y.xpc = x.pc ∧
  y.pc = (s.coreAt s.core).xvec ∧ y.g = x.g ∧ y.tags = x.tags ∧ y.xtgt = x.xtgt ∧
  (t.coreAt s.core).trapQ = (s.coreAt s.core).trapQ ∧
  ((s.coreAt s.core).inTrap = false → (t.coreAt s.core).inTrap = true ∧ (t.coreAt s.core).halted = (s.coreAt s.core).halted) ∧
  ((s.coreAt s.core).inTrap = true → (t.coreAt s.core).halted = true ∧
    ∀ k < 15, (s.slotAt s.core k).occupied = true → (t.slotAt s.core k).kill = some true)

/-- The issuing strand has taken a trap. -/
def Trapped (s t : State) (cause : BitVec 8) (value : Word) (mal : Bool) : Prop :=
  (s.slot < 15 → UserTrap s t cause value mal) ∧ (s.slot = 15 → SupervisorTrap s t cause value mal)

/-! ### State registers -/

/-- A state register number is assigned (Tables 11.3, 16.8 and 17.6). -/
def Assigned (n : Nat) : Prop :=
  n ≤ 0x00E ∨ (0x010 ≤ n ∧ n ≤ 0x015) ∨ (0x840 ≤ n ∧ n ≤ 0x842) ∨ (0x844 ≤ n ∧ n ≤ 0x848) ∨ (0x850 ≤ n ∧ n ≤ 0x856)
    ∨ (0x860 ≤ n ∧ n ≤ 0x871) ∨ (0x880 ≤ n ∧ n ≤ 0x886) ∨ (0x888 ≤ n ∧ n ≤ 0x88E)

/-- The slot that a register marked "sel" reaches (R241): a user strand's own; in the supervisor slot that of XSEL, when its strand is
suspended by a trap or stopped, or slot 15 itself. -/
def Selects (s : State) (k : Nat) : Prop :=
  (s.slot ≠ 15 ∧ k = s.slot) ∨
  (s.slot = 15 ∧ k = (s.coreAt s.core).xsel.toNat ∧
    (k = 15 ∨ ((s.slotAt s.core k).occupied = true ∧ ((s.slotAt s.core k).trapped = true ∨ (s.slotAt s.core k).stopped = true))))

/-- SRD of a register answers a value. -/
def Reads (s : State) (e : Bool) (rd : GReg) (num : BitVec 12) (v : Word) : Prop :=
  exec (.srd e rd num) s = .next (wrote s e 8 rd v)

/-- SWR of a register, and the occurrence of the same write by the issuing strand, have an effect. -/
def Writes (s : State) (e : Bool) (ra : GReg) (num : BitVec 12) (event : Instr) (f : State → State) : Prop :=
  exec (.swr e ra num) s = .next (done s e 8 .done (f (begun s))) ∧ exec event s = .next (done s false 8 .done (f (begun s)))

/-- The instruction takes a trap and has no effect (R208). -/
def TrapsWith (s : State) (i : Instr) (cause : BitVec 8) (value : Word) : Prop :=
  exec i s = .next (s.takeTrap s.core s.slot cause value false)

/-! ### Memory -/

/-- An address of `n` bytes at an offset of the issuing core's own local store, which the strand may access: within the program range,
outside the lock and in no sealed sector, or anywhere from the supervisor slot (R27, R168, R298). -/
def OwnStore (s : State) (a : Word) (off n : Nat) : Prop :=
  a = BitVec.ofNat 64 (0x7E0000000000 + off) ∧ off + n ≤ 2 ^ 19 ∧
  (s.slot = 15 ∨ (off + n ≤ 0x70000 ∧ (s.coreAt s.core).locked off n = false ∧ (s.coreAt s.core).firstSealed off n = none))

/-- The registers of an access of a size: one, or a pair (R248). -/
def sizeRegs (m : MForm) (r : GReg) : List GReg := if m.size = .q then [r, r + 1] else [r]

/-- The value that a store or an atomic of a size takes from its register or pair (R250). -/
def sizeValue (s : State) (m : MForm) (r : GReg) : Nat :=
  if m.size = .q then (reg s r).toNat + 2 ^ 64 * (reg s (r + 1)).toNat else (reg s r).toNat % 2 ^ (8 * m.size.bytes)

/-- A value of a size as a register takes it: zero- or sign-extended (R250). -/
def extended (m : MForm) (v : Nat) : Word :=
  if m.zx then BitVec.ofNat 64 v else (BitVec.ofNat (8 * m.size.bytes) v).signExtend 64

/-- The state after an instruction whose effect on `s` left `u` and that writes a value of a size to a register or a pair. -/
def wroteSized (s : State) (e : Bool) (m : MForm) (rd : GReg) (v : Nat) (u : State) : State :=
  if m.size = .q then
    done s e 8 (.pair rd (BitVec.ofNat 64 v) (BitVec.ofNat 64 (v / 2 ^ 64)))
      (u.modCur fun y => (y.setG rd (BitVec.ofNat 64 v)).setG (rd + 1) (BitVec.ofNat 64 (v / 2 ^ 64)))
  else done s e 8 (.g rd (extended m v)) (u.modCur fun y => y.setG rd (extended m v))

/-- The state after a store's bytes are written. -/
def stored (s : State) (key : Nat) (bs : List Byte) : State := s.storeBytes key bs

/-- A release finds every earlier access complete (R96, R110). -/
def Released (s : State) (o : Order) : Prop := o = .rel ∨ o = .ar → s.cur.osc = 0

/-- No earlier visit of the strand has begun the access: it has no request at the host, and no piece of it is done (R28, R41). -/
def AtStart (s : State) : Prop := s.cur.host = none ∧ s.cur.prog = Progress.none

/-- No reduction of the issuing strand that is on its way holds an operation of an order back: none to an SO page, and before an acquire no
release (R96, R102). -/
def Unreduced (s : State) (o : Order) : Prop :=
  ∀ r, .redAtHome r ∈ s.events → r.core = s.core → r.slot = s.slot → r.so = false ∧ (o = .acq → r.rel = false)

/-- The access starts, and no reduction holds it back. -/
def Unheld (s : State) (o : Order) : Prop := AtStart s ∧ Unreduced s o

/-- An access of an order may be performed now (R96, R102, R110). -/
def InOrder (s : State) (o : Order) : Prop := Released s o ∧ Unheld s o

/-- A core's router counts no packet of a partition in a class, since it has no budget there (R185). -/
def Unmetered (s : State) (core part cls : Nat) : Prop := (s.quadAt (core / 4)).budget.get 0 (part * 8 + cls) = 0

/-- A line of a core's caches needs no other line's place: its L1 set has a free way, and so have the partition's ways of its RDC set, or the
line is there (R45, R57). -/
def CacheRoom (s : State) (core part line : Nat) : Prop :=
  ((s.coreAt core).l1.filter fun e => e.1 % 2048 == line % 2048).length < 12 ∧
  let rdc := (s.dieAt (core / 256)).rdc
  (rdc.find line ≠ none ∨ ∃ w ∈ s.rdcWaysOf part (core / 256), ∀ e ∈ rdc, rdcSet e.1 = rdcSet line → e.2.way ≠ w)

/-- A home serves a line at once: its granule has a tag or there is room for one, no version or shadow data of the granule exists, nobody holds
the line, and no handler works on a line of the die (R54, R70, R75, R146, R148, R157). -/
def HomeReady (s : State) (line : Nat) : Prop :=
  let gr := line / 32
  let die := s.dieAt (dieOf (line * 64))
  (die.tagOf gr ≠ none ∨ (die.tags.filter fun t => s.sameSet t.gran gr).length + (die.shadows.filter fun w => s.sameSet w.gran gr).length < 12) ∧
  s.verOf gr = Ver.none ∧ die.lists = [] ∧ s.dirAt line = 0 ∧ (∀ w ∈ die.shadows, w.gran ≠ gr) ∧
  ∀ p pt, (p, pt) ∈ s.parts → (∀ w ∈ pt.spills, w.gran ≠ gr) ∧ (s.partAt p).shos.getLsbD 5 = false

/-- The address of a strand's access, its displacement sign-extended (R248). -/
def address (s : State) (ra : GReg) (m : MForm) : Word := reg s ra + m.disp.signExtend 64

/-- The address of an indexed access: the index counts elements (R250). -/
def indexed (s : State) (ra rb : GReg) (m : MForm) : Word := address s ra m + reg s rb * BitVec.ofNat 64 m.size.bytes

/-- The strand after an instruction: its slot is `x`, and it is still the one that issues. -/
def StrandIs (s t : State) (x : Slot) : Prop := t.core = s.core ∧ t.slot = s.slot ∧ t.cur = x

/-- `n` bytes at a virtual address, within one line, that the issuing strand reaches at a physical address through a cached translation: in
a valid address space of its partition, of kind SO or RC, resident, permitted, in a region of the partition; the home serves the line at
once, the caches have room for it, the core's L1 holds no unregistered or update-only copy of it, and no router meters the packets (R16, R21 to R33, R45, R57, R70, R185). -/
def Reachable (s : State) (va : Word) (n : Nat) (write : Bool) (pa : Nat) : Prop :=
  let me := s.me
  va.toNat < 0x7E0000000000 ∧ va.toNat % 64 + n ≤ 64 ∧ 0 < n ∧ s.asidOwned me.asid s.myPart = true ∧
  (∃ t, s.tlbFind s.core s.myPart me.asid va.toNat = some t ∧
    (t.leaf.getLsbD (if write then 2 else 1) = true ∧ (write = true → t.leaf.getLsbD 11 = true)) ∧
    (t.leaf.toNat / 2 ^ 4 % 4 < 2 ∧ t.leaf.getLsbD 8 = false) ∧ (t.leaf.getLsbD 6 = true ∨ me.tag = 0) ∧
    6 ≤ t.log2 ∧ pa = t.leaf.toNat / 2 ^ 13 % 2 ^ 39 * 2 ^ 12 + va.toNat % 2 ^ t.log2 ∧ pa % 64 = va.toNat % 64) ∧
  s.homeCheck s.myPart pa = .ok ∧ HomeReady s (pa / 64) ∧ CacheRoom s s.core s.myPart (pa / 64) ∧
  (∀ l, (s.coreAt s.core).l1.find (pa / 64) = some l → l.uo = false ∧ l.state ≠ .updateOnly) ∧ AtStart s ∧
  Unmetered s s.core s.myPart 0 ∧ Unmetered s (4 * s.homeQuadOf pa) s.myPart 0 ∧
  s.cur.osc = 0 ∧ s.cur.isMig = false ∧ (∀ i ∈ s.events, ∀ r, i ≠ .redAtHome r)

/-! ### Barriers and rings -/

/-- The key of a byte of the issuing core's own local store. -/
def ownKey (s : State) (off : Nat) : Nat := 2 ^ 52 + s.core * 2 ^ 19 + off

/-- A barrier operand names the object at an offset of a core's local store: the issuing core's by the offset alone or through the alias,
another's through its window; the strand may access it (R258). -/
def BarrierAt (s : State) (a : Word) (core off : Nat) : Prop :=
  ((a = BitVec.ofNat 64 off ∧ core = s.core) ∨ (a = BitVec.ofNat 64 (0x7E0000000000 + off) ∧ core = s.core) ∨
    ∃ v < 2048, a = BitVec.ofNat 64 (0x7F0000000000 + v * 2 ^ 19 + off) ∧ s.vcnCore s.myPart v = some core) ∧
  off % 16 = 0 ∧ off < 0x70000 ∧
  (s.slot = 15 ∨ ((s.coreAt core).locked off 16 = false ∧ (s.coreAt core).firstSealed off 16 = none))

/-- The packets of an operation on a core's store pass at once: it is the issuing core's own, or neither router meters packets or holds a request
(R185). -/
def Passes (s : State) (core : Nat) : Prop :=
  core = s.core ∨ ∀ c, c = s.core ∨ c = core → Unmetered s c s.myPart 0 ∧ (s.quadAt (c / 4)).gate = []

/-- A barrier object's fields (Table 2.10). -/
def ObjectIs (s : State) (core off phase pend reload : Nat) (overrun : Bool) (count : Word) : Prop :=
  s.load (2 ^ 52 + core * 2 ^ 19 + off) 8 = phase + pend * 2 ^ 12 + reload * 2 ^ 28 + overrun.toNat * 2 ^ 44 ∧
  s.load (2 ^ 52 + core * 2 ^ 19 + off + 8) 8 = count.toNat ∧ phase < 2 ^ 12 ∧ pend < 2 ^ 16 ∧ reload < 2 ^ 16

/-- Nothing is parked or armed for a barrier (R68, R182). -/
def Unattended (s : State) (core off : Nat) : Prop :=
  (∀ i < 16, deferredFor (s.deferredAt (core / 4) i) core off = false) ∧ ∀ a ∈ (s.coreAt core).armed, a.off ≠ off

/-- Every byte of memory outside the `n` bytes at a key reads as before. -/
def SameOutside (s t : State) (key n : Nat) : Prop := ∀ a, a < key ∨ key + n ≤ a → Memory.read t.mem a = Memory.read s.mem a

/-- The strand's slot after an instruction of `len` bytes with the effect `f` on it (R206). -/
def after (s : State) (len : Nat) (f : Slot → Slot) : Slot := (f (begun s).cur).ranAhead.advance len

/-! ### Engine commands -/

/-- A strand may kick a command with a token register: the register holds no joint and awaits no token, and every earlier access is
complete (R265, R109). -/
def MayKick (s : State) (rd : GReg) : Prop :=
  s.cur.tags.getLsbD rd.toNat = false ∧ s.cur.pend.getLsbD rd.toNat = false ∧ s.cur.osc = 0

/-- The state in which the strand's token register awaits its token (R265). -/
def awaiting (s : State) (rd : GReg) : State := (begun s).modCur fun x => { x with pend := setBit x.pend rd.toNat true }

/-- `n` bytes at an offset of a core's own local store that a user's command may access (R27, R168, R298). -/
def EngineReach (s : State) (core off n : Nat) : Prop :=
  off + n ≤ 0x70000 ∧ (s.coreAt core).locked off n = false ∧ (s.coreAt core).firstSealed off n = none

/-- The strand that kicked a command still occupies a slot of its core (R368). -/
def Seated (s : State) (o : Owner) (k : Nat) : Prop := (s.coreAt o.core).slotOf o.sid = some k

/-- A token has been written to a register of the strand in a slot: it no longer awaits one (R265). -/
def TokenWritten (s t : State) (core k : Nat) (r : GReg) (v : Word) : Prop :=
  t.slotAt core k = { (s.slotAt core k).setG r v with pend := setBit (s.slotAt core k).pend r.toNat false }

/-! ### Channels -/

/-- An instruction that may not run ahead of a REP block may run, whatever joints its registers hold: they are written, and no block is in
progress (R246, R265). -/
def Issues (s : State) (rs : List GReg) : Prop := Written s rs ∧ s.cur.inRep = false

/-- A register holds the end of a channel, of kind 1 (tenon) or 2 (mortise), whose live record is `c` in a record slot (R117, R119, R123). -/
def HoldsEnd (s : State) (r : GReg) (kind k : Nat) (c : ChanRec) : Prop :=
  s.cur.tags.getLsbD r.toNat = true ∧ (reg s r).toNat / 2 ^ 24 % 4 = kind ∧ s.endRec s.core (reg s r) = some (k, c) ∧ c.part = s.myPart

/-- A message of a record to the mortise side of its channel that carries the record's next sequence (R126). -/
def dataMessage (s : State) (r : ChanRec) (kind : MsgKind) (payload : List Byte) (esize : BitVec 3) : Msg where
  kind := kind
  value := r.next
  inc := r.inc
  number := r.number
  side := .mortise
  move := r.move
  smove := 0
  new := 0
  aux := 0
  src := s.core
  dst := r.route
  dstVcn := false
  part := r.part
  fin := false
  fwd := false
  esize := esize
  payload := payload

/-- A message of a mortise's record to the tenon side, which TSENT counts (R126, R131). -/
def tenonMessage (s : State) (r : ChanRec) (kind : MsgKind) (value : BitVec 32) (fin : Bool) : Msg where
  kind := kind
  value := value
  inc := r.inc
  number := r.number
  side := .tenon
  move := r.tmove
  smove := 0
  new := 0
  aux := r.tsent + 1
  src := s.core
  dst := r.tloc
  dstVcn := false
  part := r.part
  fin := fin
  fwd := false
  esize := 0
  payload := []

/-- The strand's message or acknowledgement of a channel is on its way, as FENCE c follows it (Table 4.4). -/
def onItsWay (s : State) (r : ChanRec) (ack : Bool) (value : BitVec 32) : State :=
  { s with sys := { s.sys with transit := s.sys.transit ++
    [{ sid := s.cur.sid, part := r.part, number := r.number, inc := r.inc, ack := ack, value := value, landed := false, held := false }] } }

/-- A record's fields have the ranges of Tables 5.5 and 5.6, and its state is one of its side. -/
def Tabled (r : ChanRec) : Prop :=
  r.route < 2 ^ 11 ∧ r.target < 2 ^ 11 ∧ r.tloc < 2 ^ 11 ∧
  (r.side = .tenon → r.state = .openS ∨ r.state = .tail ∨ r.state = .broken ∨ r.state = .tstub) ∧
  (r.side = .mortise → r.state = .openS ∨ r.state = .endSeen ∨ r.state = .shut ∨ r.state = .mstub)

/-- `n` bytes at an offset of the issuing core's local store that its strand may access (R27, R168, R298). -/
def LocalReach (s : State) (off n : Nat) : Prop :=
  s.slot = 15 ∨ ((s.coreAt s.core).locked off n = false ∧ (s.coreAt s.core).firstSealed off n = none)

/-- No record of a list uses a record slot (R122). -/
def SlotFree (m : Map ChanRec) (k : Nat) : Prop := ∀ e ∈ m, e.1 ≠ k ∧ (e.2.side = .mortise → e.1 + 1 ≠ k)

/-- The strand waits for a message, and the instruction has had no effect. -/
def waiting (s : State) (w : Wait) : State := (begun s).modCur fun x => { x with wait := w }

/-- A message meets a record of its channel, side, incarnation and move number, on its core or on the core that holds its VCN,
whose tenant is not saved (R123, R416). -/
def Meets (s : State) (m : Msg) (core k : Nat) (r : ChanRec) : Prop :=
  (m.dstVcn = false → core = m.dst) ∧ (m.dstVcn = true → (s.partAt m.part).saved.find m.dst = none ∧ s.vcnCore m.part m.dst = some core) ∧ s.msgRec core m = some (k, r)

/-- A sequence or move number is later than another, modulo 2^32 (R127). -/
abbrev IsLater (a b : BitVec 32) : Prop := 0 < (a - b).toNat ∧ (a - b).toNat < 2 ^ 31

/-- The first of two sequence or move numbers when it is later than the second, else the second. -/
def laterOf (a b : BitVec 32) : BitVec 32 := if IsLater a b then a else b

/-- A message that a record of a core sends in answer to another: to a core and a move number, with no count of its own (R126). -/
def answer (core : Nat) (r : ChanRec) (kind : MsgKind) (side : Side) (move : BitVec 32) (dst : Nat) (value new smove : BitVec 32)
    (fin : Bool) : Msg where
  kind := kind
  value := value
  inc := r.inc
  number := r.number
  side := side
  move := move
  smove := smove
  new := new
  aux := 0
  src := core
  dst := dst
  dstVcn := false
  part := r.part
  fin := fin
  fwd := false
  esize := 0
  payload := []

/-- A record retires (Table 5.11). -/
def Retires (r : ChanRec) : Prop :=
  let passed := ¬ IsLater r.df r.cons ∧ ¬ IsLater r.dtm r.tmove
  match r.state with
  | .openS => False
  | .mstub => r.claimed = true ∧ r.upp = false ∧
      ((r.endv = true ∧ IsLater r.cons r.endseq) ∨ ((r.dfin = true ∨ IsLater r.dnew r.move) ∧ passed))
  | .shut => r.held = false ∧ r.upp = false ∧ r.dfin = true ∧ passed ∧ r.drops = [] ∧ r.marks = 0
  | .endSeen => r.held = false ∧ r.upp = false
  | .tstub => r.claimed = true ∧ r.upp = false ∧ r.upr = r.upn ∧ IsLater r.newt r.tmove ∧ (r.dnv = true → r.recv = r.dn)
  | .tail | .broken => r.held = false ∧ r.upp = false ∧ r.upr = r.upn ∧ r.dnv = true ∧ r.recv = r.dn

/-! ### Strands -/

/-- The record that a push by the issuing strand leaves, entered at the bottom of a core's deque (R175, R414). -/
def pushed (s : State) (core : Nat) (r : Rec) : State :=
  let c := s.coreAt core
  (s.store (2 ^ 52 + core * 2 ^ 19 + 0x70000 + 32 * (c.dqb.toNat % 512)) 32 r.pack.toNat).modCore core fun c => { c with dqb := c.dqb + 1 }

/-- A record as the issuing strand pushes it: of its own launch (R414). -/
def mine (s : State) (r : Rec) : Rec := { r with l := s.cur.member, lnum := if s.cur.member then s.cur.lnum else 0 }

/-- The record that 32 bytes of memory hold (Table 7.6). -/
def recordAt (s : State) (key : Nat) : Rec := Rec.unpack (BitVec.ofNat 256 (s.load key 32))

/-- A user slot is vacant and unstopped. -/
def Vacant (s : State) (core k : Nat) : Prop := (s.slotAt core k).occupied = false ∧ (s.slotAt core k).stopped = false

/-- A strand may end or move: its tokens are written, its reductions are complete, no REP block is in progress, and it stands in no delay
slot. -/
def Settled (s : State) : Prop := s.cur.pend = 0 ∧ s.cur.osc = 0 ∧ s.cur.inRep = false ∧ NoSlot s

/-- A strand that a record has started: at its entry, with its frame and argument, in its launch (R172). -/
def StartedAs (x : Slot) (r : Rec) : Prop :=
  x.occupied = true ∧ x.pc = r.pc ∧ x.jb = r.join ∧ x.member = r.l ∧ x.g[13]! = r.frame ∧
  x.g[12]! = (if r.tk then BitVec.ofNat 64 (r.tvcn.toNat * 2 ^ 32 + r.arg.toNat) else r.arg.setWidth 64) ∧
  x.tags = 0 ∧ x.pend = 0 ∧ x.xtgt = 0 ∧ x.isNb = r.nb ∧ x.trapped = false

/-! ### Vector instructions -/

/-- Lane `l` of a register (R307). -/
def laneAt (x : BitVec 1024) (l : Nat) : Nat := x.toNat / 2 ^ (32 * l) % 2 ^ 32

/-- Lane `l` of a vector register of the issuing strand. -/
def laneOf (s : State) (r : VReg) (l : Nat) : Nat := laneAt s.cur.v[r.toNat]! l

/-- Mask register `m` selects lane `l`; m0 selects every lane (R308). -/
def Selected (s : State) (m : MReg) (l : Nat) : Prop := m = 0 ∨ s.cur.m[m.toNat]!.getLsbD l = true

/-- A register holds `f` in the selected lanes and what the strand's register `old` held in the others. -/
def LanesAre (s : State) (old : VReg) (m : MReg) (f : Nat → Nat) (x : BitVec 1024) : Prop :=
  ∀ l < 32, (Selected s m l → laneAt x l = f l) ∧ (¬ Selected s m l → laneAt x l = laneOf s old l)

/-- The issuing strand has written a vector register and raised flags: it is anchored and has moved on, and memory is as before (R310). -/
def VectorWrote (s t : State) (vd : VReg) (m : MReg) (f : Nat → Nat) (fl : BitVec 5) : Prop :=
  t.mem = s.mem ∧ ∃ x, LanesAre s vd m f x ∧
    StrandIs s t (after s 8 fun y => ({ y.anchor with v := y.v.set! vd.toNat x }).orFlags fl)

/-- The flags are those that a selected lane raises. -/
def FlagsAre (s : State) (m : MReg) (fl : BitVec 5) (f : Nat → BitVec 5) : Prop :=
  ∀ i < 5, fl.getLsbD i = true ↔ ∃ l < 32, Selected s m l ∧ (f l).getLsbD i = true

/-- The selected lanes have addresses of `n` bytes in the issuing core's own local store, at offsets `off`. -/
def LanesReach (s : State) (m : MReg) (n : Nat) (at_ : Nat → Word) (off : Nat → Nat) : Prop :=
  ∀ l < 32, Selected s m l → OwnStore s (at_ l) (off l) n

/-! ### Homes -/

/-- A line of populated memory that a core's partition owns and its home serves at once, in no cache of the core, for which its caches have
room; and no router meters its packets (R32, R45, R56, R70, R148, R185). -/
def QuietLine (s : State) (core line : Nat) : Prop :=
  let part := s.partOf core
  s.homeCheck part (line * 64) = .ok ∧ HomeReady s line ∧ CacheRoom s core part line ∧
  Unmetered s core part 0 ∧ Unmetered s (4 * s.homeQuadOf (line * 64)) part 0 ∧
  (s.coreAt core).l1.find line = none ∧ (s.dieAt (core / 256)).rdc.find line = none

/-! ### Fetch -/

/-- The fetch path finds the instruction `i` of `n` bytes, with word 0 `w`, at an address of one block, and what it finds is at hand: it changes
no state (R202). -/
def CodeAt (s : State) (a : Word) (w : BitVec 32) (i : Instr) (n : Nat) : Prop :=
  ∃ w0 bs, fetchBytes s.me a 4 s = .ok (w0, s) ∧ w = BitVec.ofNat 32 (ofBytes w0) ∧ lengthOf w = some n ∧ a.toNat % 32 + n ≤ 32 ∧
    fetchBytes s.me a n s = .ok (bs, s) ∧ decodeBytes bs = .ok i

/-- REP may capture an instruction with this word 0 (R245). -/
def MayCapture (w : BitVec 32) : Prop :=
  let op := w.toNat / 4 % 256
  w.getLsbD 10 = false ∧ ((0xA0 ≤ op ∧ op ≤ 0xAC) ∨ op = 0xAE ∨ op = 0xAF ∨ op = 0xB0)

/-- The instructions in sequence from an address, block tails skipped, and the address after the last (R245). -/
def CodeFrom (s : State) : Word → List Instr → Word → Prop
  | a, [], b => b = a
  | a, i :: rest, b => ∃ w n, CodeAt s (pastTail a) w i n ∧ MayCapture w ∧ CodeFrom s (pastTail a + BitVec.ofNat 64 n) rest b

/-! ### Calls -/

/-- The aperture of a function is mapped: PF0's once power is on, an enabled VF's (R382, R389). -/
def Mapped (s : State) (f : Nat) : Prop := s.sys.powered = true ∧ (f = 0 ∨ (f ≤ 32 ∧ (s.fnAt f).enabled = true))

/-- Check 1 of R383 refuses a frame whose doorbell value is `x`. -/
def BadHeader (bs : List Byte) (x : Word) : Prop :=
  hdrTag bs ≠ x.toNat ∨ 4024 < hdrLength bs ∨ hdrLength bs % 8 ≠ 0 ∨ 16 ≤ hdrVec bs ∨ (hdrPasid bs).toNat / 2 ^ 20 % 2 ^ 11 ≠ 0
    ∨ 8 ≤ hdrPrio bs ∨ ∃ i < 32, bs.getD (0x20 + i) 0 ≠ 0

/-- A reply image (R385). -/
def replyBytes (tag status r0 r1 : Nat) : List Byte :=
  toBytes 8 tag ++ [BitVec.ofNat 8 status] ++ List.replicate 7 0 ++ toBytes 8 r0 ++ toBytes 8 r1

/-- A reply to a frame need not wait for the host. -/
def MayReply (s : State) (f : Nat) (bs : List Byte) (peer : Option Nat) : Prop :=
  hdrReply bs = 0 ∨ peer ≠ none ∨ ∀ t, s.hostWrite f (hdrPasid bs) (hdrReply bs) 32 ≠ .held t

/-- The state after a reply to a frame: its image at REPLY and its vector; a refused one is a fault record of PF0 (R385); none for REPLY = 0,
and a peer's leaves as a write by the link it came by (R388; the link is the model's choice, log 22). One that waits for the host is owed (log 22). -/
def replied (s : State) (f : Nat) (bs : List Byte) (peer : Option Nat) (img : List Byte) : State :=
  if hdrReply bs = 0 then s
  else
    match peer with
    | some l => { s with sys := { s.sys with purlin := s.sys.purlin ++ [{ link := l, addr := BitVec.ofNat 64 (hdrReply bs), bytes := img }] } }
    | none =>
      match s.hostWrite f (hdrPasid bs) (hdrReply bs) 32 with
      | .sendTo t ta => (t.storeBytes (2 ^ 64 + ta) img).modFn f fun x => { x with msix := x.msix ++ [BitVec.ofNat 16 (hdrVec bs)] }
      | .refused t => t.postFault 0 4 f (toBytes 4 0 ++ toBytes 8 (hdrTag bs) ++ toBytes 8 (hdrReply bs))
      | .held t => t.modFn f fun x => { x with owed := x.owed ++ [(bs, img)] }

/-- The port die checks a frame and replies, or the frame enters the function's queue in a free slot (R383, Table 17.5; log 22). -/
def Submits (s : State) (i : Instr) (f : Nat) (bs : List Byte) (peer : Option Nat) (x : Word) : Prop :=
  let early := s.sys.stage < 2 ∧ ¬ (f = 0 ∧ 1 ≤ hdrCall bs ∧ hdrCall bs ≤ 4)
  let full := ∀ k < 64, (s.frames f).find k ≠ none
  let refused (status : Nat) : Prop := exec i s = .next (replied s f bs peer (replyBytes (hdrTag bs) status 0 0))
  (BadHeader bs x → refused 0x02) ∧ (¬ BadHeader bs x → early → refused 0x07) ∧ (¬ BadHeader bs x → ¬ early → full → refused 0x05) ∧
  (¬ BadHeader bs x → ¬ early → ¬ full →
    ∃ k, k < 64 ∧ (s.frames f).find k = none ∧
      (let t := s.storeFrame f k bs
       exec i s = .next ((t.setFrames f ((t.frames f).set k { bytes := bs, popped := false, replied := false, peer := peer })).setCallQ f
        (t.callQ f ++ [k]))))

/-- The frame `x` heads a function's queue, in slot `k`, with its call number, and has had no reply. -/
def Heads (s : State) (f k : Nat) (x : Frame) (call : Nat) : Prop :=
  (s.callQ f).head? = some k ∧ (s.frames f).find k = some x ∧ x.popped = false ∧ hdrCall x.bytes = call

/-- The head frame is retired and its slot is free. -/
def retired (s : State) (f k : Nat) : State :=
  let t := s.setCallQ f (s.callQ f).tail
  t.setFrames f (Map.erase (t.frames f) k)

/-- A function's requests to the host are those of another state; nothing else differs. -/
def holding (s : State) (f : Nat) (t : State) : State := s.modFn f fun y => { y with host := (t.fnAt f).host }

/-- The call of the frame `x` has had the effect that leaves `u`, is answered, and its frame is retired; while the answer waits for the host,
only its request stands (R384, R385; logs 22, 40). -/
def Answers (s : State) (i : Instr) (f k : Nat) (x : Frame) (u : State) (status r0 r1 : Nat) : Prop :=
  (MayReply u f x.bytes x.peer →
    exec i s = .next (retired (replied u f x.bytes x.peer (replyBytes (hdrTag x.bytes) status r0 r1)) f k)) ∧
  (∀ t, hdrReply x.bytes ≠ 0 → x.peer = none → u.hostWrite f (hdrPasid x.bytes) (hdrReply x.bytes) 32 = .held t →
    exec i s = .next (holding s f t))

/-! ### Families -/

/-- The integer family (Table 9.10). -/
def IsInteger : Instr → Prop
  | .add _ _ _ _ | .sub _ _ _ _ | .and _ _ _ _ | .or _ _ _ _ | .xor _ _ _ _ | .andn _ _ _ _ | .shl _ _ _ _ | .shr _ _ _ _ | .sar _ _ _ _
  | .ror _ _ _ _ | .min _ _ _ _ | .max _ _ _ _ | .minN _ _ _ _ | .maxN _ _ _ _ | .addi _ _ _ _ | .subi _ _ _ _ | .andi _ _ _ _
  | .ori _ _ _ _ | .xori _ _ _ _ | .andni _ _ _ _ | .shli _ _ _ _ | .shri _ _ _ _ | .sari _ _ _ _ | .rori _ _ _ _ | .mini _ _ _ _
  | .maxi _ _ _ _ | .miniN _ _ _ _ | .maxiN _ _ _ _ | .mul _ _ _ _ | .mulh _ _ _ _ | .mulhN _ _ _ _ | .div _ _ _ _ | .divN _ _ _ _
  | .rem _ _ _ _ | .remN _ _ _ _ | .muli _ _ _ _ | .clz _ _ _ | .ctz _ _ _ | .popc _ _ _ | .brev _ _ _ | .bswap _ _ _
  | .ext _ _ _ _ _ _ | .ins _ _ _ _ _ | .setCc _ _ _ _ _ | .setiCc _ _ _ _ _ | .sel _ _ _ _ _ | .movi _ _ _ | .addsh _ _ _ _ _
  | .addpc _ _ _ => True
  | _ => False

/-- The vector and distribution instructions that reach no memory, and the v, g, m and d register that each writes
(R310). -/
def vectorDests : Instr → Option (Option VReg × Option GReg × Option MReg × Option DReg)
  | .vadd vd _ _ _ | .vsub vd _ _ _ | .vmul vd _ _ _ | .vand vd _ _ _ | .vor vd _ _ _ | .vxor vd _ _ _ | .vshl vd _ _ _ | .vshr vd _ _ _
  | .vsar vd _ _ _ | .vmin vd _ _ _ | .vmax vd _ _ _ | .vminN vd _ _ _ | .vmaxN vd _ _ _ | .vfadd vd _ _ _ | .vfsub vd _ _ _
  | .vfmul vd _ _ _ | .vfmin vd _ _ _ | .vfmax vd _ _ _ | .vfdiv vd _ _ _ | .vsel vd _ _ _ _ | .vperm vd _ _ _ => some (some vd, none, none, none)
  | .vfsqrt vd _ _ | .vfrcp vd _ _ | .vfrsq vd _ _ | .vcvt vd _ _ | .vbc vd _ _ => some (some vd, none, none, none)
  | .vfma vd _ _ _ _ | .vfms vd _ _ _ _ | .vfnma vd _ _ _ _ | .vhad vd _ _ _ _ => some (some vd, none, none, none)
  | .qnt vd _ rb _ => some (some vd, some rb, none, none)
  | .vmvgToV _ vd _ _ | .dmom _ vd _ _ | .dqnt _ vd _ _ => some (some vd, none, none, none)
  | .vred _ _ vd _ _ => some (some vd, none, none, none)
  | .vmvgToG _ rd _ _ => some (none, some rd, none, none)
  | .mpop rd _ | .dlinGet rd _ => some (none, some rd, none, none)
  | .vcmpCc _ md _ _ _ => some (none, none, some md, none)
  | .mand md _ _ | .mor md _ _ | .mxor md _ _ => some (none, none, some md, none)
  | .mnot md _ | .mset md _ => some (none, none, some md, none)
  | .dfrom dd _ _ _ => some (none, none, none, some dd)
  | .dadd dd _ _ | .dsub dd _ _ | .dmul dd _ _ | .dmax dd _ _ | .dmin dd _ _ | .daff dd _ _ => some (none, none, none, some dd)
  | .dlinSet dd _ => some (none, none, none, some dd)
  | _ => none

end Sys2Proof.Safety
end

