-- ==== Sys2Proof/Certificates/Slice0/Obligations.lean ====
section
/-! DEFINITION. The statements for the provers. -/

open Sys2Proof Sys2Proof.Machine Sys2Proof.Safety

/-- R226, R227, R229, R231, R232: every integer instruction on two or three registers, in every state in which it may run, answers the
next state that writes G(fd) with the value the tables give and changes nothing else but the strand's own progress. R226 to R232: every integer instruction on a register and an immediate, or on one register, in every state in which it may run. -/
def Obligations.IntegerResult : Prop :=
  (∀ (e : Bool) (rd ra rb : GReg) (s : State), Ready s e true [ra, rb] [rd] →
     let a := reg s ra
     let b := reg s rb
     let n := b.toNat % 64
     let q := fun (x : Word) => Host.Outcome.next (wrote s e 8 rd x)
     exec (.add e rd ra rb) s = q (a + b) ∧
     exec (.sub e rd ra rb) s = q (a - b) ∧
     exec (.and e rd ra rb) s = q (a &&& b) ∧
     exec (.or e rd ra rb) s = q (a ||| b) ∧
     exec (.xor e rd ra rb) s = q (a ^^^ b) ∧
     exec (.andn e rd ra rb) s = q (a &&& ~~~b) ∧
     exec (.shl e rd ra rb) s = q (a <<< n) ∧
     exec (.shr e rd ra rb) s = q (a >>> n) ∧
     exec (.sar e rd ra rb) s = q (a.sshiftRight n) ∧
     exec (.ror e rd ra rb) s = q (a.rotateRight n) ∧
     exec (.min e rd ra rb) s = q (if b.toInt < a.toInt then b else a) ∧
     exec (.max e rd ra rb) s = q (if a.toInt < b.toInt then b else a) ∧
     exec (.minN e rd ra rb) s = q (if b.toNat < a.toNat then b else a) ∧
     exec (.maxN e rd ra rb) s = q (if a.toNat < b.toNat then b else a) ∧
     exec (.mul e rd ra rb) s = q (a * b) ∧
     exec (.mulh e rd ra rb) s = q (BitVec.ofInt 64 (a.toInt * b.toInt / 2 ^ 64)) ∧
     exec (.mulhN e rd ra rb) s = q (BitVec.ofNat 64 (a.toNat * b.toNat / 2 ^ 64)) ∧
     exec (.div e rd ra rb) s = q (if b = 0 then BitVec.allOnes 64 else BitVec.ofInt 64 (a.toInt.tdiv b.toInt)) ∧
     exec (.divN e rd ra rb) s = q (if b = 0 then BitVec.allOnes 64 else BitVec.ofNat 64 (a.toNat / b.toNat)) ∧
     exec (.rem e rd ra rb) s = q (if b = 0 then a else BitVec.ofInt 64 (a.toInt.tmod b.toInt)) ∧
     exec (.remN e rd ra rb) s = q (if b = 0 then a else BitVec.ofNat 64 (a.toNat % b.toNat)) ∧
     (∀ cc, exec (.setCc e cc rd ra rb) s = q (if Holds cc a b then 1 else 0)) ∧
     (∀ sh : BitVec 6, exec (.addsh e rd ra rb sh) s = q (a + b <<< sh.toNat)) ∧
     (∀ rc, Ready s e true [ra, rb, rc] [rd] → exec (.sel e rd ra rb rc) s = q (if reg s rc ≠ 0 then a else b))) ∧
  (∀ (e : Bool) (rd ra : GReg) (imm : BitVec 32) (s : State), Ready s e true [ra] [rd] →
     let a := reg s ra
     let b : Word := imm.signExtend 64
     let n := b.toNat % 64
     let q := fun (x : Word) => Host.Outcome.next (wrote s e 8 rd x)
     exec (.addi e rd ra imm) s = q (a + b) ∧
     exec (.subi e rd ra imm) s = q (a - b) ∧
     exec (.andi e rd ra imm) s = q (a &&& b) ∧
     exec (.ori e rd ra imm) s = q (a ||| b) ∧
     exec (.xori e rd ra imm) s = q (a ^^^ b) ∧
     exec (.andni e rd ra imm) s = q (a &&& ~~~b) ∧
     exec (.shli e rd ra imm) s = q (a <<< n) ∧
     exec (.shri e rd ra imm) s = q (a >>> n) ∧
     exec (.sari e rd ra imm) s = q (a.sshiftRight n) ∧
     exec (.rori e rd ra imm) s = q (a.rotateRight n) ∧
     exec (.mini e rd ra imm) s = q (if b.toInt < a.toInt then b else a) ∧
     exec (.maxi e rd ra imm) s = q (if a.toInt < b.toInt then b else a) ∧
     exec (.miniN e rd ra imm) s = q (if b.toNat < a.toNat then b else a) ∧
     exec (.maxiN e rd ra imm) s = q (if a.toNat < b.toNat then b else a) ∧
     exec (.muli e rd ra imm) s = q (a * b) ∧
     exec (.clz e rd ra) s = q a.clz ∧
     exec (.ctz e rd ra) s = q a.ctz ∧
     exec (.popc e rd ra) s = q a.cpop ∧
     exec (.brev e rd ra) s = q a.reverse ∧
     (∃ x : Word, (∀ i < 8, x.extractLsb' (8 * i) 8 = a.extractLsb' (8 * (7 - i)) 8) ∧ exec (.bswap e rd ra) s = q x) ∧
     (∀ w1 lo : BitVec 6,
       exec (.ext e rd ra true w1 lo) s = q ((a.extractLsb' lo.toNat (w1.toNat + 1)).signExtend 64) ∧
       exec (.ext e rd ra false w1 lo) s = q ((a.extractLsb' lo.toNat (w1.toNat + 1)).setWidth 64)) ∧
     (∀ w1 lo : BitVec 6, lo.toNat + w1.toNat + 1 ≤ 64 → ∃ x : Word,
       (∀ i < 64, x.getLsbD i =
         if lo.toNat ≤ i ∧ i < lo.toNat + w1.toNat + 1 then a.getLsbD (i - lo.toNat) else (reg s rd).getLsbD i) ∧
       exec (.ins e rd ra w1 lo) s = q x) ∧
     (∀ cc, exec (.setiCc e cc rd ra imm) s = q (if Holds cc a b then 1 else 0)) ∧
     (∀ v : Word, exec (.movi e rd v) s = Host.Outcome.next (wrote s e 12 rd v)) ∧
     exec (.addpc e rd imm) s = q (s.cur.pc + b))

/-- R206: what issuing an instruction of `len` bytes does to the strand's place. A transfer opens two delay slots, taken or not; the
target of a taken one follows the second slot; DS and XTGT carry it. The slots of one that is not taken are counted beside DS, which stays 0. -/
def Obligations.AdvanceOverDelaySlots : Prop :=
  ∀ (x : Slot) (len len1 len2 : Nat) (t : Word),
    let taken := x.transfer len (some t)
    let after1 := taken.advance len1
    let after2 := after1.advance len2
    (taken.pc = x.pc + BitVec.ofNat 64 len ∧ taken.ds = 2 ∧ taken.xtgt = t) ∧
    (after1.pc = taken.pc + BitVec.ofNat 64 len1 ∧ after1.ds = 1 ∧ after1.xtgt = t) ∧
    (after2.pc = t ∧ after2.ds = 0 ∧ after2.entered = true) ∧
    (let fallen := x.transfer len none
     let next1 := fallen.advance len1
     let next2 := next1.advance len2
     (fallen.pc = x.pc + BitVec.ofNat 64 len ∧ fallen.ds = 0 ∧ fallen.xtgt = x.xtgt ∧ fallen.slotPos = 2) ∧
     (next1.pc = fallen.pc + BitVec.ofNat 64 len1 ∧ next1.ds = 0 ∧ next1.slotPos = 1) ∧
     (next2.pc = next1.pc + BitVec.ofNat 64 len2 ∧ next2.ds = 0 ∧ next2.slotPos = 0)) ∧
    (taken.slotPos = 2 ∧ after1.slotPos = 1 ∧ after2.slotPos = 0) ∧
    (x.ds = 0 → (x.advance len).pc = x.pc + BitVec.ofNat 64 len ∧ (x.advance len).ds = 0 ∧ (x.advance len).entered = false) ∧
    (x.advance len).g = x.g ∧ (x.advance len).xtgt = x.xtgt ∧ taken.g = x.g ∧
    (∀ i < 32, i ≠ 2 → i ≠ 3 → taken.status.getLsbD i = x.status.getLsbD i ∧ (x.advance len).status.getLsbD i = x.status.getLsbD i)

/-- R233 to R236: each control transfer that may run answers the next state in which its delay slots follow, its target kept when it is
taken, and its link written, once the words of both slots are at hand. -/
def Obligations.ControlTransferResult : Prop :=
  ∀ (s : State) (rd ra rb : GReg) (cc : Cond) (imm disp : BitVec 32),
    let target : Word := s.cur.pc + 4 * disp.signExtend 64
    let linked := (begun s).modCur fun x => x.setG rd (link (s.setWait .none) s.cur.pc)
    (MayJump s [] [] → exec (.j disp) s = .next (moved 8 (some target) (begun s))) ∧
    (MayJump s [] [rd] → SlotsAtHand (s.setWait .none) s.cur.pc → exec (.jl rd disp) s = .next (moved 8 (some target) linked)) ∧
    (MayJump s [ra] [] → exec (.jr ra) s = .next (moved 8 (some (reg s ra)) (begun s))) ∧
    (MayJump s [ra] [rd] → SlotsAtHand (s.setWait .none) s.cur.pc → exec (.jlr rd ra) s = .next (moved 8 (some (reg s ra)) linked)) ∧
    (MayJump s [ra, rb] [] →
      exec (.bCc cc ra rb disp) s = .next (moved 8 (if Holds cc (reg s ra) (reg s rb) then some target else none) (begun s))) ∧
    (MayJump s [ra] [] →
      exec (.biCc cc ra imm disp) s =
        .next (moved 12 (if Holds cc (reg s ra) (imm.signExtend 64) then some target else none) (begun s)))

/-- R207: a control transfer, TRAP, BRK, TRET, REP, MIGR, EXIT or JOIN in a delay slot traps with DELAY_SLOT and has no effect. -/
def Obligations.DelaySlotRestriction : Prop :=
  ∀ (s : State) (i : Instr), s.cur.slotPos ≠ 0 ∨ s.cur.ds ≠ 0 → s.cur.inRep = false → s.cur.pend = 0 →
    (match i with
      | .j _ | .jl _ _ | .jr _ | .jlr _ _ | .bCc _ _ _ _ | .biCc _ _ _ _ | .fork _ _ _ _ | .trap _ | .brk _ | .tret | .rep _ _ _
      | .migr _ | .exit | .join _ _ => True
      | _ => False) →
    exec i s = .next (s.takeTrap s.core s.slot 0x03 s.cur.pc false)

/-- R362 to R365: taking a trap, in every state, for a user strand and for the supervisor slot. -/
def Obligations.TrapEntry : Prop :=
  ∀ (s : State) (cause : BitVec 8) (value : Word) (mal : Bool), Trapped s (s.takeTrap s.core s.slot cause value mal) cause value mal

/-- R237, R208, R202: TRAP takes SYSCALL, BRK takes BREAK, an undefined encoding takes ILLEGAL or LENGTH, and a fetch that failed takes
its cause; each is the trap's entry. That the link call (TRAP 0x40) waits for the strand's reductions, as a release does, is the model's reading of
R412 (DEDUCED, log 89). -/
def Obligations.TrapInstructions : Prop :=
  ∀ (s : State) (imm : BitVec 32) (cause : BitVec 8) (va : Word) (mal : Bool), NoSlot s → s.cur.inRep = false →
    ((imm = 0x40 → s.cur.osc = 0) → ∃ t, exec (.trap imm) s = .next t ∧ Trapped s t 0x07 (imm.setWidth 64) false) ∧
    (s.cur.osc ≠ 0 → exec (.trap 0x40) s = .next ((begun s).modCur fun x => { x with wait := .memory })) ∧
    (∃ t, exec (.brk imm) s = .next t ∧ Trapped s t 0x06 (imm.setWidth 64) false) ∧
    (∃ t, exec (.undefinedEncoding false) s = .next t ∧ Trapped s t 0x01 0 false) ∧
    (∃ t, exec (.undefinedEncoding true) s = .next t ∧ Trapped s t 0x02 s.cur.pc false) ∧
    (∃ t, exec (.fetchFault cause va mal) s = .next t ∧ Trapped s t cause va mal)

/-- R238: TRET. In a user slot it traps with PRIVILEGE. In the supervisor slot it resumes the suspended strand of the slot that XSEL
names: pc from XPC, and DS, RM, FLAGS, NB and M from XSTAT, the other status bits as they stand. Any other state of that slot stays. -/
def Obligations.TrapReturn : Prop :=
  ∀ (s : State), NoSlot s → s.cur.inRep = false →
    let k := (s.coreAt s.core).xsel.toNat
    let x := s.slotAt s.core k
    (s.slot < 15 → exec .tret s = .next (s.takeTrap s.core s.slot 0x04 0 false)) ∧
    (s.slot = 15 → ∃ t, exec .tret s = .next t ∧ t.mem = s.mem ∧
      (let y := t.slotAt s.core k
       let resumed := y.pc = x.xpc ∧ y.trapped = false ∧ y.g = x.g ∧ y.tags = x.tags ∧ y.xtgt = x.xtgt ∧ y.reps = x.reps ∧
         y.repa = x.repa ∧ y.xstat = x.xstat ∧
         (∀ i < 32, y.status.getLsbD i =
           if (2 ≤ i ∧ i ≤ 11) ∨ i = 13 ∨ i = 14 then x.xstat.getLsbD i else x.status.getLsbD i)
       (k ≠ 15 → x.occupied = true → x.trapped = true → resumed ∧ t.cur.pc = s.cur.pc + 8) ∧
       (k = 15 → (s.coreAt s.core).inTrap = true → resumed ∧ (t.coreAt s.core).inTrap = false) ∧
       (k ≠ 15 → ¬ (x.occupied = true ∧ x.trapped = true) → y = x ∧ t.cur.pc = s.cur.pc + 8) ∧
       (k = 15 → (s.coreAt s.core).inTrap = false → t.cur.pc = s.cur.pc + 8 ∧ t.cur.status = s.cur.status)))

/-- R208, R242, R286, R284, R326: NOP moves on; IFENCE discards the core's fetched instructions; PIN and UNPIN set the pin; YIELD makes
the slot not ready until the visit after its next one; VREL zeroes the vector registers and clears A. -/
def Obligations.StrandControlResult : Prop :=
  ∀ (s : State) (e : Bool),
    (Ready s e true [] [] → exec (.nop e) s = .next (done s e 8 .done (begun s))) ∧
    (Ready s false false [] [] →
      let q := fun (t : State) => Host.Outcome.next (ρ := Refusal) (φ := Fault) (done s false 8 .done t)
      (s.cur.osc = 0 → exec .ifence s = q ((begun s).modCore s.core fun c => { c with icache := [] })) ∧
      exec .pin s = q ((begun s).modCur fun x => { x with pin := true }) ∧
      exec .unpin s = q ((begun s).modCur fun x => { x with pin := false }) ∧
      exec .yield s = q ((begun s).modCur fun x => { x with yielded := 2 }) ∧
      ∃ t, exec .vrel s = q t ∧ t.cur.v = Vector.replicate 16 0 ∧ t.cur.m = Vector.replicate 8 0 ∧
        (∀ d : Fin 4, t.cur.d[d].lineage = 0 ∧ ∀ i < 6144, t.cur.d[d].image.getLsbD i =
          (decide (256 ≤ i % 384) && decide (i % 16 = 12))) ∧
        t.cur.g = s.cur.g ∧ t.cur.dstat = s.cur.dstat ∧
        (∀ i < 32, t.cur.status.getLsbD i = (decide (i ≠ 0) && s.cur.status.getLsbD i)))
/-- R239 to R241, R168, R183, R239, R364: SRD of each state register, in the slots that may read it, writes its value and nothing else;
that CALLH on core 0 reads PF0's queue unless that core is the root core of its partition is the model's reading (DEDUCED, log 25). R239, R240: an unassigned number traps with ILLEGAL; a register of the supervisor alone, or a write that the slot may not make, traps
with PRIVILEGE and the number; neither has an effect. -/
def Obligations.RegisterReadAndRefusal : Prop :=
  (∀ (s : State) (e : Bool) (rd : GReg), Ready s e false [] [rd] →
     let x := s.cur
     let c := s.coreAt s.core
     let p := s.partAt s.myPart
     let r := Reads s e rd
     (∀ k, Selects s k →
       (let y := s.slotAt s.core k
        r 0x000 y.xstat ∧ r 0x001 y.xcause ∧ r 0x002 y.xvalue ∧ r 0x003 y.xpc ∧ r 0x00C y.xtgt ∧ r 0x00D y.reps ∧ r 0x00E y.repa ∧
        (s.slot = 15 → r 0x870 (y.tags.setWidth 64) ∧ ∀ n : Fin 16, r (BitVec.ofNat 12 (0x860 + n.val)) y.g[n]))) ∧
     ((∀ k, ¬ Selects s k) →
       r 0x000 0 ∧ r 0x001 0 ∧ r 0x002 0 ∧ r 0x003 0 ∧ r 0x00C 0 ∧ r 0x00D 0 ∧ r 0x00E 0 ∧ r 0x870 0 ∧
       ∀ n : Fin 16, r (BitVec.ofNat 12 (0x860 + n.val)) 0) ∧
     r 0x005 (BitVec.ofNat 64 (s.core * 2 ^ 32 + s.myPart % 32 * 2 ^ 19 + s.vcnOf s.core * 2 ^ 8 + s.slot)) ∧
     (p.replay = .off → r 0x006 c.cycle) ∧
     r 0x007 (x.osc.setWidth 64) ∧
     (x.member = false → r 0x008 0) ∧
     (∀ l, x.member = true → p.liveLaunch x.lnum = some l →
       r 0x008 (BitVec.ofNat 64 (l.tolerant.toNat * 2 ^ 25 + 2 ^ 24 + l.tag.toNat * 2 ^ 16 + l.lnum.toNat))) ∧
     r 0x009 (BitVec.ofNat 64 (c.raised.toNat * 2 ^ 63 + c.sliceLen.toNat)) ∧
     r 0x00A x.dstat ∧ r 0x00B (x.status.setWidth 64 &&& 0xFF0) ∧
     r 0x010 x.lossI ∧ r 0x011 x.lossM ∧ r 0x012 x.lossG ∧ r 0x013 x.lossV ∧
     r 0x014 (BitVec.ofNat 64 (c.histSel.toNat * 2 ^ 59 + (c.hist.get 0 c.histSel.toNat).toNat)) ∧
     r 0x015 ((s.dieAt (s.core / 256)).fphase.setWidth 64) ∧ r 0x856 (c.hasid.setWidth 64) ∧
     (s.slot = 15 →
       r 0x004 c.xvec ∧ r 0x840 c.inva ∧ r 0x842 s.sys.astb ∧ r 0x846 p.shob ∧ r 0x847 p.shos ∧ r 0x848 (s.sys.vstb.get 0 s.myPart) ∧
       r 0x850 (c.dqt.setWidth 64) ∧ r 0x851 (c.dqb.setWidth 64) ∧ r 0x852 c.spb ∧ r 0x853 (c.fper.setWidth 64) ∧ r 0x854 c.lslk ∧
       r 0x855 (c.xsel.setWidth 64) ∧ r 0x885 p.savb ∧ r 0x886 p.chdisc ∧ r 0x889 p.calb ∧ r 0x88D p.trb ∧ r 0x88E p.trl ∧
       (∀ q rest, c.trapQ = q :: rest → r 0x880 q.w0 ∧ r 0x881 q.w1) ∧ (c.trapQ = [] → r 0x880 0) ∧
       (let f := if s.core = 0 ∧ (s.coreAt 0).vcn ≠ some 0 then 0 else s.myPart + 1
        (s.callQ f = [] → r 0x888 0) ∧ ∀ k rest, s.callQ f = k :: rest → r 0x888 (BitVec.ofNat 64 (2 ^ 63 + k))) ∧
       r 0x841 0 ∧ r 0x844 0 ∧ r 0x845 0 ∧ r 0x871 0 ∧ r 0x882 0 ∧ r 0x883 0 ∧ r 0x884 0 ∧ r 0x88A 0 ∧ r 0x88B 0 ∧ r 0x88C 0)) ∧
  (∀ (s : State) (e : Bool) (r : GReg) (num : BitVec 12),
     (Ready s e false [] [r] →
       (¬ Assigned num.toNat → TrapsWith s (.srd e r num) 0x01 0) ∧
       (Assigned num.toNat → s.slot ≠ 15 → num.toNat = 0x004 ∨ (0x800 ≤ num.toNat ∧ num.toNat ≠ 0x856) →
         TrapsWith s (.srd e r num) 0x04 (num.setWidth 64))) ∧
     (Ready s e false [r] [] →
       (¬ Assigned num.toNat → TrapsWith s (.swr e r num) 0x01 0) ∧
       (Assigned num.toNat → s.slot ≠ 15 →
         num.toNat ∉ [0x00A, 0x00B, 0x010, 0x011, 0x012, 0x013, 0x014] → TrapsWith s (.swr e r num) 0x04 (num.setWidth 64)) ∧
       (s.slot = 15 →
         num.toNat ∈ [0x005, 0x006, 0x007, 0x008, 0x015, 0x842, 0x848, 0x870, 0x880, 0x881, 0x888, 0x889, 0x88D, 0x88E] →
         TrapsWith s (.swr e r num) 0x04 (num.setWidth 64))))

/-- R239, R213, R220, R163, R241: SWR of each state register without behaviour of its own writes the value, in the slots that may write
it, and nothing else; REG_WRITE is the same write. -/
def Obligations.RegisterWrite : Prop :=
  ∀ (s : State) (e : Bool) (ra : GReg), Ready s e false [ra] [] →
    let v := reg s ra
    let w := fun (num : BitVec 12) (f : State → State) => Writes s e ra num (.regWrite num v) f
    let strand := fun (f : Slot → Slot) (t : State) => t.modCur f
    let core := fun (f : Core → Core) (t : State) => t.modCore s.core f
    (v.toNat < 4 → w 0x00A (strand fun x => { x with dstat := v })) ∧
    (v &&& 0xFF0 = v → v.toNat / 2 ^ 9 ≤ 4 →
      ∃ f : Slot → Slot, w 0x00B (strand f) ∧
        ∀ x, (f x) = { x with status := (f x).status } ∧
          ∀ i < 32, (f x).status.getLsbD i = if 4 ≤ i ∧ i < 12 then v.getLsbD i else x.status.getLsbD i) ∧
    w 0x010 (strand fun x => { x with lossI := v }) ∧ w 0x011 (strand fun x => { x with lossM := v }) ∧
    w 0x012 (strand fun x => { x with lossG := v }) ∧ w 0x013 (strand fun x => { x with lossV := v }) ∧
    (v.toNat % 2 ^ 59 = 0 → v.toNat / 2 ^ 59 ≤ 16 → w 0x014 (core fun c => { c with histSel := BitVec.ofNat 5 (v.toNat / 2 ^ 59) })) ∧
    (s.slot = 15 →
      (let address := v.toNat < 2 ^ 57 ∧ v.toNat % 4 = 0
       (address → w 0x004 (core fun c => { c with xvec := v })) ∧
       ((v &&& 0x7FFFFFFF00000000) = 0 → w 0x009 (core fun c => { c with sliceLen := v.setWidth 32, raised := false })) ∧
       w 0x840 (core fun c => { c with inva := BitVec.ofNat 64 (v.toNat / 2 ^ 12 % 2 ^ 45 * 2 ^ 12) }) ∧
       w 0x850 (core fun c => { c with dqt := v.setWidth 32 }) ∧ w 0x851 (core fun c => { c with dqb := v.setWidth 32 }) ∧
       (v.toNat < 2 ^ 52 → v.toNat % 2 ^ 12 = 0 → w 0x852 (core fun c => { c with spb := v })) ∧
       (16 ≤ v.toNat → v.toNat ≤ 24 → w 0x853 (core fun c => { c with fper := v.setWidth 5 })) ∧
       (v.toNat < 16 → w 0x855 (core fun c => { c with xsel := v.setWidth 4 })) ∧
       w 0x886 (fun t => t.modPart s.myPart fun p => { p with chdisc := v }) ∧
       (∀ k, Selects s k →
         (let sel := fun (f : Slot → Slot) (t : State) => t.modSlot s.core k f
          (v.toNat < 2 ^ 32 → w 0x000 (sel fun y => { y with xstat := v })) ∧
          (v.toNat < 2 ^ 9 → w 0x001 (sel fun y => { y with xcause := v })) ∧
          w 0x002 (sel fun y => { y with xvalue := v }) ∧
          (address → w 0x003 (sel fun y => { y with xpc := v }) ∧ w 0x00C (sel fun y => { y with xtgt := v }) ∧
            w 0x00E (sel fun y => { y with repa := v, block := [] })) ∧
          (v.toNat % 2 ^ 37 = 0 → (v >>> 40).toNat % 2 ^ 8 ≤ (v >>> 52).toNat % 2 ^ 8 → (v >>> 37).toNat % 2 ^ 3 ≤ (v >>> 60).toNat % 2 ^ 3 →
            w 0x00D (sel fun y => { y with reps := v, block := [] })) ∧
          ∀ n : Fin 16, w (BitVec.ofNat 12 (0x860 + n.val)) (sel fun y => y.setG (BitVec.ofNat 4 n.val) v)))))
/-- R417, R168, R364, R380, R241, R368: writes of the registers with behaviour of their own that answer at once: HASID takes an ASID that
the partition owns; LSLK the lock; TQPOP removes the head record; DSTOP stops at the next boundary or ends a stop; XJNT sets the tag of a
register that holds a joint; XKILL discards a suspended or stopped strand. R152, R372, R75 to R77, R384, R385, R387: writes of the registers that act on the partition, on the directory beside the core's router
and on the call area; that core 0 acts on PF0's area unless it is the root core of its partition is the model's reading (DEDUCED, log 25).
R37 to R39: SWR of INVD, in each of its forms. It enters the partition's sequencer; at its head, every cached translation it names
leaves every TLB and walk cache, every unit of the partition starts a new generation, and the acknowledgement becomes due. The strand waits for its shootdown, and the write is complete once it is answered. -/
def Obligations.ActionWrites : Prop :=
  ((∀ (s : State) (e : Bool) (ra : GReg), Ready s e false [ra] [] → s.slot = 15 →
      let v := reg s ra
      let k := v.toNat % 16
      let x := s.slotAt s.core k
      (let entry := s.sys.ast.get 0 v.toNat
       v.toNat < 256 → entry.getLsbD 0 = true → entry.toNat / 4 % 32 = s.myPart →
        Writes s e ra 0x856 (.hasidWrite v) fun t => t.modCore s.core fun c => { c with hasid := v.setWidth 8 }) ∧
      (v &&& 0x7FFF7FFF0 = v → Writes s e ra 0x854 (.lslkWrite v) fun t => t.modCore s.core fun c => { c with lslk := v }) ∧
      ((s.coreAt s.core).held = [] →
        Writes s e ra 0x882 (.tqpopWrite v) fun t => t.modCore s.core fun c => { c with trapQ := c.trapQ.drop 1 }) ∧
      ((s.coreAt s.core).held ≠ [] →
        Writes s e ra 0x882 (.tqpopWrite v) fun t =>
          (t.modCore s.core fun c => { c with trapQ := c.trapQ.drop 1 }).post (.trapQueueEntry s.core)) ∧
      (v &&& 0x1F = v → k ≠ 15 → v.getLsbD 4 = true →
        (x.occupied = true → x.stopped = false →
          Writes s e ra 0x884 (.dstopStop v) fun t => t.modSlot s.core k fun y => { y with stopReq := true }) ∧
        (x.stopped = true → Writes s e ra 0x884 (.dstopStop v) fun t => t)) ∧
      (v &&& 0x1F = v → k ≠ 15 → v.getLsbD 4 = false →
        (x.stopped = true → Writes s e ra 0x884 (.dstopRestart v) fun t => t.modSlot s.core k fun y => { y with stopped := false }) ∧
        (x.stopped = false → Writes s e ra 0x884 (.dstopRestart v) fun t => t)) ∧
      (v.toNat < 16 → ∀ j, Selects s j →
        (let g := (s.slotAt s.core j).g[k]!
         (g.toNat / 2 ^ 24 % 4 ≠ 0 → g.toNat / 2 ^ 26 % 64 = 0 →
          Writes s e ra 0x871 (.xjntWrite v) fun t => t.modSlot s.core j fun y => { y with tags := setBit y.tags k true }) ∧
         (g.toNat / 2 ^ 24 % 4 = 0 ∨ g.toNat / 2 ^ 26 % 64 ≠ 0 → TrapsWith s (.swr e ra 0x871) 0x01 0))) ∧
      (v &&& 0x10F = v → k ≠ 15 → s.cur.op = .idle →
        (x.occupied = false → Writes s e ra 0x883 (.xkillWrite v) fun t => t) ∧
        (x.occupied = true → x.trapped = true ∨ x.stopped = true →
          Writes s e ra 0x883 (.xkillWrite v) fun t => t.discard s.core k (v.getLsbD 8)))) ∧
   (∀ (s : State) (e : Bool) (ra : GReg), Ready s e false [ra] [] → s.slot = 15 →
      let v := reg s ra
      let p := s.partAt s.myPart
      let part := fun (f : Sys2Proof.Machine.Part → Sys2Proof.Machine.Part) (t : State) => t.modPart s.myPart f
      let line := v.toNat / 2 ^ 6 % 2 ^ 46
      let lists := fun (f : ListRequest → ListRequest) (t : State) =>
        t.modDie (dieOf (line * 64)) fun d => { d with lists := d.lists.map fun l => if l.line = line then f l else l }
      let f := if s.core = 0 ∧ (s.coreAt 0).vcn ≠ some 0 then 0 else s.myPart + 1
      let g := if s.myPart = 32 then 0 else s.myPart + 1
      (v.toNat < 2 ^ 52 → v.toNat % 2 ^ 11 = 0 →
        (p.shos.getLsbD 5 = false → p.shadowIdle = true → Writes s e ra 0x846 (.shobWrite v) (part fun p => { p with shob := v })) ∧
        (p.shos.getLsbD 5 = true ∨ p.shadowIdle = false → Writes s e ra 0x846 (.shobWrite v) fun t => t)) ∧
      (v.toNat < 64 → 4 ≤ v.toNat % 32 → v.toNat % 32 ≤ 19 →
        (v.getLsbD 5 = true → p.shob.toNat % 2 ^ (v.toNat % 32 + 11) = 0) →
        (p.shadowIdle = true → Writes s e ra 0x847 (.shosWrite v) (part fun p => { p with shos := v })) ∧
        (p.shadowIdle = false → Writes s e ra 0x847 (.shosWrite v) fun t => t)) ∧
      (v.toNat < 2 ^ 52 → v.toNat / 2 % 2 ^ 19 = 0 →
        (s.savingPart s.myPart = false → Writes s e ra 0x885 (.savbWrite v) (part fun p => { p with savb := v })) ∧
        (s.savingPart s.myPart = true → Writes s e ra 0x885 (.savbWrite v) fun t => t)) ∧
      (v.toNat % 64 = 0 → s.homeQuadOf (line * 64) = s.core / 4 →
        Writes s e ra 0x844 (.dirptrWrite v)
          (lists fun l => if l.ready then l else { l with ptrs := l.ptrs ++ [BitVec.ofNat 12 (v.toNat / 2 ^ 52)] })) ∧
      (v.toNat < 2 ^ 52 → v.toNat % 64 = 0 → s.homeQuadOf (line * 64) = s.core / 4 →
        Writes s e ra 0x845 (.dirdoneListComplete v) (lists fun l => { l with ready := true })) ∧
      (v.toNat < 2 ^ 52 → v.toNat % 64 = 1 → s.homeQuadOf (line * 64) = s.core / 4 →
        ((s.dirAt line).getLsbD 53 = true ∨ ∃ l ∈ (s.dieAt (dieOf (line * 64))).lists, l.line = line ∧ l.ready = false) →
        Writes s e ra 0x845 (.dirdoneBroadcast v) fun t =>
          lists (fun l => { l with ready := true }) (t.setDir line (setBit (t.dirAt line) 52 true))) ∧
      Writes s e ra 0x88A (.callpopWrite v) (fun t => t.callPop f) ∧
      (v.toNat < 2 ^ 19 → v.toNat % 64 = 0 → s.cur.osc = 0 →
        Writes s e ra 0x88C (.frecWrite v) fun t => t.postRecord g (Memory.readList s.mem (lsKey s.core v.toNat) 64)) ∧
      (∀ k x t, v = BitVec.ofNat 64 (k * 2 ^ 32 + v.toNat % 2 ^ 19) → k < 64 → v.toNat % 32 = 0 → s.cur.osc = 0 →
        (s.frames f).find k = some x → x.replied = false → hdrReply x.bytes ≠ 0 →
        (begun s).replyFrame f k (Memory.readList s.mem (lsKey s.core (v.toNat % 2 ^ 19)) 32) = .ok t →
        Writes s e ra 0x88B (.callrWrite v) fun _ => t))) ∧
  (∀ (s : State) (e : Bool) (ra : GReg), Ready s e false [ra] [] → s.slot = 15 →
     let v := reg s ra
     let kind := v.toNat % 4
     let page := (s.coreAt s.core).inva.toNat / 2 ^ 12 % 2 ^ 45
     let size := if kind = 1 then 2 ^ (v.toNat / 2 ^ 16 % 64) else 1
     let asid := BitVec.ofNat 8 (v.toNat / 2 ^ 8)
     let event : Instr := if kind = 0 then .invdOnePage v else if kind = 1 then .invdRange v else if kind = 2 then .invdAsid v else
       .invdPartition v
     let inRange := fun (t : TlbEntry) =>
       t.page * 2 ^ (t.log2 - 12) < (page / size + 1) * size ∧ page / size * size < (t.page + 1) * 2 ^ (t.log2 - 12)
     let named := fun (t : TlbEntry) =>
       if kind = 3 then t.part = s.myPart
       else if kind = 2 then t.leaf.getLsbD 9 = false ∧ t.asid = asid
       else (if t.leaf.getLsbD 9 = true then t.part = s.myPart else t.asid = asid) ∧ inRange t
     let pointed := fun (t : PointerEntry) =>
       if kind = 3 then t.part = s.myPart
       else if kind = 2 then t.asid = asid
       else t.part = s.myPart ∧ t.page * 2 ^ (9 * t.level) < (page / size + 1) * size ∧ page / size * size < (t.page + 1) * 2 ^ (9 * t.level)
     let moves := fun (g h : GenCount) => h.now = 0 ∧ h.before = g.before + g.now
     v.toNat < 2 ^ 22 → v.toNat / 4 % 64 = 0 → (kind = 1 → v.toNat / 2 ^ 16 % 64 ≤ 30) → (kind = 3 → v.toNat / 2 ^ 8 % 2 ^ 8 = 0) →
     (kind ≠ 3 → (s.sys.ast.get 0 asid.toNat).toNat / 4 % 32 = s.myPart) →
     (∀ x, s.cur.op = .done x → Writes s e ra 0x841 event fun t => t.modCur fun y => { y with op := .idle }) ∧
     (s.cur.op = .idle → e = false → ∀ i, i = Instr.swr e ra 0x841 ∨ i = event →
       ∃ t, exec i s = .next t ∧ t.cur.op = .waiting ∧ t.cur.wait = .memory ∧ t.cur.pc = s.cur.pc ∧ t.cur.g = s.cur.g ∧ t.mem = s.mem ∧
         (t.partAt s.myPart).shoots.map (fun h => (h.d, h.inva, h.core, h.slot)) =
           (s.partAt s.myPart).shoots.map (fun h => (h.d, h.inva, h.core, h.slot)) ++ [(v, (s.coreAt s.core).inva, s.core, s.slot)] ∧
         ((s.partAt s.myPart).shoots = [] → t.events = s.events ++ [.shootdownAcknowledge s.myPart] ∧
           (∀ c co, (c, co) ∈ t.cores → ∀ y ∈ co.l1tlb, ¬ named y) ∧ (∀ q qu, (q, qu) ∈ t.quads → ∀ y ∈ qu.l2tlb, ¬ named y) ∧
           (∀ c, ∀ y ∈ (s.coreAt c).l1tlb, ¬ named y → y ∈ (t.coreAt c).l1tlb) ∧
           (∀ q, ∀ y ∈ (s.quadAt q).l2tlb, ¬ named y → y ∈ (t.quadAt q).l2tlb) ∧
           (∀ d di, (d, di) ∈ t.dies → ∀ y ∈ di.walkCache, ¬ pointed y) ∧
           (∀ d, ∀ y ∈ (s.dieAt d).walkCache, ¬ pointed y → y ∈ (t.dieAt d).walkCache) ∧
           ∀ c, c / 4 ∈ (s.partAt s.myPart).quads →
             moves (s.coreAt c).gen (t.coreAt c).gen ∧ moves (s.coreAt c).trussGen (t.coreAt c).trussGen ∧
             moves (s.quadAt (c / 4)).copyGen (t.quadAt (c / 4)).copyGen)))

/-- R248 to R250, R27, R49: loads and stores of every size, extension and order on the issuing core's own local store, aligned or not: a load
writes the little-endian bytes there, extended, and nothing else; a store writes its register's low bytes there, and nothing else. -/
def Obligations.LocalLoadStoreResult : Prop :=
  ∀ (s : State) (e : Bool) (rd ra rb rc : GReg) (m : MForm) (off : Nat),
    let n := m.size.bytes
    let key := 2 ^ 52 + s.core * 2 ^ 19 + off
    (Ready s e false [ra] (sizeRegs m rd) → OwnStore s (address s ra m) off n → InOrder s m.order →
      exec (.ld e rd ra m) s = .next (wroteSized s e m rd (s.load key n) (begun s))) ∧
    (Ready s e false [ra, rb] (sizeRegs m rd) → OwnStore s (indexed s ra rb m) off n → InOrder s m.order →
      exec (.ldx e rd ra rb m) s = .next (wroteSized s e m rd (s.load key n) (begun s))) ∧
    (Ready s e false (ra :: sizeRegs m rc) [] → OwnStore s (address s ra m) off n → InOrder s m.order →
      exec (.st e ra rc m) s = .next (done s e 8 .done (stored (begun s) key (toBytes n (sizeValue s m rc))))) ∧
    (Ready s e false (ra :: rb :: sizeRegs m rc) [] → OwnStore s (indexed s ra rb m) off n → InOrder s m.order →
      exec (.stx e ra rb rc m) s = .next (done s e 8 .done (stored (begun s) key (toBytes n (sizeValue s m rc)))))

/-- R78 to R82, R256: AMO, CAS and RED on the issuing core's own local store, aligned. One read-modify-write of the size, logged in record mode (R393); AMO and CAS write
the old value. A misaligned one traps with ALIGN. R251: bit-granular access to W bits at bit address 8 base + x, contiguous mode, and BLD's bit-plane mode, on the issuing core's own local
store: BLD writes the element, extended; BST replaces exactly those bits of the words that hold them. -/
def Obligations.LocalAtomicAndBitResult : Prop :=
  (∀ (s : State) (e : Bool) (rd ra rb rc : GReg) (m : MForm) (off : Nat),
     let n := m.size.bytes
     let key := 2 ^ 52 + s.core * 2 ^ 19 + off
     let live := (s.partAt s.myPart).replay ≠ .replay
     let a := address s ra m
     let old := s.load key n
     let o := BitVec.ofNat (8 * n) old
     let x := BitVec.ofNat (8 * n) (reg s rc).toNat
     let after := fun (y : BitVec (8 * n)) => ((begun s).logChoice s.myPart .atomicOrder s.core [key / 16]).store key n y.toNat
     let amo := fun (op : AmoOp) (y : BitVec (8 * n)) => exec (.amo e op rd ra rc m) s = .next (wroteSized s e m rd old (after y))
     let red := fun (op : RedOp) (y : BitVec (8 * n)) => exec (.red e op ra rc m) s = .next (done s e 8 .done (after y))
     (Ready s e false [ra, rc] [rd] → live → m.size ≠ .q → a.toNat % n = 0 → OwnStore s a off n → InOrder s m.order →
       amo .add (o + x) ∧ amo .and (o &&& x) ∧ amo .or (o ||| x) ∧ amo .xor (o ^^^ x) ∧ amo .swap x ∧
       amo .min (if x.toInt < o.toInt then x else o) ∧ amo .max (if o.toInt < x.toInt then x else o) ∧
       amo .minN (if x.toNat < o.toNat then x else o) ∧ amo .maxN (if o.toNat < x.toNat then x else o) ∧
       (m.size = .w → amo .faddF32 (BitVec.ofNat (8 * n) (fpAdd fp32 o.toNat x.toNat)))) ∧
     (Ready s e false [ra, rc] [] → live → m.size ≠ .q → a.toNat % n = 0 → OwnStore s a off n → InOrder s m.order → s.cur.osc ≠ 65535 →
       red .add (o + x) ∧ red .and (o &&& x) ∧ red .or (o ||| x) ∧ red .xor (o ^^^ x) ∧
       red .min (if x.toInt < o.toInt then x else o) ∧ red .max (if o.toInt < x.toInt then x else o) ∧
       red .minN (if x.toNat < o.toNat then x else o) ∧ red .maxN (if o.toNat < x.toNat then x else o) ∧
       (m.size = .w → red .faddF32 (BitVec.ofNat (8 * n) (fpAdd fp32 o.toNat x.toNat))) ∧
       (m.size = .h → red .faddBf16 (BitVec.ofNat (8 * n) (fpAdd bf16 o.toNat x.toNat)))) ∧
     (Ready s e false (ra :: sizeRegs m rb ++ sizeRegs m rc) (sizeRegs m rd) → live → a.toNat % n = 0 → OwnStore s a off n →
       InOrder s m.order →
       exec (.cas e rd ra rb rc m) s =
         .next (wroteSized s e { m with zx := true } rd old (after (if old = sizeValue s m rb then BitVec.ofNat _ (sizeValue s m rc) else o)))) ∧
     (∀ op, Ready s e false [ra, rc] [rd] → a.toNat % n ≠ 0 → TrapsWith s (.amo e op rd ra rc m) 0x08 a) ∧
     (∀ op, Ready s e false [ra, rc] [] → a.toNat % n ≠ 0 → TrapsWith s (.red e op ra rc m) 0x08 a) ∧
     (Ready s e false (ra :: sizeRegs m rb ++ sizeRegs m rc) (sizeRegs m rd) → a.toNat % n ≠ 0 →
       TrapsWith s (.cas e rd ra rb rc m) 0x08 a)) ∧
  (∀ (s : State) (e : Bool) (rd ra rb rc : GReg) (m : MForm) (off : Nat),
     let w := m.disp.toNat % 32 + 1
     let p := m.disp.toNat / 32 % 32 + 1
     let planes := m.disp.toNat / 2 ^ 18 % 4 = 1
     let x := (reg s rb).toNat
     let b := (8 * (reg s ra).toNat + x) % 2 ^ 67
     let k := (b % 32 + w + 31) / 32
     let at_ : Word := BitVec.ofNat 64 (b / 32 * 4)
     let ext := fun (f : Nat) => if m.zx then BitVec.ofNat 64 f else (BitVec.ofNat w f).signExtend 64
     let key := 2 ^ 52 + s.core * 2 ^ 19 + off
     (Ready s e false [ra, rb] [rd] → ¬ planes → OwnStore s (BitVec.ofNat 64 (b / 8)) off ((b % 8 + w + 7) / 8) → InOrder s m.order →
       exec (.bld e rd ra rb m) s =
         .next (wrote s e 8 rd (ext (s.load key ((b % 8 + w + 7) / 8) / 2 ^ (b % 8) % 2 ^ w)))) ∧
     (Ready s e false [ra, rb] [rd] → planes → p ≤ w →
       OwnStore s (reg s ra + BitVec.ofNat 64 (x / 64 * (8 * w))) off (8 * p) → InOrder s m.order →
       ∃ f : BitVec w, (∀ i < w, f.getLsbD i = (decide (w ≤ i + p) && (s.load key (8 * p)).testBit (64 * (w - 1 - i) + x % 64))) ∧
         exec (.bld e rd ra rb m) s = .next (wrote s e 8 rd (ext f.toNat))) ∧
     (Ready s e false [ra, rb, rc] [] → OwnStore s at_ off (4 * k) → InOrder s m.order →
       exec (.bst e ra rb rc m) s =
         .next (done s e 8 .done
           ((begun s).store key (4 * k) (setField (BitVec.ofNat (32 * k) (s.load key (4 * k))) (b % 32) w (reg s rc).toNat).toNat))))

/-- R21 to R33, R45, R93, R250: loads and stores of physical memory through a cached translation to a page of kind SO or RC: a load writes
the bytes at the physical address and changes no byte of memory; a store changes exactly those bytes. -/
def Obligations.PhysicalLoadStoreResult : Prop :=
  ∀ (s : State) (rd ra rc : GReg) (m : MForm) (pa : Nat),
    let n := m.size.bytes
    (Ready s false false [ra] (sizeRegs m rd) → Reachable s (address s ra m) n false pa →
      ∃ t, exec (.ld false rd ra m) s = .next t ∧ t.mem = s.mem ∧
        StrandIs s t (wroteSized s false m rd (s.load pa n) (begun s)).cur) ∧
    (Ready s false false (ra :: sizeRegs m rc) [] → Reachable s (address s ra m) n true pa →
      ∃ t, exec (.st false ra rc m) s = .next t ∧ t.mem = (s.storeBytes pa (toBytes n (sizeValue s m rc))).mem ∧
        StrandIs s t (done s false 8 .done (stored (begun s) pa [])).cur)

/-- R21, R25, R27: an access that a cached translation does not permit traps with PAGE_PROTECT, a page of KIND 11 with PAGE_KIND, an address
above bit 56 with PAGE_NOT_PRESENT, and a user access beyond the program range of a local store with PAGE_PROTECT; XVALUE is the address,
and no byte of memory changes unless the partition's trace is on. -/
def Obligations.AccessTraps : Prop :=
  ∀ (s : State) (rd ra rc : GReg) (m : MForm) (store : Bool),
    let n := m.size.bytes
    let a := address s ra m
    let i : Instr := if store then .st false ra rc m else .ld false rd ra m
    (if store then Ready s false false (ra :: sizeRegs m rc) [] else Ready s false false [ra] (sizeRegs m rd)) → InOrder s m.order →
    a.toNat % 64 + n ≤ 64 → (s.partAt s.myPart).trOn = false →
    let traps := fun (cause : BitVec 8) => ∃ t, exec i s = .next t ∧ Trapped s t cause a false ∧ t.mem = s.mem
    (s.slot < 15 → 2 ^ 57 ≤ a.toNat → traps 0x09) ∧
    (s.slot < 15 → s.asidOwned s.me.asid s.myPart = true → ∀ t, a.toNat < 0x7E0000000000 → s.tlbFind s.core s.myPart s.me.asid a.toNat = some t →
      (store = true → t.leaf.getLsbD 11 = true) →
      (t.leaf.getLsbD (if store then 2 else 1) = false → traps 0x0A) ∧
      (t.leaf.getLsbD (if store then 2 else 1) = true → t.leaf.toNat / 2 ^ 4 % 4 = 3 → traps 0x0B)) ∧
    (∀ off, s.slot < 15 → a = BitVec.ofNat 64 (0x7E0000000000 + off) → off + n ≤ 2 ^ 19 → 0x70000 < off + n → traps 0x0A)

/-- R253 to R255, R107: PF never faults and changes no register; CWB and CINV of a local-store address do nothing; FENCE and WOSC complete
once what they wait for is complete, and a FENCE without kind u changes no state but the strand's progress; with it, once the homes have taken
the dirty sectors, no unregistered line stays in the core's L1. R253, R104: what CWB and CINV do to a line of the issuing core's L1 that a page of kind UO has brought there: its dirty
sectors, and only they, are written to memory; CWB leaves the line, clean, and CINV drops it. -/
def Obligations.LineOperationAndFenceResult : Prop :=
  (∀ (s : State) (ra : GReg) (m : MForm) (off : Nat) (kinds : BitVec 4) (scope : Scope),
     (Ready s false false [ra] [] →
       exec (.pf ra m) s = .next (done s false 8 .done ((begun s).prefetch (address s ra m))) ∧
       (s.cur.occupied = true → s.cur.member = false →
         StrandIs s (done s false 8 .done ((begun s).prefetch (address s ra m))) (done s false 8 .done (begun s)).cur)) ∧
     (Ready s false false [ra] [] → OwnStore s (address s ra m) off 1 →
       exec (.cwb ra m) s = .next (done s false 8 .done (begun s)) ∧ exec (.cinv ra m) s = .next (done s false 8 .done (begun s))) ∧
     (∀ pa leaf u v, Ready s false false [ra] [] → giveBack (begun s).me (pa / 64) u = .ok ((), v) →
       (resolve (begun s).me .writeBack (address s ra m) 1 (begun s) = .ok (.phys pa leaf, u) →
         exec (.cwb ra m) s = .next (done s false 8 .done (v.cleanLine v.core (pa / 64)))) ∧
       (resolve (begun s).me .invalidate (address s ra m) 1 (begun s) = .ok (.phys pa leaf, u) →
         exec (.cinv ra m) s = .next (done s false 8 .done (v.dropLine v.core (pa / 64))))) ∧
     (Ready s false false [] [] → s.cur.osc = 0 → exec .wosc s = .next (done s false 8 .done (begun s))) ∧
     (Ready s false false [] [] → s.cur.osc = 0 → (kinds.getLsbD 1 = true → s.cur.pend = 0) →
       (kinds.getLsbD 2 = true → ∀ x ∈ s.sys.transit, x.sid = s.cur.sid → x.landed = true) →
       (kinds.getLsbD 0 = false ∨ scope = .core → exec (.fence kinds scope) s = .next (done s false 8 .done (begun s))) ∧
       (∀ u, kinds.getLsbD 0 = true → scope ≠ .core → giveBackAll (begun s).me ((begun s).dirtyUo s.core) (begun s) = .ok ((), u) →
         ∃ t, exec (.fence kinds scope) s = .next t ∧ (s.cur.member = false → StrandIs s t (done s false 8 .done (begun s)).cur) ∧
           ∀ l, l ∈ (t.coreAt s.core).l1 → l.2.uo = false) ∧
       (kinds.getLsbD 0 = true → scope ≠ .core → (∀ l ∈ (s.coreAt s.core).l1, l.2.uo = true → l.2.dirty = 0) →
         ∃ t, exec (.fence kinds scope) s = .next t ∧ t.mem = s.mem ∧ StrandIs s t (done s false 8 .done (begun s)).cur ∧
           ∀ l, l ∈ (t.coreAt s.core).l1 → l.2.uo = false))) ∧
  (∀ (s : State) (core line : Nat) (l : CacheLine),
     MemOk s → (s.coreAt core).l1.find line = some l → l.vtag = 0 → l.uo = true → HomeReady s line →
     (core / 256 ≠ dieOf (line * 64) → ∀ r, (s.dieAt (core / 256)).rdc.find line = some r → r.uo = true ∨ r.state ≠ .updateOnly) →
     let written := fun (t : State) => MemOk t ∧ ∀ a, Memory.read t.mem a =
       if line * 64 ≤ a ∧ a < line * 64 + 64 ∧ l.dirty.getLsbD ((a - line * 64) / 16) = true then
         l.data.extractLsb' (8 * (a - line * 64)) 8
       else Memory.read s.mem a
     written (s.cleanLine core line) ∧ written (s.dropLine core line) ∧
     (∃ k, ((s.cleanLine core line).coreAt core).l1.find line = some k ∧ k.dirty = 0 ∧ k.data = l.data ∧ k.valid = l.valid) ∧
     ∀ j k, (j, k) ∈ ((s.dropLine core line).coreAt core).l1 → j ≠ line)
/-- R258 to R262, R180, R181: BINIT, BARR, BEXP, BWAIT and BTEST on a barrier object for which nothing is parked or armed. BINIT writes it
whole; BARR and BEXP update PEND and COUNT, and the phase completes when both are zero; BARR, BWAIT and BTEST write the phase they found.
No other byte of memory changes. R264, R182: ARM keeps an action for a phase that has not been reached, and fires one for a phase
that has; while the core holds 16 it waits. -/
def Obligations.BarrierResult : Prop :=
  (∀ (s : State) (rd ra rb rc : GReg) (m : MForm) (core off phase pend reload : Nat) (o : Bool) (count : Word),
     MemOk s → BarrierAt s (address s ra m) core off → Unattended s core off → Passes s core → Unreduced s .rlx →
     let ran := fun (i : Instr) (f : Slot → Slot) (phase' pend' : Nat) (count' : Word) =>
       ∃ t, exec i s = .next t ∧ StrandIs s t (after s 8 f) ∧ ObjectIs t core off phase' pend' reload o count' ∧
         SameOutside s t (2 ^ 52 + core * 2 ^ 19 + off) 16
     let found := fun (x : Slot) => x.setG rd (BitVec.ofNat 64 phase)
     (Ready s false false [ra, rb] [] → (reg s rb).toNat = reload + o.toNat * 2 ^ 16 → reload < 2 ^ 16 →
       ran (.binit ra rb m) id 0 reload 0) ∧
     (ObjectIs s core off phase pend reload o count → Ready s false false [ra] [rd] → s.cur.osc = 0 →
       (1 < pend ∨ (pend = 1 ∧ 0 < count.toInt) ∨ (pend = 1 ∧ count.toInt < 0 ∧ o = false) →
         ran (.barr rd ra m) found phase (pend - 1) count) ∧
       (pend = 1 → count = 0 → ran (.barr rd ra m) found ((phase + 1) % 4096) reload 0) ∧
       (pend = 0 → TrapsWith s (.barr rd ra m) 0x19 (BitVec.ofNat 64 off))) ∧
     (ObjectIs s core off phase pend reload o count → Ready s false false [ra, rc] [] →
       (let count' := count + reg s rc
        (pend ≠ 0 ∨ 0 < count'.toInt ∨ (count'.toInt < 0 ∧ (o = false ∨ count.toInt < 0)) → ran (.bexp ra rc m) id phase pend count') ∧
        (pend = 0 → count' = 0 → ran (.bexp ra rc m) id ((phase + 1) % 4096) reload 0))) ∧
     (ObjectIs s core off phase pend reload o count → Ready s false false [ra, rb] [rd] → (reg s rb).toNat < 4096 → Unreduced s .acq →
       (let passed := (phase + 4096 - (reg s rb).toNat) % 4096
        let done := 1 ≤ passed ∧ passed ≤ 2047
        (done → ran (.bwait rd ra rb m) found phase pend count) ∧
        (¬ done → ∃ t, exec (.bwait rd ra rb m) s = .next t ∧ t.mem = s.mem ∧
          StrandIs s t { (begun s).cur with wait := .message }) ∧
        (done → ran (.btest rd ra rb m) (fun x => x.setG rd (BitVec.ofNat 64 (4096 + phase))) phase pend count) ∧
        (¬ done → ran (.btest rd ra rb m) found phase pend count)))) ∧
  (∀ (s : State) (ra rb rc : GReg) (m : MForm) (core off phase pend reload p action : Nat) (o : Bool) (count : Word),
     Ready s false false [ra, rb, rc] [] → BarrierAt s (address s ra m) core off → Passes s core → Unreduced s .rlx →
     ObjectIs s core off phase pend reload o count →
     reg s rb = BitVec.ofNat 64 (p + action * 2 ^ 12) → p < 4096 → action < 3 →
     (action = 0 → (reg s rc).toNat % 32 = 0 ∧ (reg s rc).toNat + 32 ≤ 0x70000) →
     (action = 1 → (reg s rc).toNat % 64 = 0 ∧ (reg s rc).toNat + 64 ≤ 0x70000) →
     (action = 2 → (reg s rc).toNat < 256) →
     let e : Armed := { off := off, phase := BitVec.ofNat 12 p, action := BitVec.ofNat 2 action, arg := reg s rc, owner := s.owner }
     let ahead := (p + 4096 - phase) % 4096
     (1 ≤ ahead → ahead ≤ 2047 → (s.coreAt core).armed.length < 16 →
       exec (.arm ra rb rc m) s =
         .next (done s false 8 .done ((begun s).modCore core fun c => { c with armed := c.armed ++ [e] }))) ∧
     (ahead = 0 ∨ 2048 ≤ ahead → (s.coreAt core).armed.length < 16 →
       exec (.arm ra rb rc m) s = .next (done s false 8 .done ((begun s).fire core e))) ∧
     (16 ≤ (s.coreAt core).armed.length → exec (.arm ra rb rc m) s = .next (waiting s .memory)))

/-- R263, R171: NBAR. An arrival that is not the last waits and is counted once; the last of a quad, die or package group completes the
phase and writes the number of completed phases; a strand whose phase has been completed writes it too. The switch's multicast completes the
phase of a pod group. A group that is not configured traps with BARRIER; that XVALUE is the group's number is the model's reading (log 53). -/
def Obligations.NetworkBarrierResult : Prop :=
  ∀ (s : State) (rd : GReg) (level : Scope) (group : BitVec 8) (g : NbarGroup), Ready s false false [] [rd] →
    let key := nbarKey s.core level group.toNat
    let put := fun (g' : NbarGroup) (t : State) => t.modPart s.myPart fun p => { p with nbars := p.nbars.set key g' }
    let wrote := fun (g' : NbarGroup) =>
      exec (.nbar rd level group) s =
        .next (done s false 8 .done ((put g' (begun s)).modCur fun x => x.setG rd (g'.phases.setWidth 64)))
    let sid := s.cur.sid
    ((s.partAt s.myPart).nbars.find key = none → TrapsWith s (.nbar rd level group) 0x19 (group.setWidth 64)) ∧
    ((s.partAt s.myPart).nbars.find key = some g →
      (∀ w, g.waiters.find? (fun w => w.1 == sid) = some w → w.2 ≠ g.phases.toNat →
        wrote { g with waiters := g.waiters.filter fun v => v.1 != sid }) ∧
      (∀ w, g.waiters.find? (fun w => w.1 == sid) = some w → w.2 = g.phases.toNat →
        exec (.nbar rd level group) s = .next ((begun s).modCur fun x => { x with wait := .message })) ∧
      (g.waiters.find? (fun w => w.1 == sid) = none → s.cur.osc = 0 →
        (level ≠ .pod → g.expect ≤ g.came + 1 → wrote { g with came := 0, phases := g.phases + 1 }) ∧
        (level = .pod ∨ g.came + 1 < g.expect →
          exec (.nbar rd level group) s =
            .next ((put { g with came := g.came + 1, waiters := g.waiters ++ [(sid, g.phases.toNat)] } (begun s)).modCur
              fun x => { x with wait := .message })))) ∧
    (∀ (part : Nat) (grp : Nat) (h : NbarGroup), (s.partAt part).nbars.find (1024 + grp) = some h →
      exec (.nbarMulticastDown part grp) s =
        .next (s.modPart part fun p => { p with nbars := p.nbars.set (1024 + grp) { h with came := 0, phases := h.phases + 1 } }))

/-- R60, R272 to R274: QCFG writes a descriptor of an admissible layout with HEAD and TAIL 0; QPUSH adds to HEAD and QPOP to TAIL, modulo
2^16, of a valid ring with that many free or filled slots; QSTAT reads the ring. A refused ring traps with RING and its number. -/
def Obligations.RingResult : Prop :=
  ∀ (s : State) (rd ra : GReg) (q : QReg),
    let key := ownKey s (0x78000 + 16 * q.toNat)
    let d := s.load key 16
    let head := d / 2 ^ 64 % 2 ^ 16
    let tail := d / 2 ^ 80 % 2 ^ 16
    let filled := (head + 2 ^ 16 - tail) % 2 ^ 16
    let free := 2 ^ (d / 2 ^ 30 % 16) - filled
    let valid := d / 2 ^ 63 % 2 = 1
    let n := (reg s ra).toNat
    (Ready s false false [ra] [] →
      (let size := n / 2 ^ 26 % 16
       let count := n / 2 ^ 30 % 16
       let base := n % 2 ^ 19
       let layout := n / 2 ^ 40 % 2 ^ 23 = 0 ∧ n / 2 ^ 19 % 2 ^ 7 = 0 ∧ size ≤ 10 ∧ count ≤ 8 ∧ base % 64 = 0 ∧
         base + 2 ^ (size + 6 + count) ≤ 0x70000 ∧ n / 2 ^ 37 % 8 < 4 ∧ n / 2 ^ 34 % 8 < 4
       (layout → s.ringNamed s.core q.toNat = false → Unreduced s .rlx →
         exec (.qcfg q ra) s = .next (done s false 8 .done ((begun s).store key 16 n))) ∧
       (¬ layout ∨ s.ringNamed s.core q.toNat = true → TrapsWith s (.qcfg q ra) 0x17 (q.setWidth 64)))) ∧
    (Ready s false false [ra] [] → s.cur.osc = 0 →
      (valid → d / 2 ^ 34 % 8 = 0 → 1 ≤ n → n ≤ free →
        exec (.qpush q ra) s = .next (done s false 8 .done ((begun s).store (key + 8) 2 ((head + n) % 2 ^ 16)))) ∧
      (¬ (valid ∧ d / 2 ^ 34 % 8 = 0 ∧ 1 ≤ n ∧ n ≤ free) → TrapsWith s (.qpush q ra) 0x17 (q.setWidth 64)) ∧
      (valid → d / 2 ^ 37 % 8 = 0 → 1 ≤ n → n ≤ filled →
        exec (.qpop q ra) s = .next (done s false 8 .done ((begun s).store (key + 10) 2 ((tail + n) % 2 ^ 16)))) ∧
      (¬ (valid ∧ d / 2 ^ 37 % 8 = 0 ∧ 1 ≤ n ∧ n ≤ filled) → TrapsWith s (.qpop q ra) 0x17 (q.setWidth 64))) ∧
    (Ready s false false [] [rd] → Unreduced s (if filled = 0 then .rlx else .acq) →
      exec (.qstat rd q) s =
        .next (wrote s false 8 rd
          (if valid then BitVec.ofNat 64 (tail * 2 ^ 48 + head * 2 ^ 32 + filled * 2 ^ 16 + free % 2 ^ 16) else 0)))
/-- R265, R266, R268: CPY, CPY2, CPYM and CPYQ that pass their checks, while the quad's engine holds fewer than 32 commands. A copy of bytes
becomes a command of the engine and its token register awaits the token; one of no bytes writes its token, 0, at once. R268 to R270, Table 12.9: what the issue checks of a copy admit: the lengths, the ring of a copy from or to a ring, the offset and the
cores of a CPYM, and the barrier offset; and a copy of each form that they refuse traps. When a check of the form and that of the barrier offset
both fail, the form's is taken: the model's choice (log 72). -/
def Obligations.CopyKickResult : Prop :=
  (∀ (s : State) (rd ra rb rc : GReg) (q : QReg) (f : CForm), MayKick s rd → (s.quadAt (s.core / 4)).copies.length < 32 →
     let kick := fun (i : Instr) (a b c : Word) (bytes : Nat) =>
       copyCheck s s.core i a b c = none →
         (bytes ≠ 0 → exec i s =
           .next (done s false 16 .done ((awaiting s rd).startCopy (s.core / 4) (CopyCmd.of i a b c s.owner (.reg rd) none)))) ∧
         (bytes = 0 → exec i s = .next (done s false 16 .done ((begun s).modCur fun x => x.setG rd 0)))
     (Ready s false false [ra, rb, rc] [] →
       kick (.cpy rd ra rb rc f) (reg s ra) (reg s rb) (reg s rc) (reg s rc).toNat ∧
       kick (.cpy2 rd ra rb rc f) (reg s ra) (reg s rb) (reg s rc) (f.yf.toNat * (reg s rc).toNat) ∧
       kick (.cpym rd ra rb rc f) (reg s ra) (reg s rb) (reg s rc) (reg s rc).toNat) ∧
     (Ready s false false [rb, rc] [] → kick (.cpyq rd q rb rc f) 0 (reg s rb) (reg s rc) (reg s rc).toNat)) ∧
  (∀ (s : State) (core : Nat) (rd ra rb rc : GReg) (q : QReg) (f : CForm) (a b c : Word),
     let barrierOk := f.bv = true → 16 * f.boff.toNat < 0x70000
     let fits := fun (r : RingDesc) => c ≠ 0 ∧ c.toNat % 2 ^ (r.lsize + 6) = 0
     (0xFF00000000000000 ≤ b.toNat → b.toNat < 0xFF00000000000008 →
       (copyCheck s core (.cpy rd ra rb rc f) a b c = none ↔
         c.toNat < 2 ^ 32 ∧ (s.ring core (b.toNat % 8)).valid = true ∧ (s.ring core (b.toNat % 8)).ckind = 1 ∧
           fits (s.ring core (b.toNat % 8)) ∧ barrierOk)) ∧
     (b.toNat < 0xFF00000000000000 ∨ 0xFF00000000000008 ≤ b.toNat →
       (copyCheck s core (.cpy rd ra rb rc f) a b c = none ↔ c.toNat < 2 ^ 32 ∧ barrierOk)) ∧
     (copyCheck s core (.cpy2 rd ra rb rc f) a b c = none ↔ c ≠ 0 ∧ f.yf.toNat * c.toNat < 2 ^ 32 ∧ barrierOk) ∧
     (copyCheck s core (.cpym rd ra rb rc f) a b c = none ↔
       c.toNat < 2 ^ 32 ∧ a.toNat < 2 ^ 19 ∧ a.toNat + c.toNat ≤ 0x70000 ∧ (∀ p ∈ peers core f.xf, s.partOf p = s.partOf core) ∧ barrierOk) ∧
     (copyCheck s core (.cpyq rd q rb rc f) a b c = none ↔
       (s.ring core q.toNat).valid = true ∧ (s.ring core q.toNat).pkind = 1 ∧ fits (s.ring core q.toNat) ∧ barrierOk) ∧
     (∀ cause v, s.cur.tags.getLsbD rd.toNat = false →
       (Ready s false false [ra, rb, rc] [] → ∀ i, i = .cpy rd ra rb rc f ∨ i = .cpy2 rd ra rb rc f ∨ i = .cpym rd ra rb rc f →
         copyCheck s s.core i (reg s ra) (reg s rb) (reg s rc) = some (cause, v) → TrapsWith s i cause v) ∧
       (Ready s false false [rb, rc] [] → copyCheck s s.core (.cpyq rd q rb rc f) 0 (reg s rb) (reg s rc) = some (cause, v) →
         TrapsWith s (.cpyq rd q rb rc f) cause v)))

/-- R266, R265, R109: COPY_CHUNK_DONE for a copy within the local store of its owner's core, no barrier named: the chunk's bytes, up to a
multiple of 512, appear at the destination, and no other byte changes; the copy goes on, or after its last chunk it ends and its token, 0, is
written. -/
def Obligations.CopyChunkResult : Prop :=
  ∀ (s : State) (quad index src dst j : Nat) (k : CopyCmd) (rd ra rb rc : GReg) (f : CForm),
    MemOk s → (s.quadAt quad).copy index = some k → k.instr = .cpy rd ra rb rc f → f.bv = false → index < 32 →
    s.progOf (s.copyAgent quad k) = Progress.none → s.hostOf (s.copyAgent quad k) = none →
    k.susp = none → k.quiesced = false → k.waiting = false → k.buf = none → k.owner.super = false → k.token = .reg rd → k.dropped = false →
    k.dtask = none → Seated s k.owner j → (s.partAt k.owner.part).sealed = false →
    k.b = BitVec.ofNat 64 (0x7E0000000000 + src) → k.a = BitVec.ofNat 64 (0x7E0000000000 + dst) → k.done < k.c.toNat →
    let core := k.owner.core
    let n := if 512 - k.done % 512 < k.c.toNat - k.done then 512 - k.done % 512 else k.c.toNat - k.done
    EngineReach s core (src + k.done) n → EngineReach s core (dst + k.done) n →
    ∃ t, exec (.copyChunkDone quad index) s = .next t ∧
      Memory.readList t.mem (2 ^ 52 + core * 2 ^ 19 + dst + k.done) n = Memory.readList s.mem (2 ^ 52 + core * 2 ^ 19 + src + k.done) n ∧
      SameOutside s t (2 ^ 52 + core * 2 ^ 19 + dst + k.done) n ∧
      (k.done + n < k.c.toNat →
        (t.quadAt quad).copy index = some { k with done := k.done + n } ∧ t.events = s.events ++ [.copyChunkDone quad index]) ∧
      (k.done + n = k.c.toNat → (t.quadAt quad).copy index = none ∧
        ((s.slotAt core j).pend.getLsbD rd.toNat = true → TokenWritten s t core j rd 0))

/-- R180, R68, R266: a count delivered to a barrier object is subtracted from COUNT in its open phase, parked for a phase to come, and
dropped for a phase that has passed. R68: DEFERRED_QUEUE_ROOM. A copy that waited with its chunk written delivers it and goes on when every queue it needs has room; with no
such copy nothing changes. -/
def Obligations.BarrierDelivery : Prop :=
  (∀ (s : State) (core off phase pend reload p n : Nat) (o : Bool) (count : Word),
     MemOk s → Unattended s core off → off < 0x70000 → off % 16 = 0 → (s.coreAt core).firstSealed off 16 = none →
     ObjectIs s core off phase pend reload o count → n < 2 ^ 32 → 0 < n → p < 4096 →
     let ahead := (p + 4096 - phase) % 4096
     let count' := count - BitVec.ofNat 64 n
     (ahead = 0 → (pend ≠ 0 ∨ 0 < count'.toInt ∨ (count'.toInt < 0 ∧ (o = false ∨ count.toInt < 0))) →
       ∃ t, s.deliver core off p n false = (t, false) ∧ ObjectIs t core off phase pend reload o count' ∧
         SameOutside s t (2 ^ 52 + core * 2 ^ 19 + off) 16) ∧
     (ahead = 0 → pend = 0 → count' = 0 →
       ∃ t, s.deliver core off p n false = (t, false) ∧ ObjectIs t core off ((phase + 1) % 4096) reload reload o 0 ∧
         SameOutside s t (2 ^ 52 + core * 2 ^ 19 + off) 16) ∧
     (1 ≤ ahead → ahead ≤ 2047 → s.deferredRoom (core / 4) ≠ [] →
       ∃ t, s.deliver core off p n false = (t, false) ∧ ObjectIs t core off phase pend reload o count ∧
         ∃ i < 16, field (s.deferredAt (core / 4) i) 96 32 = 0 ∧
           t.deferredAt (core / 4) i = BitVec.ofNat 128 (n * 2 ^ 96 + p * 2 ^ 52 + core % 4 * 2 ^ 21 + off)) ∧
     (2048 ≤ ahead → s.deliver core off p n false = (s, true))) ∧
  (∀ (s : State) (quad : Nat),
     let waiting := (s.quadAt quad).copies.filter fun k => k.waiting && k.susp.isNone && ! k.quiesced
     (waiting = [] → exec (.deferredQueueRoom quad) s = .next s) ∧
     (∀ k f rd ra rb rc, waiting = [k] → k.instr = .cpy rd ra rb rc f → f.bv = true → k.owner.super = false →
       (let core := s.barrierCore { s.agentOf k.owner with core := k.store } k.dest
        let n := k.chunk s
        k.dest.toNat % 2 ^ 19 + n ≤ 2 ^ 19 → (s.coreAt core).locked (16 * f.boff.toNat) 16 = false →
        s.roomFor [core] (16 * f.boff.toNat) f.bph.toNat false = true → k.done + n < k.total →
        ∃ u dropped, s.deliver core (16 * f.boff.toNat) f.bph.toNat n false = (u, dropped) ∧
          exec (.deferredQueueRoom quad) s =
            .next ((u.setCopy quad { k with done := k.done + n, dropped := k.dropped || dropped, waiting := false }).post
              (.copyChunkDone quad k.index)))))

/-- R287 to R292, R352: TASKR and TASKS enter the lowest free entry of the quad's table of their mode, waiting for the live entries that their
ranges or tiles meet, and write the task's name; an entry that waits for nothing is released. TDONE retires a released record task of its
core and does nothing to another. R292: TDONE retires a released record task of the core that the name's VCN holds and does nothing to another; the entries that
waited for it wait for it no more. -/
def Obligations.TaskResult : Prop :=
  (∀ (s : State) (rd ra rb rc : GReg) (f : CForm) (y x : BitVec 8) (i off : Nat) (image hold : Bool),
     let quad := s.core / 4
     let q := s.quadAt quad
     let live := fun (j : Nat) => ∃ e, (j, e) ∈ q.dep ∧ e.state ≠ .free
     let entered := fun (stencil : Bool) (len : Nat) (e : DepEntry) =>
       (done s false len .done
         (((((begun s).modQuad quad fun q => { q with stencil := stencil, depNext := q.depNext + 1 }).setDep quad i e).releaseIfReady quad i).modCur
           fun z => z.setG rd e.name))
     s.cur.osc = 0 → i < 256 → ¬ live i → (∀ j < i, live j) →
     reg s ra = BitVec.ofNat 64 (image.toNat * 2 ^ 63 + hold.toNat * 2 ^ 62 + off) → off + (if image then 64 else 32) ≤ 0x70000 →
     off % (if image then 64 else 32) = 0 →
     (Ready s false false [ra, rb, rc] [rd] → q.stencil = false ∨ (∀ j, ¬ live j) →
       (let rbase := (reg s rb).toNat / 2 ^ 6 % 2 ^ 51
        let wbase := (reg s rc).toNat / 2 ^ 6 % 2 ^ 51
        let meets := fun (b n b' n' : Nat) => decide (0 < n ∧ 0 < n' ∧ b < b' + n' ∧ b' < b + n)
        let waits := (q.dep.filter fun e => e.2.state != .free && e.2.state != .retired &&
          (meets wbase f.yf.toNat e.2.rbase e.2.rlen || meets wbase f.yf.toNat e.2.wbase e.2.wlen ||
            meets rbase f.xf.toNat e.2.wbase e.2.wlen)).map (·.1)
        exec (.taskr rd ra rb rc f) s =
          .next (entered false 16
            { DepEntry.fresh image hold off f.scope with
              order := q.depNext, waits := waits, name := BitVec.ofNat 64 (s.vcnOf s.core * 2 ^ 32 + i), owner := s.owner
              rbase := rbase, rlen := f.xf.toNat, wbase := wbase, wlen := f.yf.toNat }))) ∧
     (Ready s false false [ra, rb] [rd] → q.stencil = true ∨ (∀ j, ¬ live j) → (reg s rb).toNat < 2 ^ 16 → (reg s rb).getLsbD 10 = false →
       (let selects := fun (e : DepEntry) => (List.range 16).any fun k => (reg s rb).getLsbD k &&
          decide (e.x.toNat + 2 = x.toNat + k % 4 ∧ e.y.toNat + 2 = y.toNat + k / 4)
        let waits := (q.dep.filter fun e => e.2.state != .free && e.2.state != .retired && selects e.2).map (·.1)
        exec (.tasks rd ra rb y x) s =
          .next (entered true 12
            { DepEntry.fresh image hold off .pkg with
              order := q.depNext, waits := waits, owner := s.owner, x := x, y := y
              name := BitVec.ofNat 64 (s.vcnOf s.core * 2 ^ 32 + y.toNat * 2 ^ 16 + x.toNat * 2 ^ 8 + i) })))) ∧
  (∀ (s : State) (ra : GReg) (core : Nat), Ready s false false [ra] [] → s.cur.osc = 0 → (reg s ra).toNat < 2 ^ 43 →
     s.vcnCore s.myPart ((reg s ra).toNat / 2 ^ 32 % 2 ^ 11) = some core →
     let i := (reg s ra).toNat % 256
     let quad := core / 4
     let e := (s.quadAt quad).depAt i
     (e.state = .released → e.image = false → e.owner.core = core →
       exec (.tdone ra) s = .next (done s false 8 .done ((begun s).retireEntry quad i))) ∧
     (¬ (e.state = .released ∧ e.image = false ∧ e.owner.core = core) → exec (.tdone ra) s = .next (done s false 8 .done (begun s))) ∧
     (∀ j f, j ≠ i → (s.quadAt quad).dep.find j = some f →
       (∀ j' f', (j', f') ∈ (s.quadAt quad).dep → f'.state = .waiting → f'.waits.filter (· != i) ≠ []) →
       ((s.retireEntry quad i).quadAt quad).dep.find j = some { f with waits := f.waits.filter (· != i) } ∧
         ((s.retireEntry quad i).quadAt quad).dep.find i = none))

/-- R275: ISUB and OSUB that pass their checks take the lowest free subscription of the service on the tensor's home die; their token register
awaits the token, or takes 0 at once when there are no tiles; of several checks that fail, RING comes before TENSOR (log 76). R276, R271: UNSUB marks the strand's own subscription whose token is pending in the register, and no other; CPYRES resumes or ends the
suspended command that a handle names and writes 0, or writes 1 when there is none, and traps in a user slot. R65, R276: INFEED_TILE and OUTFEED_TILE for a tile of one row that lies in the local store of the owner's core on the serving die. An
infeed fills the slot at HEAD with the row and zeros and moves HEAD on; an outfeed writes the row from the slot at TAIL and moves TAIL on. The
subscription goes on to its next tile; after its last, and after any when UNSUB has marked it, it ends with its token, 0. -/
def Obligations.FeedResult : Prop :=
  (∀ (s u : State) (inward : Bool) (rd ra rb : GReg) (q : QReg) (f : CForm) (ring die i : Nat),
     Ready s false false [ra, rb] [] → MayKick s rd → s.vcnCore s.myPart (f.dstr.toNat % 2 ^ 11) = some ring →
     let r := s.ring ring q.toNat
     let d := s.descAt s.core (BitVec.ofNat 6 (f.sstr.toNat % 64))
     let instr : Instr := if inward then .isub rd ra rb q f else .osub rd ra rb q f
     let service := fun (j : Nat) => ∃ g ∈ (u.dieAt die).feeds, g.inward = inward ∧ g.index = j
     let sub : FeedSub :=
       { index := i, inward := inward, ringCore := ring, ring := q, desc := d, tr := f.xf.toNat, tc := f.yf.toNat
         first := (reg s ra).toNat, count := (reg s rb).toNat, n := 0, owner := s.owner, token := rd, scope := f.scope, unsub := false
         susp := none }
     (¬ (r.valid = true ∧ (if inward then r.pkind else r.ckind) = 2) → TrapsWith s instr 0x17 (q.setWidth 64)) ∧
     (r.valid = true → (if inward then r.pkind else r.ckind) = 2 →
       feedRefused d r.slotBytes f.xf.toNat f.yf.toNat (reg s ra) (reg s rb) = true → TrapsWith s instr 0x18 0) ∧
     (r.valid = true → (if inward then r.pkind else r.ckind) = 2 →
       feedRefused d r.slotBytes f.xf.toNat f.yf.toNat (reg s ra) (reg s rb) = false →
       servingDie d (begun s) = .ok (die, u) → StrandIs s u (begun s).cur → i < 64 → ¬ service i → (∀ j < i, service j) →
       (reg s rb ≠ 0 → exec instr s =
         .next (done s false 16 .done
           (((u.modCur fun x => { x with pend := setBit x.pend rd.toNat true }).modDie die fun x => { x with feeds := x.feeds ++ [sub] }).post
             (if inward then .infeedTile die i else .outfeedTile die i)))) ∧
       (reg s rb = 0 → exec instr s = .next (done s false 16 .done (u.modCur fun x => x.setG rd 0))))) ∧
  ((∀ (s : State) (rd ra : GReg),
      (Ready s false false [] [] → ∃ t, exec (.unsub rd) s = .next t ∧ t.mem = s.mem ∧
        StrandIs s t (after s 8 id) ∧
        ∀ d, (t.dieAt d).feeds = (s.dieAt d).feeds.map fun f =>
          if f.owner.core = s.core ∧ f.owner.sid = s.cur.sid ∧ f.token = rd then
            { f with unsub := true } else f) ∧
      (Ready s false false [ra] [rd] →
        (s.slot ≠ 15 → TrapsWith s (.cpyres rd ra) 0x04 0) ∧
        (s.slot = 15 → (reg s ra).toNat < 2 ^ 17 →
          (let r := (begun s).resumeCommand s.core ((reg s ra).setWidth 16) ((reg s ra).getLsbD 16)
           (r = none → exec (.cpyres rd ra) s = .next (wrote s false 8 rd 1)) ∧
           (∀ u, r = some u → exec (.cpyres rd ra) s = .next (done s false 8 .done (u.modCur fun x => x.setG rd 0))))) ∧
        (s.slot = 15 → 2 ^ 17 ≤ (reg s ra).toNat → TrapsWith s (.cpyres rd ra) 0x01 (ra.setWidth 64)))) ∧
   (∀ (s : State) (die index off n : Nat) (f : FeedSub) (inward : Bool),
      let ev : Instr := if inward then .infeedTile die index else .outfeedTile die index
      let r := s.ring f.ringCore f.ring.toNat
      let c := f.owner.core
      let slot := if inward then r.slotOff r.head else r.slotOff r.tail
      let slotKey := 2 ^ 52 + f.ringCore * 2 ^ 19 + slot
      let rowKey := 2 ^ 52 + c * 2 ^ 19 + off
      let ringKey := 2 ^ 52 + f.ringCore * 2 ^ 19 + 0x78000 + 16 * f.ring.toNat
      let going := f.unsub = false ∧ f.n + 1 < f.count
      s.feedAt inward die index = some f → f.susp = none →
      (MemOk s → s.ringAway f.ringCore = false → f.owner.super = false →
        s.progOf (s.feedAgent die f) = Progress.none → s.hostOf (s.feedAgent die f) = none →
        f.rows = [(0, BitVec.ofNat 64 (0x7E0000000000 + off), n)] → 0 < n → n ≤ r.slotBytes → c / 256 = die → EngineReach s c off n →
        EngineReach s f.ringCore slot r.slotBytes → (if inward then r.free ≠ 0 else r.filled ≠ 0) →
        r.lsize ≤ 10 → (c = f.ringCore ∨ ∀ k, Unmetered s k f.owner.part 1) →
        ∃ t, exec ev s = .next t ∧
          (going → t.feedAt inward die index = some { f with n := f.n + 1 } ∧ t.events = s.events ++ [ev]) ∧
          (¬ going → t.feedAt inward die index = none ∧
            ∀ j, Seated s f.owner j → (s.slotAt c j).pend.getLsbD f.token.toNat = true → TokenWritten s t c j f.token 0) ∧
          (inward = true →
            Memory.readList t.mem slotKey r.slotBytes = Memory.readList s.mem rowKey n ++ List.replicate (r.slotBytes - n) 0 ∧
            t.load (ringKey + 8) 2 = (r.head + 1) % 2 ^ 16 ∧
            ∀ a, (a < slotKey ∨ slotKey + r.slotBytes ≤ a) → (a < ringKey + 8 ∨ ringKey + 10 ≤ a) →
              Memory.read t.mem a = Memory.read s.mem a) ∧
          (inward = false →
            Memory.readList t.mem rowKey n = Memory.readList s.mem slotKey n ∧ t.load (ringKey + 10) 2 = (r.tail + 1) % 2 ^ 16 ∧
            ∀ a, (a < rowKey ∨ rowKey + n ≤ a) → (a < ringKey + 10 ∨ ringKey + 12 ≤ a) →
              Memory.read t.mem a = Memory.read s.mem a))))

/-- R294, R295, R129: SND, SNDB and SNDJ on a tenon. Status 2 on a broken channel, 1 on a closed end, a wait without credit; otherwise the
element is sent under the next sequence, BYTES counts its length, and the status is 0. SNDJ moves a joint: the register reads zero, a sent
end travels in the element's bytes, and its record becomes an unclaimed stub. Where the fields of a carried record stand is log 7's. -/
def Obligations.ChannelSendResult : Prop :=
  ∀ (s : State) (rd ra rc : GReg) (k : Nat) (r : ChanRec),
    Issues s [ra, rc, rd] → HoldsEnd s ra 1 k r → s.cur.osc = 0 →
    let len := 4 * 2 ^ r.esize.toNat
    let bytes := r.bytes.toNat + len
    let next := { r with next := r.next + 1, bytes := if bytes < 2 ^ 32 then BitVec.ofNat 32 bytes else BitVec.allOnes 32 }
    let sent := fun (payload : List Byte) (esize : BitVec 3) =>
      (onItsWay ((begun s).post (.channelDataArrival (dataMessage s r .data payload esize))) r false r.next).setRec s.core k next
    let statuses := fun (i : Instr) =>
      (r.state = .broken → exec i s = .next (wrote s false 8 rd 2)) ∧ (r.state = .tail → exec i s = .next (wrote s false 8 rd 1))
    let waits := fun (i : Instr) =>
      r.state = .openS → (r.next - r.ackd).toNat = 2 ^ r.ldepth.toNat → exec i s = .next (waiting s .message)
    let runs := fun (i : Instr) (u : State) =>
      r.state = .openS → (r.next - r.ackd).toNat ≠ 2 ^ r.ldepth.toNat → Unmetered s s.core s.myPart 2 →
        exec i s = .next (done s false 8 .done (u.modCur fun x => x.setG rd 0))
    (Untagged s [rc, rd] → r.esize.toNat ≤ 1 →
      statuses (.snd rd ra rc) ∧ waits (.snd rd ra rc) ∧
      runs (.snd rd ra rc) (sent (toBytes len (reg s rc).toNat) r.esize)) ∧
    (Untagged s [rc, rd] → (reg s rc).toNat % len = 0 → (reg s rc).toNat + len ≤ 0x70000 → LocalReach s (reg s rc).toNat len →
      statuses (.sndb rd ra rc) ∧ waits (.sndb rd ra rc) ∧
      runs (.sndb rd ra rc) (sent (Memory.readList s.mem (ownKey s (reg s rc).toNat) len) r.esize)) ∧
    (let i : Instr := .sndj rd ra rc
     (rd ≠ rc → Untagged s [rd]) → r.ldepth.toNat ≤ 7 →
     (s.cur.tags.getLsbD rc.toNat = true → (reg s rc).toNat / 2 ^ 24 % 4 = 3 → r.esize ≠ 0 →
       (rd ≠ rc → statuses i) ∧ waits i ∧ runs i ((sent (toBytes len (reg s rc).toNat) 7).modCur fun x => x.setG rc 0)) ∧
     (∀ kind ks e, kind = 1 ∨ kind = 2 → HoldsEnd s rc kind ks e → rc ≠ ra → r.esize = 4 → e.state ≠ .tail → e.state ≠ .shut →
       (kind = 2 → ¬ (e.number = r.number ∧ e.inc = r.inc)) →
       (let stub := { e with
          state := if e.side = .tenon then .tstub else .mstub, held := false, claimed := false, endCarried := e.endv }
        let unland := fun (x : Transit) =>
          some (if e.side = .mortise ∧ ¬ (e.endv = true ∧ x.value = e.endseq) then { x with landed := false } else x)
        (rd ≠ rc → statuses i) ∧ waits i ∧
          runs i ((((sent (e.carried (reg s rc) s.core) 7).modTransit e.part e.number e.inc false unland).setRec s.core ks stub).modCur
            fun x => x.setG rc 0))))

/-- R296, R297, R131, Table 13.6: RCV and TRCV on a mortise. Status 2 when it is shut, 1 at the end marker and after it; an element that has
arrived is delivered: a value, bytes to local store, a peg, or an end with a record of its own; it is acknowledged, and a joint's bytes, mark
and seals are cleared. With nothing there RCV waits and TRCV answers 3. Where the fields of a carried record stand is log 7's; that a SPILL's
XVALUE is the number of the carried end's channel is log 16's reading of R122. -/
def Obligations.ChannelReceiveResult : Prop :=
  ∀ (s : State) (test : Bool) (rd ra rb rc : GReg) (k : Nat) (r : ChanRec),
    Issues s [ra, rc, rd, rb] → HoldsEnd s ra 2 k r → Untagged s [rd, rb] → Unreduced s .acq →
    let i : Instr := if test then .trcv rd ra rb rc else .rcv rd ra rb rc
    let len := 4 * 2 ^ r.esize.toNat
    let e := r.cons.toNat % 2 ^ r.ldepth.toNat
    let key := ownKey s (r.base.toNat + e * len)
    let bytes := Memory.readList s.mem key len
    let marked := r.endv = true ∧ r.endseq = r.cons
    let room := Unmetered s s.core s.myPart 2
    let acked := fun (r' : ChanRec) (fin : Bool) =>
      onItsWay ((((begun s).setRec s.core k { r' with tsent := r'.tsent + 1 }).post (.ackArrival (tenonMessage s r' .ack r'.cons fin))).settleTransit
        r'.part r'.number r'.inc false (r'.cons - 1)) r' true r'.cons
    let consumed := { r with pres := setBit r.pres e false, cons := r.cons + 1 }
    let joint :=
      (((acked consumed false).storeBytes key (List.replicate len 0)).setRec s.core k
        { consumed with tsent := consumed.tsent + 1, marks := setBit r.marks e false }).unseal s.core (r.elemSectors e)
    let status := fun (u : State) (n : Word) => exec i s = .next (done s false 8 .done (u.modCur fun x => x.setG rb n))
    let value := fun (u : State) (v n : Word) => status (u.modCur fun x => x.setG rd v) n
    let word := BitVec.ofNat 64 (s.load key 8)
    (r.state = .shut → value (begun s) 0 2) ∧
    (r.state = .endSeen → value (begun s) 0 1) ∧
    (r.state = .openS → marked → room → value (acked { r with state := .endSeen, cons := r.cons + 1 } true) 0 1) ∧
    (r.state = .openS → ¬ marked → r.pres.getLsbD e = false →
      (test = false → exec i s = .next (waiting s .message)) ∧ (test = true → value (begun s) 0 3)) ∧
    (r.state = .openS → ¬ marked → r.pres.getLsbD e = true → room →
      (r.marks.getLsbD e = false → len ≤ 8 → value (acked consumed false) (BitVec.ofNat 64 (ofBytes bytes)) 0) ∧
      (r.marks.getLsbD e = false → 8 < len → Untagged s [rc] → (reg s rc).toNat % len = 0 → (reg s rc).toNat + len ≤ 0x70000 →
        LocalReach s (reg s rc).toNat len →
        value ((acked consumed false).storeBytes (ownKey s (reg s rc).toNat) bytes) 0 0) ∧
      (r.marks.getLsbD e = true → 8 ≤ len →
        (word.toNat / 2 ^ 24 % 4 = 3 → status (joint.modCur fun x => x.setJoint rd word) 0) ∧
        (∀ c from_, carriedRec bytes = some (c, from_) →
          (let size := 4 * 2 ^ c.esize.toNat
           let base := if c.side = .tenon then 0 else BitVec.ofNat 19 (reg s rc).toNat
           (c.side = .mortise → Untagged s [rc] ∧ (reg s rc).toNat % size = 0 ∧ (reg s rc).toNat + 2 ^ c.ldepth.toNat * size ≤ 0x70000) →
           (∀ u n, joint.receiveEnd s.core c from_ base = some (u, n) → status (u.modCur fun x => x.setJoint rd word) 0) ∧
           (joint.receiveEnd s.core c from_ base = none → TrapsWith s i 0x1B (c.number.setWidth 64))))))

/-- R293, R118, R122, R128: CHAN makes a channel: its number and incarnation come from the partition's count, its two records take the lowest
record slots that suit (log 77), and its two ends come to the registers named. R124, R125: a record reads back as it was written, and its
slots and joint marks are the only bytes that change; where its fields stand in them is log 7's. -/
def Obligations.ChannelCreateResult : Prop :=
  (∀ (s : State) (rd ra rb : GReg) (esize : BitVec 3) (ldepth : BitVec 4),
     Issues s [ra, rd, rb] → Untagged s [ra, rd, rb] → ldepth.toNat ≤ 8 → esize.toNat ≤ 4 →
     let len := 4 * 2 ^ esize.toNat
     let base := (reg s ra).toNat
     let chans := s.recsAt s.core
     let made := (s.partAt s.myPart).created.toNat
     let number := BitVec.ofNat 24 made
     let inc := BitVec.ofNat 32 (made / 2 ^ 24)
     let rec_ := fun (side : Side) (base : BitVec 19) =>
       { ChanRec.blank side number inc with
         ldepth := ldepth, esize := esize, route := s.core, tloc := s.core, base := base, part := s.myPart }
     let joint := fun (kind : Nat) => BitVec.ofNat 64 (inc.toNat * 2 ^ 32 + kind * 2 ^ 24 + number.toNat)
     let pair := fun (k : Nat) => k % 2 = 0 ∧ k < 192 ∧ SlotFree chans k ∧ SlotFree chans (k + 1)
     base % len = 0 → base + 2 ^ ldepth.toNat * len ≤ 0x70000 →
     ((∀ k, ¬ pair k) → TrapsWith s (.chan rd ra rb esize ldepth) 0x1B (number.setWidth 64)) ∧
     (∀ km, pair km → (∀ j < km, ¬ pair j) →
       (let u := (begun s).putRec s.core km (rec_ .mortise (BitVec.ofNat 19 base))
        (∀ kt, kt < 192 → SlotFree (u.recsAt s.core) kt → (∀ j < kt, ¬ SlotFree (u.recsAt s.core) j) →
          exec (.chan rd ra rb esize ldepth) s =
            .next (done s false 8 .done
              (((u.putRec s.core kt (rec_ .tenon 0)).modPart s.myPart fun p => { p with created := p.created + 1 }).modCur
                fun x => (x.setJoint rd (joint 1)).setJoint rb (joint 2)))) ∧
        ((∀ j < 192, ¬ SlotFree (u.recsAt s.core) j) → TrapsWith s (.chan rd ra rb esize ldepth) 0x1B (number.setWidth 64))))) ∧
  (∀ (s : State) (core k : Nat) (r : ChanRec), MemOk s → Tabled r → k < 192 →
     let t := s.setRec core k r
     let area := 2 ^ 52 + core * 2 ^ 19
     let n := if r.side = .tenon then 64 else 128
     (t.readRec core r.side k).fields = r.fields ∧
     (r.side = .mortise → (t.readRec core r.side k).marks = r.marks ∧ (t.readRec core r.side k).drops = r.drops) ∧
     ∀ a, (a < area + 0x74000 + 64 * k ∨ area + 0x74000 + 64 * k + n ≤ a) →
       (r.side = .tenon ∨ a < area + 0x77800 + 16 * (k / 2) ∨ area + 0x77800 + 16 * (k / 2) + 16 ≤ a) →
       Memory.read t.mem a = Memory.read s.mem a)

/-- R299 to R301, R133, R118: CLOSE of a tenon sends its end marker, of a mortise its BROKEN, once; DROPJ closes an end, lets its record go
and clears the register, and discards a peg; MOVJ moves a joint and GDUP copies a peg; JKIND reads the kind and the state of a joint, or 0;
MOVJ and JKIND of an end without a record trap with CHAN_KIND; GRANT opens a new incarnation of a grant and makes its peg. -/
def Obligations.JointResult : Prop :=
  ∀ (s : State) (rd ra : GReg),
    let tagged := s.cur.tags.getLsbD ra.toNat
    let kind := (reg s ra).toNat / 2 ^ 24 % 4
    let room := Unmetered s s.core s.myPart 2
    let live := kind = 3 ∨ (∃ k r, HoldsEnd s ra kind k r)
    let stray := tagged = true ∧ (kind = 1 ∨ kind = 2) ∧ s.endRec s.core (reg s ra) = none
    (∀ k r, Issues s [ra] → s.cur.osc = 0 → HoldsEnd s ra 1 k r →
      (r.state = .openS → room → exec (.close ra) s =
        .next (done s false 8 .done
          (onItsWay (((begun s).post (.channelDataArrival (dataMessage s r .endM [] 0))).setRec s.core k
            { r with state := .tail, next := r.next + 1 }) r false r.next))) ∧
      (r.state ≠ .openS → exec (.close ra) s = .next (done s false 8 .done (begun s)))) ∧
    (∀ k r, Issues s [ra] → s.cur.osc = 0 → HoldsEnd s ra 2 k r →
      (r.state = .openS → room →
        (let closed := (((begun s).setRec s.core k { r.shut with tsent := r.tsent + 1 }).post
           (.brokenArrival (tenonMessage s r .broken 0 true))).modTransit r.part r.number r.inc false
             fun x => if x.landed then none else some x
         exec (.close ra) s = .next (done s false 8 .done (if r.marks = 0 then closed else closed.post (.takeAndDrop s.core k))))) ∧
      (r.pres = 0 → (r.endv = true → r.cons ≠ r.endseq) → r.shut = { r with state := .shut }) ∧
      (r.state ≠ .openS → exec (.close ra) s = .next (done s false 8 .done (begun s)))) ∧
    (∀ k n r, Issues s [ra] → s.cur.osc = 0 → n = 1 ∨ n = 2 → HoldsEnd s ra n k r → room →
      (let u := (begun s).dropEnd s.core k
       exec (.dropj ra) s =
         .next (done s false 8 .done ((if n = 1 ∧ r.state = .openS then onItsWay u r false r.next else u).modCur fun x => x.setG ra 0)))) ∧
    (Issues s [ra] → tagged = true → kind = 3 → exec (.dropj ra) s = .next (wrote s false 8 ra 0)) ∧
    (Issues s [ra, rd] → tagged = true → live →
      (rd = ra → exec (.movj rd ra) s = .next (done s false 8 .done (begun s))) ∧
      (rd ≠ ra → Untagged s [rd] → exec (.movj rd ra) s =
        .next (done s false 8 .done (((begun s).modCur fun x => x.setG ra 0).modCur fun x => x.setJoint rd (reg s ra))))) ∧
    (Issues s [ra, rd] → stray → TrapsWith s (.movj rd ra) 0x13 (ra.setWidth 64)) ∧
    (Issues s [ra, rd] → stray → rd ≠ ra → TrapsWith s (.jkind rd ra) 0x13 (ra.setWidth 64)) ∧
    (Issues s [ra, rd] → tagged = true → kind = 3 → Untagged s [rd] →
      exec (.gdup rd ra) s = .next (done s false 8 .done ((begun s).modCur fun x => x.setJoint rd (reg s ra)))) ∧
    (Issues s [ra, rd] → Untagged s [rd] →
      (tagged = false → exec (.jkind rd ra) s = .next (wrote s false 8 rd 0)) ∧
      (∀ k n r, n = 1 ∨ n = 2 → rd ≠ ra → HoldsEnd s ra n k r →
        (let code := if r.state = .tail ∨ r.state = .shut then 1 else if r.state = .broken ∨ r.state = .endSeen then 2 else 0
         exec (.jkind rd ra) s = .next (wrote s false 8 rd (BitVec.ofNat 64 (code * 4 + n))))) ∧
      (∀ c, tagged = true → kind = 3 → rd ≠ ra → s.vcnCore s.myPart ((reg s ra).toNat / 2 ^ 13 % 2 ^ 11) = some c →
        (let current := ((s.coreAt c).grants.get (0, 0) ((reg s ra).toNat % 64)).1
         exec (.jkind rd ra) s =
           .next (wrote s false 8 rd (if current.toNat = (reg s ra).toNat / 2 ^ 32 then 3 else 11))))) ∧
    (∀ (stream : BitVec 2) (index : BitVec 6), Issues s [rd] → Untagged s [rd] →
      (let inc := ((s.coreAt s.core).grants.get (0, 0) index.toNat).1 + 1
       let peg := BitVec.ofNat 64 (inc.toNat * 2 ^ 32 + 3 * 2 ^ 24 + s.vcnOf s.core * 2 ^ 13 + index.toNat)
       exec (.grant rd stream index) s =
         .next (done s false 8 .done
           (((begun s).modCore s.core fun c => { c with grants := c.grants.set index.toNat (inc, stream) }).modCur
             fun x => x.setJoint rd peg))))
/-- R123, R130, R132, R133, R135, R136, R416: the arrival of a channel message. It waits while its VCN's tenant is saved or the VCN is unmapped, is dropped and counted when
it matches no record, and otherwise changes the record it meets, which may then retire; a claimed stub forwards it, and a tenon stub counts
it. A closed record's owed pegs are dropped. R137, R123, Table 5.11: when a record's conditions hold it retires: it leaves its chain, and a
stub sends the message the table names to its target; a record whose conditions do not hold stays. That a claimed mortise stub does not forward an
end marker that travelled with the end is log 16's reading of R134 and R136. -/
def Obligations.ChannelArrivalResult : Prop :=
  (∀ (s : State) (m : Msg),
     let instr := fun (k : MsgKind) => (match k with
       | .data | .endM => .channelDataArrival m | .ack => .ackArrival m | .broken => .brokenArrival m | .repoint => .repointArrival m
       | .drain => .drainArrival m | .claim => .claimArrival m | .announce => .announceArrival m | .release => .releaseArrival m : Instr)
     (m.dstVcn = true → s.vcnCore m.part m.dst = none ∨ (s.partAt m.part).saved.find m.dst ≠ none → exec (instr m.kind) s = .next (s.post (instr m.kind))) ∧
     (∀ core, (m.dstVcn = true ∧ (s.partAt m.part).saved.find m.dst = none ∧ s.vcnCore m.part m.dst = some core) ∨ (m.dstVcn = false ∧ core = m.dst) → s.msgRec core m = none →
       exec (instr m.kind) s =
         .next ((s.settleTransit m.part m.number m.inc (m.kind == .ack) m.value).modPart m.part fun p => { p with chdisc := p.chdisc + 1 })) ∧
     (∀ core k r, Meets s m core k r → Unmetered s core r.part 2 → Unmetered s core m.part 2 →
       let becomes := fun (kind : MsgKind) (r' : ChanRec) (t : State) =>
         m.kind = kind → exec (instr kind) s = .next ((t.setRec core k r').settleRec core k)
       let leaves := fun (kind : MsgKind) (t : State) => m.kind = kind → exec (instr kind) s = .next (t.settleRec core k)
       let counted := if m.fwd then { r with upr := r.upr + 1 } else { r with recv := r.recv + 1 }
       let noted := if m.fin = true ∧ m.fwd = false then { counted with dn := m.aux, dnv := true } else counted
       let e := m.value.toNat % 2 ^ r.ldepth.toNat
       let len := 4 * 2 ^ r.esize.toNat
       let newer := IsLater m.smove r.move
       let announced := IsLater m.smove r.tmove
       let moved := { noted with route := m.src, move := m.smove }
       let drain := fun (next : BitVec 32) (new : BitVec 32) (fin : Bool) =>
         Instr.drainArrival (answer core r .drain .mortise r.move r.route next new r.tmove fin)
       let onward := fun (move : BitVec 32) => { m with dst := r.target, dstVcn := r.targetVcn, move := move + 1, fwd := true }
       -- the mortise side
       (r.side = .mortise → r.state = .openS ∨ (r.state = .mstub ∧ r.claimed = false) →
         (let put := (s.storeBytes (2 ^ 52 + core * 2 ^ 19 + (r.base.toNat + e * len)) ((m.payload ++ List.replicate 64 0).take len)).setRec core k
            { r with pres := setBit r.pres e true, marks := setBit r.marks e (m.esize == 7) }
          let kept := if m.esize = 7 then put.seal core (r.elemSectors e) else put
          let ended := s.setRec core k { r with endv := true, endseq := m.value }
          let land := fun (t : State) => if r.state = .openS then t.landTransit r m.value true else t
          leaves .endM (land ended) ∧ leaves .data (land kept))) ∧
       (r.side = .mortise → r.state = .shut →
         (let note := (s.setRec core k (r.noteArrival m)).settleTransit r.part r.number r.inc false m.value
          leaves .endM note ∧ leaves .data (if m.esize = 7 then note.post (.takeAndDrop core k) else note))) ∧
       (r.side = .mortise → r.state = .mstub → r.claimed = true →
         leaves .data ((s.setRec core k (r.noteArrival m)).post (.channelDataArrival (onward r.move))) ∧
         leaves .endM ((s.setRec core k (r.noteArrival m)).post (.channelDataArrival (onward r.move))) ∧
         leaves .announce ((s.setRec core k (if announced then { r with tloc := m.src, tmove := m.smove } else r)).post
           (.announceArrival (onward r.move)))) ∧
       becomes .drain
         { r with
           df := laterOf r.df m.value, dnew := laterOf r.dnew m.new, dfin := r.dfin || m.fin, dtm := laterOf r.dtm m.smove
           upp := r.upp && ! m.fwd } s ∧
       (r.state ≠ .mstub → announced →
         (let u := s.post (.releaseArrival (answer core r .release .tenon r.tmove r.tloc r.tsent m.smove 0 false))
          let r' := { r with tloc := m.src, tmove := m.smove, tsent := 0 }
          (r.state ≠ .shut → becomes .announce r' u) ∧
          (r.state = .shut → leaves .announce
            (((u.setRec core k r').setRec core k { r' with tsent := 1 }).post
              (.brokenArrival { answer core r .broken .tenon m.smove m.src 0 0 0 true with aux := 1 }))))) ∧
       (r.state ≠ .mstub → ¬ announced → leaves .announce s) ∧
       (r.state = .mstub → r.claimed = false → becomes .announce (if announced then { r with tloc := m.src, tmove := m.smove, hn := true } else r) s) ∧
       (r.state = .mstub → r.claimed = false → r.pres = 0 → r.hn = false → (r.endv = true → r.endCarried = true ∨ IsLater r.cons r.endseq) →
         leaves .claim
           ((s.setRec core k
             { (advanceFwd 257 { r with target := m.src, targetVcn := false, claimed := true }) with marks := 0, hn := false }).unseal core
             r.sealedSectors)) ∧
       -- the tenon side
       (r.state ≠ .tstub →
         becomes .ack { noted with ackd := laterOf noted.ackd m.value } (s.settleTransit r.part r.number r.inc true m.value) ∧
         (r.state = .openS → leaves .broken ((s.setRec core k { noted with state := .broken }).post (drain r.next r.move true))) ∧
         (r.state = .tail → leaves .broken ((s.setRec core k noted).post (drain r.next r.move true))) ∧
         (newer → leaves .repoint ((s.setRec core k moved).post (drain r.next m.smove false))) ∧
         (¬ newer → becomes .repoint noted s)) ∧
       becomes .release
         (if m.fwd then { r with newt := laterOf r.newt m.new, upn := m.value, upp := false }
          else { r with newt := laterOf r.newt m.new, dn := m.value, dnv := true }) s ∧
       (r.state = .tstub → r.claimed = false →
         (let ackd := laterOf r.ackd m.value
          becomes .ack { counted with ackd := ackd, ha := true }
            (s.modTransit r.part r.number r.inc true fun x =>
              some (if x.value = m.value ∨ x.held = true then { x with value := ackd, held := true } else x))) ∧
         becomes .broken { counted with hb := true } s ∧
         becomes .repoint (if newer then { counted with route := m.src, move := m.smove, hp := true } else counted) s ∧
         (r.ha = false → r.hp = false → r.hb = false → becomes .claim { r with target := m.src, targetVcn := false, claimed := true } s)) ∧
       (r.state = .tstub → r.claimed = true → r.side = .tenon →
         (let forwarded := fun (event : Instr) => (s.setRec core k { counted with fwdn := r.fwdn + 1 }).post event
          leaves .ack (forwarded (.ackArrival (onward r.tmove))) ∧ leaves .broken (forwarded (.brokenArrival (onward r.tmove))) ∧
            leaves .repoint (forwarded (.repointArrival (onward r.tmove))))) ∧
       (r.state ≠ .tstub → r.state ≠ .mstub → leaves .claim s)) ∧
     (∀ core k r, (s.recsAt core).find k = some r →
       (r.state ≠ .shut → exec (.takeAndDrop core k) s = .next s) ∧
       (∀ e, e < 128 → r.state = .shut → (∀ i < 128, r.marks.getLsbD i = decide (i = e)) → r.drops = [] →
         carriedRec (s.elemAt core r e) = none →
         exec (.takeAndDrop core k) s =
           .next ((((s.storeBytes (2 ^ 52 + core * 2 ^ 19 + (r.base.toNat + e * (4 * 2 ^ r.esize.toNat)))
               (List.replicate (4 * 2 ^ r.esize.toNat) 0)).setRec core k { r with marks := setBit r.marks e false }).unseal core
                 (r.elemSectors e)).settleRec core k)))) ∧
  (∀ (s : State) (core k : Nat) (r : ChanRec), (s.recsAt core).find k = some r → Unmetered s core r.part 2 →
     let t := s.settleRec core k
     let gone := s.delRec core k
     (¬ Retires r → t = s) ∧
     (Retires r →
       (r.state ≠ .mstub → r.state ≠ .tstub → t = gone) ∧
       (r.state = .mstub → t = gone.post
         (.drainArrival { answer core r .drain .mortise (r.move + 1) r.target r.df r.dnew r.dtm r.dfin with
           dstVcn := r.targetVcn, fwd := true })) ∧
       (r.state = .tstub → t = gone.post
         (.releaseArrival { answer core r .release .tenon (r.tmove + 1) r.target r.fwdn r.newt 0 false with
           dstVcn := r.targetVcn, fwd := true }))) ∧
     (∀ i, MemOk s → s.routeFind core r.side r.number = some i → routeSlot (s.routeAt core i) = k →
       (let side := if r.side = .tenon then 1 else 2
        (r.link.toNat < 192 → gone.routeAt core i = BitVec.ofNat 64 (r.number.toNat * 2 ^ 40 + side * 2 ^ 38 + r.link.toNat * 2 ^ 30)) ∧
        (192 ≤ r.link.toNat → (gone.routeAt core i).toNat / 2 ^ 38 % 4 = 0 ∨ (gone.routeAt core i).toNat / 2 ^ 38 % 4 = 3))))
/-- R303 to R306, R348, R160, Table 13.8: LNCH reads a block, refuses one that is malformed with LAUNCH, queues a launch and writes its ticket;
LWAIT waits for a reported outcome, writes its result and forgets the ticket, and writes FFH for no such ticket; LABRT aborts a launch by
its ticket or the strand's own, and does nothing to one that is over or unknown. That an abort removes a queued flattened child alone, with outcome
0x23, is the model's reading of R306 (log 50). -/
def Obligations.LaunchResult : Prop :=
  ∀ (s : State) (rd ra rb : GReg) (disp : BitVec 20),
    let p := s.partAt s.myPart
    let named := fun (t : Word) => p.launches.find? fun l => l.ticketed && l.ticket == t.toNat
    let live := s.cur.member = true ∧ (p.liveLaunch s.cur.lnum).isSome
    (∀ off, Ready s false false [ra, rb] [rd] → OwnStore s (reg s ra + disp.signExtend 64) off 32 → off % 32 = 0 →
      (reg s rb).toNat < 8 → s.cur.osc = 0 → Unheld s .rlx →
      (let a := reg s ra + disp.signExtend 64
       let block := fun (i n : Nat) => s.load (ownKey s off + i) n
       let valid := 1 ≤ block 8 4 ∧ block 8 4 ≤ 4 * p.quads.length ∧ 1 ≤ block 12 2 ∧ block 12 2 ≤ 15 ∧ block 14 2 < 4 ∧
         block 16 4 ≤ 64 ∧ block 20 12 = 0
       let l : Launch :=
         { phase := .queued, ticket := p.nextTicket.toNat, ticketed := true, prio := (reg s rb).toNat, block := a
           entry := BitVec.ofNat 64 (block 0 8), cores := block 8 4, slots := block 12 2, tolerant := block 14 2 % 2 == 1
           mflag := block 14 2 / 2 == 1, asid := s.me.asid, parent := if live then some s.cur.lnum else none, lnum := 0, numbered := false
           tag := 0, pending := block 8 4 * block 12 2, failed := 0, outcome := none, vcns := [], placed := 0, ops := 0, bytes := 0
           call := none }
       (¬ valid → TrapsWith s (.lnch rd ra rb disp) 0x1C a) ∧
       (valid → 256 ≤ (p.launches.filter fun l => l.ticketed || l.call.isSome).length → exec (.lnch rd ra rb disp) s = .next (waiting s .memory)) ∧
       (valid → (p.launches.filter fun l => l.ticketed || l.call.isSome).length < 256 →
         exec (.lnch rd ra rb disp) s =
           .next (done s false 8 .done
             (((((begun s).modPart s.myPart fun p => { p with launches := p.launches ++ [l] }).post (.launchPlacement s.myPart)).modPart
               s.myPart fun p => { p with nextTicket := p.nextTicket + 1 }).modCur fun x => x.setG rd (p.nextTicket.setWidth 64)))))) ∧
    (Ready s false false [ra] [rd] → Unreduced s .acq →
      (named (reg s ra) = none → exec (.lwait rd ra) s = .next (wrote s false 8 rd 0xFF)) ∧
      (∀ l, named (reg s ra) = some l →
        (let finished := l.phase = .over ∧ (l.parent.isSome ∨ l.numbered = false ∨ s.pendingWork s.myPart l.lnum = false)
         (l.outcome = none ∨ ¬ finished → exec (.lwait rd ra) s = .next (waiting s .message)) ∧
         (∀ code, l.outcome = some code → finished →
           (let n := if l.parent.isSome ∧ l.placed = 0 then 0 else l.lnum.toNat
            let result := n * 2 ^ 32 + l.failed.toNat * 2 ^ 16 + l.parent.isSome.toNat * 2 ^ 8 + code.toNat
            exec (.lwait rd ra) s =
              .next (done s false 8 .done
                (((begun s).modPart s.myPart fun p =>
                  { p with launches := p.launches.filter fun k => ! (k.ticketed && k.ticket == (reg s ra).toNat) }).modCur
                  fun x => x.setG rd (BitVec.ofNat 64 result)))))))) ∧
    (Ready s false false [ra] [] →
      (let ran := fun (t : State) => exec (.labrt ra) s = .next (done s false 8 .done t)
       (reg s ra = BitVec.allOnes 64 →
         (¬ live → ran (begun s)) ∧ (∀ l, s.cur.member = true → p.liveLaunch s.cur.lnum = some l → ran ((begun s).abortTag s.myPart l.tag 0x23))) ∧
       (reg s ra ≠ BitVec.allOnes 64 →
         (named (reg s ra) = none → ran (begun s)) ∧
         (∀ l, named (reg s ra) = some l →
           (l.outcome.isSome → ran (begun s)) ∧
           (l.outcome = none → l.phase = .queued →
             ran ((begun s).modLaunch s.myPart l.ticket fun k => { k with phase := .over, outcome := some 0x23, lnum := 0 })) ∧
           (l.outcome = none → l.phase = .live → l.parent = none → ran ((begun s).abortTag s.myPart l.tag 0x23)))))) ∧
    (∀ part tag code,
      (let n := BitVec.ofNat 16 ((s.vstAt part tag).toNat % 2 ^ 16)
       let q := (s.abortTag part tag code).partAt part
       s.liveTag part tag = true → (∀ x ∈ s.quads, ∀ k ∈ x.2.copies, k.owner.inLaunch part n = false) →
       (∀ x ∈ s.dies, ∀ k ∈ x.2.feeds, k.owner.inLaunch part n = false) → (∀ x ∈ s.cores, ∀ k ∈ x.2.truss, k.owner.inLaunch part n = false) →
       field (q.vst.get 0 tag.toNat) 30 2 = 3 ∧ field (q.vst.get 0 tag.toNat) 20 8 = code.toNat ∧
         q.launches = (s.partAt part).launches.map fun l =>
           if l.parent = none ∧ l.phase = .live ∧ l.lnum = n then { l with phase := .over, outcome := some code }
           else if l.phase = .queued ∧ l.parent = some n then { l with phase := .over, outcome := some code, lnum := 0 }
           else l))

/-- R142, R156, R157, R155, R348 to R351: LAUNCH_PLACEMENT places the head of the queue under its number and tag, or under its live parent's;
LAUNCH_COMMIT commits a launch without pending work whose elders are resolved; MERGE_SWEEP merges the committed sectors of a granule; a
waiting spill is written once its bucket has room. -/
def Obligations.LaunchLifeResult : Prop :=
  ∀ (s : State) (part : Nat),
    let p := s.partAt part
    (p.head = none → exec (.launchPlacement part) s = .next s) ∧
    (∀ l vcns, p.head = some l → (s.useClass part l).chooseCores part l = some vcns →
      let u := s.useClass part l
      (∀ n, l.parent = some n → exec (.launchPlacement part) s =
        .next ((u.modLaunch part l.ticket fun k =>
          { k with phase := .live, lnum := n, numbered := true, placed := vcns.length, vcns := vcns }).placeLaunch part l n vcns)) ∧
      (∀ tag, l.parent = none → u.nextTag part = some tag → (u.liveTags part).length < 64 → u.pendingWork part p.nextLnum = false →
        exec (.launchPlacement part) s =
          .next (((((u.sweepTag part tag).modPart part fun q =>
            { q with
              nextLnum := q.nextLnum + 1, lastTag := tag
              vst := q.vst.set tag.toNat (BitVec.ofNat 32 (2 ^ 30 + l.tolerant.toNat * 2 ^ 29 + p.nextLnum.toNat)) }).modLaunch part l.ticket
            fun k => { k with
              phase := .live, lnum := p.nextLnum, numbered := true, tag := tag, placed := vcns.length, vcns := vcns }).placeLaunch part l
            p.nextLnum vcns).post (.launchCommit part p.nextLnum.toNat)))) ∧
    (∀ (n : Nat), p.numbered (BitVec.ofNat 16 n) = none → exec (.launchCommit part n) s = .next s) ∧
    (∀ l, p.numbered l.lnum = some l → l.ticketed = true →
      (s.pendingWork part l.lnum = true → exec (.launchCommit part l.lnum.toNat) s = .next (s.post (.launchCommit part l.lnum.toNat))) ∧
      (s.pendingWork part l.lnum = false → l.phase = .live →
        (let u := s.finish part l
         (u.olderLive part l.tag = true → exec (.launchCommit part l.lnum.toNat) s = .next (u.post (.launchCommit part l.lnum.toNat))) ∧
         (u.olderLive part l.tag = false → p.trOn = false →
           exec (.launchCommit part l.lnum.toNat) s =
             .next (((u.modPart part fun p =>
               { p with vst := p.vst.set l.tag.toNat (setField (setField (p.vst.get 0 l.tag.toNat) 30 2 2) 20 8 0) }).modLaunch part l.ticket
               fun k => { k with phase := .over, outcome := some 0 }).post (.mergeSweep part 0)))))) ∧
    (∀ gran,
      (let t := s.mergeGranule gran
       (∀ g, t.deadGranule part = some g → exec (.mergeSweep part gran) s = .next (t.post (.mergeSweep part g))) ∧
       (t.deadGranule part = none → exec (.mergeSweep part gran) s = .next (t.freeTags part)) ∧
       (∀ w i l, MemOk s → (s.dieAt (dieOf (gran * 2048))).shadows.filter (fun v => v.gran == gran) = [w] → w.lines = [(i, l)] →
         s.tagState w.part w.tag = 2 → (∀ q ∈ s.parts, (∀ v ∈ q.2.spills, v.gran ≠ gran) ∧ q.2.shos.getLsbD 5 = false) →
         (∀ j < 4, Memory.readList t.mem (gran * 2048 + i * 64 + 16 * j) 16 =
           if l.dirty.getLsbD j then toBytes 16 (l.data.toNat / 2 ^ (128 * j) % 2 ^ 128)
           else Memory.readList s.mem (gran * 2048 + i * 64 + 16 * j) 16) ∧
         SameOutside s t (gran * 2048 + i * 64) 64))) ∧
    (p.spills = [] → exec (.shadowSpillResume part) s = .next s) ∧
    (∀ w rest u v, p.spills = w :: rest →
      (((s.modPart part fun q => { q with spills := rest }).cleanBucket w.part w.gran).spillLines w) = (u, v) → v.lines = [] →
      exec (.shadowSpillResume part) s = .next u)

/-- R278, R279, R414, R175: FORK, SPAWN and GANG. FORK pushes a record onto its core's deque, SPAWN one from memory onto the deque of a VCN's
core, and GANG starts one from memory in the lowest slot that is vacant on all four cores of the quad, or waits. Records belong to the
launch of the strand that makes them. -/
def Obligations.StrandCreateResult : Prop :=
  ∀ (s : State) (ra rb rc : GReg), s.cur.osc = 0 →
    (∀ disp : BitVec 32, MayJump s [ra, rb, rc] [] → s.cur.inRep = false → (s.coreAt s.core).deqLen < 512 →
      (let r : Rec :=
         { arg := (reg s ra).setWidth 32, l := false, tk := false, tvcn := 0, t := false, m := s.cur.isMig, nb := false, lnum := 0
           join := reg s rc, frame := reg s rb, pc := s.cur.pc + 4 * disp.signExtend 64 }
       exec (.fork ra rb rc disp) s = .next (moved 8 none (pushed (begun s) s.core (mine s r))))) ∧
    (∀ off, OwnStore s (reg s ra) off 32 → off % 32 = 0 → Unheld s .rlx →
      (let r := { mine s (recordAt s (ownKey s off)) with t := false }
       (∀ core, Ready s false false [ra, rb] [] → (reg s rb).toNat < 2 ^ 11 → s.vcnCore s.myPart (reg s rb).toNat = some core →
         (s.coreAt core).deqLen < 512 → Passes s core → exec (.spawn ra rb) s = .next (done s false 8 .done (pushed (begun s) core r))) ∧
       (Ready s false false [ra, rb] [] → (reg s rb).toNat < 2 ^ 11 → s.vcnCore s.myPart (reg s rb).toNat = none →
         TrapsWith s (.spawn ra rb) 0x09 (0x7F0000000000 + reg s rb * 2 ^ 19)) ∧
       (let quad := s.core / 4 * 4
        let open_ := fun (n : Nat) => ∀ i < 4, Vacant s (quad + i) n
        Ready s false false [ra] [] → s.cur.occupied = true →
          ((∀ n < 15, ¬ open_ n) → exec (.gang ra) s = .next (waiting s .memory)) ∧
          (∀ n, n < 15 → open_ n → (∀ j < n, ¬ open_ j) → (r.l = true → (s.partAt s.myPart).liveLaunch r.lnum ≠ none) →
            ∃ t, exec (.gang ra) s = .next t ∧ StrandIs s t (after s 8 id) ∧ t.mem = s.mem ∧
              ∀ i < 4, StartedAs (t.slotAt (quad + i) n) r ∧ (t.slotAt (quad + i) n).isGang = true ∧ (t.slotAt (quad + i) n).live = 15 ∧
                (t.slotAt (quad + i) n).isMig = false))))

/-- R281 to R283, R285, R173, R304, R121: JOIN, EXIT and JDEC decrement a join block in the issuing core's local store, or EXIT a launch's counter;
JOIN and EXIT end the strand, and JOIN's last decrement continues it from the block's record on the owner's core; JDEC's and EXIT's last push the
record there. That bit 63 of JB names a launch's counter by its ticket is log 17's choice. A block at zero traps with BARRIER. MIGR moves the strand to the home quad of an address. R160 (log 79): the end of the last
strand of a flattened child records its outcome. -/
def Obligations.StrandEndResult : Prop :=
  ∀ (s : State) (ra : GReg) (m : MForm) (off owner : Nat),
    let a := address s ra m
    let key := ownKey s off
    let pending := s.load key 4
    let counted := fun (t : State) => t.store key 8 (s.load key 8 - 1)
    let next := mine s (recordAt s (key + 16))
    let block := OwnStore s a off 48 ∧ off % 16 = 0
    let ended := fun (t : State) => t.childEnd s.myPart s.cur.jb
    let ownerIs := (s.vcnCore s.myPart (s.load (key + 6) 2)).getD s.core = owner
    (Settled s → Unheld s .rlx → (s.partAt s.myPart).replay = .off → Written s [ra] → Untagged s [ra] → block →
      (1 < pending → exec (.join ra m) s = .next (ended ((counted (begun s)).endStrand s.core s.slot))) ∧
      (pending = 1 → ownerIs → owner = s.core →
        exec (.join ra m) s = .next (ended (((counted (begun s)).endStrand s.core s.slot).startRecord s.core s.slot next))) ∧
      (pending = 1 → ownerIs → owner ≠ s.core → (s.coreAt owner).deqLen < 512 → Passes s owner →
        exec (.join ra m) s = .next (ended ((pushed (counted (begun s)) owner next).endStrand s.core s.slot))) ∧
      (pending = 0 → TrapsWith s (.join ra m) 0x19 a)) ∧
    (Ready s false false [ra] [] → s.cur.osc = 0 → Unheld s .rlx → (s.partAt s.myPart).replay = .off → block →
      (1 < pending → exec (.jdec ra m) s = .next (done s false 8 .done (counted (begun s)))) ∧
      (pending = 1 → ownerIs → (s.coreAt owner).deqLen < 512 → Passes s owner →
        exec (.jdec ra m) s = .next (done s false 8 .done (pushed (counted (begun s)) owner next))) ∧
      (pending = 0 → TrapsWith s (.jdec ra m) 0x19 a)) ∧
    (Settled s →
      (s.cur.jb = 0 → exec .exit s = .next (ended ((begun s).endStrand s.core s.slot))) ∧
      (s.cur.jb.getLsbD 63 = true →
        exec .exit s = .next (ended (((begun s).launchDecrement s.myPart (s.cur.jb.toNat % 2 ^ 62) false).endStrand s.core s.slot))) ∧
      (Unheld s .rlx → (s.partAt s.myPart).replay = .off → OwnStore s s.cur.jb off 48 → off % 16 = 0 →
        (1 < pending → exec .exit s = .next (ended ((counted (begun s)).endStrand s.core s.slot))) ∧
        (pending = 1 → ownerIs → (s.coreAt owner).deqLen < 512 → Passes s owner →
          exec .exit s = .next (ended ((pushed (counted (begun s)) owner next).endStrand s.core s.slot))) ∧
        (pending = 0 → TrapsWith s .exit 0x19 s.cur.jb))) ∧
    (∀ part (jb : Word),
      (jb.getLsbD 63 = false → s.childEnd part jb = s) ∧
      (∀ l n, jb.getLsbD 63 = true → (s.partAt part).byTicket (jb.toNat % 2 ^ 62) = some l → l.parent = some n → l.phase = .live →
        (s.holds part (soughtJoin jb) = true → s.childEnd part jb = s) ∧
        (s.holds part (soughtJoin jb) = false → s.childEnd part jb =
          s.modLaunch part l.ticket fun k => { k with phase := .over, outcome := some ((s.partAt part).childOutcome n) }))) ∧
    (s.cur.tags = 0 → s.cur.isGang = false →
      (s.endStrand s.core s.slot).mem = s.mem ∧ ((s.endStrand s.core s.slot).slotAt s.core s.slot).occupied = false ∧
        ∀ c k, ¬ (c = s.core ∧ k = s.slot) → (s.endStrand s.core s.slot).slotAt c k = s.slotAt c k) ∧
    (Written s [ra] → Untagged s [ra] → s.cur.inRep = false → NoSlot s →
      (let tied := s.cur.anchored ∨ s.cur.holdsEnd ∨ s.cur.isNb ∨ s.cur.pin ∨ s.cur.isGang
       (tied → TrapsWith s (.migr ra) 0x16 0) ∧
       (∀ i, ¬ tied → OwnStore s (reg s ra) i 1 → exec (.migr ra) s = .next (done s false 8 .done (begun s))) ∧
       (∀ pa, ¬ tied → Reachable s (reg s ra) 1 false pa →
         (s.homeQuadOf pa = s.core / 4 → exec (.migr ra) s = .next (done s false 8 .done (begun s))) ∧
         (s.homeQuadOf pa ≠ s.core / 4 → s.cur.pend = 0 → (s.quadAt (s.core / 4)).gate = [] → (s.quadAt (s.homeQuadOf pa)).landing.length < 16 →
           exec (.migr ra) s =
             .next ((((begun s).modQuad (s.homeQuadOf pa) fun q =>
               { q with landing := q.landing ++ [{ slot := after s 8 id, part := s.myPart }] }).setSlot s.core s.slot
                 (after s 8 id).fresh).post (.migrationLanding (s.homeQuadOf pa)))))))

/-- R175 to R177, R179, R354, R355: SLOT_POP starts a vacant slot from its core's deque, the newest record but every 64th time the oldest;
DEQUE_PUSH_RESUME enters a waiting push; STEAL moves the oldest record of the first sibling that has one; MIGRATION_LANDING seats a strand
in the lowest place of its quad; CONTEXT_RESTORE_COMPLETE starts the slice, and after a slice switch sets COST; SLICE_EXPIRY switches the slot, or stays due while the switch is
deferred. -/
def Obligations.SlotEventsResult : Prop :=
  ∀ (s : State) (core slot : Nat),
    let c := s.coreAt core
    let open_ := fun (k : Nat) => (s.coreAt k).up = true ∧ (s.coreAt k).frozen = false
    let record := fun (k : Nat) (i : BitVec 32) => s.load (2 ^ 52 + k * 2 ^ 19 + 0x70000 + 32 * (i.toNat % 512)) 32
    (15 ≤ slot ∨ ¬ open_ core ∨ ¬ Vacant s core slot → exec (.slotPop core slot) s = .next s) ∧
    (slot < 15 → open_ core → Vacant s core slot → s.cached core = [] →
      (c.deqLen = 0 → c.batches = 0 → exec (.slotPop core slot) s = .next s) ∧
      (c.deqLen ≠ 0 →
        exec (.slotPop core slot) s =
          .next ((s.modCore core fun c =>
            { c with
              popN := c.popN + 1, dqt := if c.popN = 63 then c.dqt + 1 else c.dqt
              dqb := if c.popN = 63 then c.dqb else c.dqb - 1 }).startRecord core slot
            (Rec.unpack (BitVec.ofNat 256 (record core (if c.popN = 63 then c.dqt else c.dqb - 1))))))) ∧
    (c.deqWait = [] → exec (.dequePushResume core) s = .next s) ∧
    (∀ r, c.deqWait = [r] → c.deqLen < 512 →
      exec (.dequePushResume core) s =
        .next ((s.store (2 ^ 52 + core * 2 ^ 19 + 0x70000 + 32 * (c.dqb.toNat % 512)) 32 r.toNat).modCore core fun c =>
          { c with dqb := c.dqb + 1, deqWait := [] })) ∧
    (s.isEmptyCore core = false → exec (.steal core) s = .next s) ∧
    (let v := core / 4 * 4 + (c.stealSib + 1) % 4
     s.isEmptyCore core = true → (s.partAt (s.partOf core)).replay = .off → v ≠ core → open_ v → (s.coreAt v).deqLen ≠ 0 →
       ∃ t, exec (.steal core) s = .next t ∧ (t.coreAt core).dqb = c.dqb + 1 ∧ (t.coreAt v).dqt = (s.coreAt v).dqt + 1 ∧
         t.mem = (s.store (2 ^ 52 + core * 2 ^ 19 + 0x70000 + 32 * (c.dqb.toNat % 512)) 32 (record v (s.coreAt v).dqt % 2 ^ 256)).mem) ∧
    (∀ quad, (s.quadAt quad).landing = [] → exec (.migrationLanding quad) s = .next s) ∧
    (∀ quad m i k, (s.quadAt quad).landing = [m] → (s.partAt m.part).replay = .off → i < 4 → k < 15 →
      (let holds := fun (j n : Nat) => s.partOf (quad * 4 + j) = m.part ∧ open_ (quad * 4 + j) ∧ Vacant s (quad * 4 + j) n
       holds i k → (∀ j < i, ∀ n < 15, ¬ holds j n) → (∀ n < k, ¬ holds i n) →
       ∃ t, exec (.migrationLanding quad) s = .next t ∧ (t.quadAt quad).landing = [] ∧ t.mem = s.mem ∧
         (let y := t.slotAt (quad * 4 + i) k
          y.pc = m.slot.pc ∧ y.g = m.slot.g ∧ y.tags = m.slot.tags ∧ y.status = m.slot.status ∧ y.occupied = true ∧
            y.jb = m.slot.jb ∧ y.sid = m.slot.sid ∧ y.asid = m.slot.asid ∧ y.xtgt = 0 ∧ y.xpc = 0 ∧ y.xcause = 0))) ∧
    ((s.slotAt core slot).restoring = false → exec (.contextRestoreComplete core slot) s = .next s) ∧
    ((s.slotAt core slot).restoring = true →
      (let u := s.modSlot core slot fun x => { x with restoring := false, slice := 0, expired := false, switchAt := none }
       ((s.slotAt core slot).switchAt = none → exec (.contextRestoreComplete core slot) s = .next u) ∧
       (∀ began, (s.slotAt core slot).switchAt = some began →
         (let cost := c.cycle.toNat - began
          exec (.contextRestoreComplete core slot) s =
            .next (u.modCore core fun c =>
              { c with cost := cost, raised := c.raised || (c.sliceLen != 0 && decide (c.sliceLen.toNat < cost)) }))))) ∧
    (let x := s.slotAt core slot
     let due := x.occupied = true ∧ x.isGang = false ∧ c.sliceLen ≠ 0 ∧ max c.sliceLen.toNat c.cost ≤ x.slice ∧ c.saving = none
     (slot < 15 → due → x.ds ≠ 0 ∨ x.inRep = true ∨ x.trapped = true ∨ x.stopped = true ∨ c.frozen = true ∨ x.kill.isSome = true →
       exec (.sliceExpiry core slot) s =
         .next ((s.modSlot core slot fun x => { x with expired := true }).post (.sliceExpiry core slot))) ∧
     (∀ t free, slot < 15 → due → s.sliceDeferred core slot = false → s.framesFree core = (t, free) →
       (free = true → exec (.sliceExpiry core slot) s = .next (t.sliceSwitch core slot)) ∧
       (free = false → exec (.sliceExpiry core slot) s =
         .next ((t.modSlot core slot fun x => { x with expired := true }).post (.sliceExpiry core slot)))) ∧
     ((∀ d di, (d, di) ∈ s.dies → ∀ e ∈ di.dir, e.2.getLsbD 53 = false) → s.framesFree core = (s, true)) ∧
     (∀ e, s.cached core = [e] → c.deqLen = 0 → c.batches = 0 →
       (let p := s.takeContext core slot e
        ∀ f, p.1.freeEntry core = some f →
          s.sliceSwitch core slot = (p.1.saveContext core (s.vcnOf core) f x).switchIn core slot p.2)) ∧
     (x.occupied = false → exec (.sliceExpiry core slot) s = .next s) ∧
     (x.occupied = true → ¬ due →
       exec (.sliceExpiry core slot) s = .next (s.modSlot core slot fun x => { x with expired := false })))

/-- R364, R183, R185, R350, R392, Table 11.9: the occurrences of a core's own clocks. TRAP_QUEUE_ENTRY enters waiting records while there is room;
FRAMING_ARRIVAL restarts a core's timer, and the last arrival of a die completes its phase, in which a change of the region table, of a budget
or of a placement control word takes effect (R184, R353); BUDGET_WINDOW clears the counts of flits, takes up the budgets and injects the held packets;
SAMPLING_WINDOW classes the core; the trace samples take up the counts since the last ones. -/
def Obligations.ClockEventsResult : Prop :=
  ∀ (s : State) (core : Nat),
    let c := s.coreAt core
    let d := core / 256
    (c.held = [] → ∃ t, exec (.trapQueueEntry core) s = .next t ∧ (t.coreAt core).trapQ = c.trapQ ∧ (t.coreAt core).held = []) ∧
    (∀ r, c.held = [r] → c.trapQ.length < 16 →
      ∃ t, exec (.trapQueueEntry core) s = .next t ∧ (t.coreAt core).trapQ = c.trapQ ++ [r] ∧ (t.coreAt core).held = [] ∧
        (c.trapQ = [] → (s.slotAt core 15).occupied = false → c.halted = false →
          (t.slotAt core 15).occupied = true ∧ (t.slotAt core 15).pc = c.xvec ∧ ∀ i < 16, (t.slotAt core 15).g[i]! = 0)) ∧
    (c.trapQ.length = 16 → ∃ t, exec (.trapQueueEntry core) s = .next t ∧ (t.coreAt core).trapQ = c.trapQ ∧
      (t.coreAt core).held = c.held) ∧
    (c.up = false ∨ c.framing ≠ 0 ∨ c.lateArr = true → exec (.framingArrival core) s = .next s) ∧
    (c.up = true → c.framing = 0 → c.lateArr = false → c.arrived = true →
      exec (.framingArrival core) s = .next (s.modCore core fun c => { c with lateArr := true })) ∧
    (c.up = true → c.framing = 0 → c.lateArr = false → c.arrived = false →
      (let u := s.modCore core fun c => { c with arrived := true, lateArr := false, arriving := true, framing := 2 ^ c.fper.toNat }
       ((∃ k < 256, d * 256 + k ≠ core ∧ (s.coreAt (d * 256 + k)).arrived = false) → exec (.framingArrival core) s = .next u) ∧
       ((∀ k < 256, d * 256 + k ≠ core → (s.coreAt (d * 256 + k)).arrived = true) →
         (s.parts = [] → (s.dieAt d).swaps = [] → (∀ e ∈ s.cores, e.2.restVcn = none) →
           ∃ t, exec (.framingArrival core) s = .next t ∧ (t.dieAt d).fphase = (s.dieAt d).fphase + 1 ∧
             (∀ i e, s.sys.operator = [.region d i e] → t.sys.operator = [] ∧ (t.dieAt d).regions.find i = some e) ∧
             (∀ q k n, q / 64 = d → s.sys.operator = [.budget q k n] → t.sys.operator = [] ∧ (t.quadAt q).budgetNew.find k = some n ∧
               (t.quadAt q).budget = (s.quadAt q).budget) ∧
             (∀ p (w : Word), s.sys.operator = [.control d p w] → t.sys.operator = [] ∧
               (t.dieAt d).control p =
                 if w.toNat / 2 ^ 24 = 0 ∧ w.toNat / 2 ^ 11 % 2 ^ 5 = 0 ∧ w.toNat / 2 ^ 3 % 2 ^ 3 = 0 ∧ w.toNat / 2 ^ 6 % 2 ^ 5 ≠ 0 then w
                 else (s.dieAt d).control p))))) ∧
    (∀ quad,
      let q := s.quadAt quad
      let opens (m : Map Nat) (s : State) := s.modQuad quad fun q => { q with flits := m, budget := q.budgetNew, packets := [], traces := [] }
      (q.packets = [] → q.traces = [] → exec (.budgetWindow quad) s = .next (opens [] s)) ∧
      (∀ p, q.packets = [p] → q.traces = [] →
        exec (.budgetWindow quad) s =
          .next ((opens (if q.budgetNew.get 0 p.key = 0 then [] else [(p.key, p.flits)]) s).post p.event))) ∧
    (let ithr := ((s.dieAt d).control (s.partOf core)).toNat / 2 ^ 16 % 256
     let idle := ∀ e ∈ c.slots, e.1 < 15 → e.2.issuedInWindow = false
     ∃ t, exec (.samplingWindow core) s = .next t ∧ t.mem = s.mem ∧
       (ithr = 0 → (t.coreAt core).winClass = 2) ∧ (ithr ≠ 0 → idle → (t.coreAt core).winClass = 0) ∧
       (ithr ≠ 0 → ¬ idle → (t.coreAt core).winClass = if ithr * c.winBytes ≤ c.winOps then 1 else 2) ∧
       (t.coreAt core).winOps = 0 ∧ (t.coreAt core).winBytes = 0 ∧ (∀ e ∈ (t.coreAt core).slots, e.2.issuedInWindow = false)) ∧
    (∃ t, exec (.traceLossSample core) s = .next t ∧ ∀ k < 16,
      (t.slotAt core k).traceI = (s.slotAt core k).lossI ∧ (t.slotAt core k).traceM = (s.slotAt core k).lossM ∧
      (t.slotAt core k).traceG = (s.slotAt core k).lossG ∧ (t.slotAt core k).traceV = (s.slotAt core k).lossV ∧
      (t.slotAt core k).lossI = (s.slotAt core k).lossI) ∧
    (∃ t, exec (.traceReadyHistogram core) s = .next t ∧ (t.coreAt core).histSent = c.hist ∧ (t.coreAt core).hist = c.hist)

/-- R316, R307, R308, R310: the integer vector instructions, in both operand forms. Each selected lane takes the operation on elements of the
type's width, sign-extended; the other lanes keep their values; sat clamps vadd, vsub and vmul. -/
def Obligations.IntegerVectorResult : Prop :=
  ∀ (s : State) (vd va vb : VReg) (v : VForm), v.type.isInt = true → Ready s false false [] [] →
    let w := 8 * v.type.bytes
    let a := fun (l : Nat) => BitVec.ofNat w (laneOf s va l)
    let b := fun (l : Nat) => if v.aux = 1 then BitVec.ofInt w v.imm.toInt else BitVec.ofNat w (laneOf s vb l)
    let ran := fun (i : Instr) (f : BitVec w → BitVec w → BitVec w) =>
      ∃ t, exec i s = .next t ∧ VectorWrote s t vd v.mask (fun l => ((f (a l) (b l)).signExtend 32).toNat) 0
    let exact := fun (x : Int) =>
      BitVec.ofInt w (if v.sat then max (-(2 ^ (w - 1) : Int)) (min (2 ^ (w - 1) - 1) x) else x)
    ran (.vadd vd va vb v) (fun x y => exact (x.toInt + y.toInt)) ∧
    ran (.vsub vd va vb v) (fun x y => exact (x.toInt - y.toInt)) ∧
    ran (.vmul vd va vb v) (fun x y => exact (x.toInt * y.toInt)) ∧
    ran (.vand vd va vb v) (fun x y => x &&& y) ∧ ran (.vor vd va vb v) (fun x y => x ||| y) ∧
    ran (.vxor vd va vb v) (fun x y => x ^^^ y) ∧
    ran (.vshl vd va vb v) (fun x y => x <<< (y.toNat % 32)) ∧ ran (.vshr vd va vb v) (fun x y => x >>> (y.toNat % 32)) ∧
    ran (.vsar vd va vb v) (fun x y => x.sshiftRight (y.toNat % 32)) ∧
    ran (.vmin vd va vb v) (fun x y => if y.toInt < x.toInt then y else x) ∧
    ran (.vmax vd va vb v) (fun x y => if x.toInt < y.toInt then y else x) ∧
    ran (.vminN vd va vb v) (fun x y => if y.toNat < x.toNat then y else x) ∧
    ran (.vmaxN vd va vb v) (fun x y => if x.toNat < y.toNat then y else x)

/-- R317, R214: the floating vector instructions. Each selected lane takes the exact result, rounded once to the element type under rnd and sat;
a NaN that the operation makes is canonical and sets NV; the sticky flags gain those of the selected lanes. -/
def Obligations.FloatVectorResult : Prop :=
  ∀ (s : State) (vd va vb vc : VReg) (v : VForm), Ready s false false [] [] →
    let f := elemFmt v.type
    let mode := s.cur.mode v.rnd
    let code := fun (r : VReg) (l : Nat) => laneOf s r l % 2 ^ (8 * v.type.bytes)
    let x := fun (l : Nat) => f.value (code va l)
    let y := fun (l : Nat) => f.value (code vb l)
    let z := fun (l : Nat) => f.value (code vc l)
    let once := fun (r : Ext × Bool) => if r.2 then (f.nanCode, (16 : BitVec 5)) else f.ofExt mode v.sat r.1
    let below := fun (l : Nat) => (x l).lt (y l) ∨ (¬ (y l).lt (x l) ∧ 2 ^ (f.ebits + f.fbits) ≤ code va l)
    let nan := fun (l : Nat) => (x l).isNan ∨ (y l).isNan
    let ran := fun (i : Instr) (g : Nat → Nat × BitVec 5) =>
      ∃ t fl, exec i s = .next t ∧ FlagsAre s v.mask fl (fun l => (g l).2) ∧ VectorWrote s t vd v.mask (fun l => (g l).1) fl
    let fused := fun (np nc : Bool) (l : Nat) =>
      let p := Ext.mul (x l) (y l)
      if p.2 then (f.nanCode, (16 : BitVec 5))
      else once (Ext.add mode (if np then p.1.neg else p.1) (if nc then (z l).neg else z l))
    ran (.vfadd vd va vb v) (fun l => once (Ext.add mode (x l) (y l))) ∧
    ran (.vfsub vd va vb v) (fun l => once (Ext.add mode (x l) (y l).neg)) ∧
    ran (.vfmul vd va vb v) (fun l => once (Ext.mul (x l) (y l))) ∧
    ran (.vfmin vd va vb v) (fun l => (if nan l then f.nanCode else if below l then code va l else code vb l, 0)) ∧
    ran (.vfmax vd va vb v) (fun l => (if nan l then f.nanCode else if below l then code vb l else code va l, 0)) ∧
    ran (.vfdiv vd va vb v) (fun l => f.div mode v.sat (x l) (y l)) ∧ ran (.vfsqrt vd va v) (fun l => f.sqrt mode v.sat (x l)) ∧
    ran (.vfrcp vd va v) (fun l => f.div mode v.sat (.fin false 1 0) (x l)) ∧ ran (.vfrsq vd va v) (fun l => f.rsqrt mode v.sat (x l)) ∧
    ran (.vfma vd va vb vc v) (fused false false) ∧ ran (.vfms vd va vb vc v) (fused false true) ∧
    ran (.vfnma vd va vb vc v) (fused true false)

/-- R313 to R315, R63: vector loads and stores on the issuing core's own local store, plain, of a ring slot, gathered and scattered, while
no reduction of the strand's own holds them: a load's
selected lanes take the elements, extended as the type says, and a store writes the selected elements in ascending order of lanes. A ring
of another kind, or with slots too small, traps with RING; one that is not yet filled or free makes the strand wait. -/
def Obligations.VectorMemoryResult : Prop :=
  ∀ (s : State) (vd vb vc : VReg) (ra : GReg) (q : QReg) (v : VForm) (off : Nat → Nat),
    let n := v.type.bytes
    let a := reg s ra + v.imm.signExtend 64
    let plain := fun (b : Word) (l : Nat) => b + BitVec.ofNat 64 (n * l)
    let lanes := fun (l : Nat) => a + ((BitVec.ofNat 32 (laneOf s vb l)).signExtend 64 <<< (v.aux.toNat % 4))
    let r := s.ring s.core q.toNat
    let k := v.imm.toNat % 256
    let slot := fun (i : Nat) => BitVec.ofNat 64 (0x7E0000000000 + r.slotOff (i + k))
    let element := fun (x : Nat) => if v.type.isInt then ((BitVec.ofNat (8 * n) x).signExtend 32).toNat else x
    let loads := fun (i : Instr) => ∃ t x, exec i s = .next t ∧ t.mem = s.mem ∧
      LanesAre s vd v.mask (fun l => element (s.load (ownKey s (off l)) n)) x ∧
      StrandIs s t (after s 8 fun y => { y.anchor with v := y.v.set! vd.toNat x, host := none })
    let stores := fun (i : Instr) => ∃ (t : State) (ls : List Nat), exec i s = .next t ∧ (∀ l, l ∈ ls ↔ l < 32 ∧ Selected s v.mask l) ∧ ls.Pairwise (· < ·) ∧
      t.mem = (ls.foldl (fun u l => u.storeBytes (ownKey s (off l)) (toBytes n (laneOf s vc l))) s).mem ∧
      StrandIs s t (after s 8 fun y => { y with host := none })
    (Ready s false false [ra] [] → LanesReach s v.mask n (plain a) off → Unheld s .rlx →
      loads (.vld false vd ra v) ∧ stores (.vst ra vc v)) ∧
    (Ready s false false [ra] [] → LanesReach s v.mask n lanes off → Unheld s .rlx → loads (.vldg false vd ra vb v) ∧ stores (.vsts ra vb vc v)) ∧
    (Ready s false false [] [] →
      (r.valid = true → r.ckind = 0 → 32 * n ≤ r.slotBytes →
        (k < r.filled → LanesReach s v.mask n (plain (slot r.tail)) off → Unheld s .rlx → loads (.vldRing false vd q v)) ∧
        (r.filled ≤ k → exec (.vldRing false vd q v) s = .next (waiting s .memory))) ∧
      (¬ (r.valid = true ∧ r.ckind = 0 ∧ 32 * n ≤ r.slotBytes) → TrapsWith s (.vldRing false vd q v) 0x17 (q.setWidth 64)) ∧
      (r.valid = true → r.pkind = 0 → 32 * n ≤ r.slotBytes →
        (k < r.free → LanesReach s v.mask n (plain (slot r.head)) off → Unheld s .rlx → stores (.vstRing q vc v)) ∧
        (r.free ≤ k → exec (.vstRing q vc v) s = .next (waiting s .memory))) ∧
      (¬ (r.valid = true ∧ r.pkind = 0 ∧ 32 * n ≤ r.slotBytes) → TrapsWith s (.vstRing q vc v) 0x17 (q.setWidth 64)))

/-- R318 to R321, R325, R308: VCVT, VCMP, VSEL, VPERM, VBC, VMVG and the mask instructions. A write of m0 is discarded; VMVG to a general
register and MPOP do not anchor. R322 to R324, R218: VRED folds the selected lanes, the others standing for the identity, by the tree of R218 into lane 0 and clears the
other lanes; VHAD takes a vector through the signed transform of R217; QNT scales the selected lanes by a shared exponent, whose biased code
it writes. -/
def Obligations.VectorMoveAndReduceResult : Prop :=
  (∀ (s : State) (vd va vb : VReg) (rd ra : GReg) (md ma mb mc : MReg) (v : VForm) (cc : Cond),
     let lanes := fun (i : Instr) (g : Nat → Nat) => ∃ t, exec i s = .next t ∧ VectorWrote s t vd v.mask g 0
     let mask := fun (m : MReg) => if m = 0 then BitVec.allOnes 32 else s.cur.m[m.toNat]!
     let masks := fun (i : Instr) (x : BitVec 32) =>
       exec i s = .next (done s false 8 .done
         ((begun s).modCur fun y => { y.anchor with m := if md = 0 then y.m else y.m.set! md.toNat x }))
     let index := v.imm.toNat % 32
     (Ready s false false [] [] →
       lanes (.vsel vd va vb mc v) (fun l => if (mask mc).getLsbD l then laneOf s va l else laneOf s vb l) ∧
       lanes (.vperm vd va vb v) (fun l => laneOf s va (laneOf s vb l % 32)) ∧
       (∀ src, auxType v.aux = some src →
         (let g := fun (l : Nat) => convert src v.type (s.cur.mode v.rnd) v.sat (laneOf s va l)
          ∃ t fl, exec (.vcvt vd va v) s = .next t ∧ FlagsAre s v.mask fl (fun l => (g l).2) ∧
            VectorWrote s t vd v.mask (fun l => (g l).1) fl)) ∧
       (∃ t x, exec (.vcmpCc cc md va vb v) s = .next t ∧ t.mem = s.mem ∧
         (∀ l < 32, x.getLsbD l =
           (if (mask v.mask).getLsbD l then vcond cc v.type (laneOf s va l) (laneOf s vb l) else (mask md).getLsbD l)) ∧
         StrandIs s t (after s 8 fun y => { y.anchor with m := if md = 0 then y.m else y.m.set! md.toNat x })) ∧
       (v.type.isInt = true → ∀ x y, vcond cc v.type x y =
         (let w := 8 * v.type.bytes
          Holds cc ((BitVec.ofNat w x).signExtend 64) ((BitVec.ofNat w y).signExtend 64))) ∧
       masks (.mand md ma mb) (mask ma &&& mask mb) ∧ masks (.mor md ma mb) (mask ma ||| mask mb) ∧
       masks (.mxor md ma mb) (mask ma ^^^ mask mb) ∧ masks (.mnot md ma) (~~~ mask ma)) ∧
     (Ready s false false [ra] [] →
       lanes (.vbc vd ra v) (fun _ => (reg s ra).toNat % 2 ^ 32) ∧ masks (.mset md ra) ((reg s ra).setWidth 32) ∧
       (∃ t x, exec (.vmvgToV false vd ra v) s = .next t ∧ t.mem = s.mem ∧
         (∀ l < 32, laneAt x l = if l = index then (reg s ra).toNat % 2 ^ 32 else laneOf s vd l) ∧
         StrandIs s t (after s 8 fun y => { y.anchor with v := y.v.set! vd.toNat x }))) ∧
     (Ready s false false [] [rd] →
       (∃ t, exec (.vmvgToG false rd va v) s = .next t ∧ t.mem = s.mem ∧
         StrandIs s t (after s 8 fun y => y.setG rd (BitVec.ofNat 64 (laneOf s va index)))) ∧
       exec (.mpop rd ma) s = .next (wrote s false 8 rd (BitVec.ofNat 64 ((List.range 32).filter fun l => (mask ma).getLsbD l).length)))) ∧
  (∀ (s : State) (op : VredOp) (vd va : VReg) (rb rc : GReg) (v : VForm),
     let w := 8 * v.type.bytes
     (v.type.isInt = true → Ready s false false [] [] →
       (let x := fun (l : Nat) => BitVec.ofNat w (laneOf s va l)
        let fold := fun (f : BitVec w → BitVec w → BitVec w) (e : BitVec w) (ls : List Nat) => ls.foldl (fun acc l => f acc (x l)) e
        ∃ t ls r, exec (.vred false op vd va v) s = .next t ∧ t.mem = s.mem ∧ (∀ l, l ∈ ls ↔ l < 32 ∧ Selected s v.mask l) ∧ ls.Nodup ∧
          StrandIs s t (after s 8 fun y => ({ y.anchor with v := y.v.set! vd.toNat ((r : BitVec w).signExtend 32 |>.setWidth 1024) }).orFlags 0) ∧
          r = (match op with
            | .add => fold (fun p q => p + q) 0 ls
            | .and => fold (fun p q => p &&& q) (BitVec.allOnes w) ls
            | .or => fold (fun p q => p ||| q) 0 ls
            | .xor => fold (fun p q => p ^^^ q) 0 ls
            | .min => fold (fun p q => if q.toInt < p.toInt then q else p) (BitVec.ofNat w (2 ^ (w - 1) - 1)) ls
            | .max => fold (fun p q => if p.toInt < q.toInt then q else p) (BitVec.ofNat w (2 ^ (w - 1))) ls))) ∧
     (v.type.isInt = false → Ready s false false [] [] → ∃ (t : State) (x : BitVec 1024) (xs : List Nat),
       exec (.vred false op vd va v) s = .next t ∧ t.mem = s.mem ∧ xs.length = 32 ∧
       (∀ l < 32, (Selected s v.mask l → xs[l]! = laneOf s va l % 2 ^ w) ∧ (¬ Selected s v.mask l → xs[l]! = redIdentity op v.type)) ∧
       laneAt x 0 = (redTree op v.type 5 xs).1 % 2 ^ w ∧ (∀ l < 32, l ≠ 0 → laneAt x l = 0) ∧
       StrandIs s t (after s 8 fun y => ({ y.anchor with v := y.v.set! vd.toNat x }).orFlags (redTree op v.type 5 xs).2)) ∧
     (Ready s false false [rb, rc] [] →
       ((reg s rc).toNat % 32 ≠ 0 → TrapsWith s (.vhad vd va rb rc v) 0x01 (rc.setWidth 64)) ∧
       ((reg s rc).toNat % 32 = 0 →
         (let f := elemFmt v.type
          let a := (List.range 32).map fun l => f.value (laneOf s va l % 2 ^ w)
          let y := fun (l : Nat) =>
            let z := hadOutput a (reg s rb) (reg s rc).toNat l
            if v.aux.getLsbD 0 then z.scale (-5) else z
          ∃ t fl g, exec (.vhad vd va rb rc v) s = .next t ∧ VectorWrote s t vd v.mask g fl ∧
            ∀ l < 32, ∀ neg m e, y l = .fin neg m e → m ≠ 0 → g l = (f.ofExt (s.cur.mode v.rnd) v.sat (y l)).1))) ∧
     (Ready s false false [] [rb] →
       (let x := fun (l : Nat) => fp32.value (laneOf s va l)
        let finite := fun (l : Nat) => ∃ neg m e, x l = .fin neg m e
        ((∃ l < 32, Selected s v.mask l ∧ ¬ finite l) → ∃ t g, exec (.qnt vd va rb v) s = .next t ∧ t.mem = s.mem ∧
          (∃ z, LanesAre s vd v.mask g z ∧
            StrandIs s t (after s 8 fun y => ({ (y.setG rb 0xFF).anchor with v := y.v.set! vd.toNat z }).orFlags 16)) ∧
          ∀ l, g l = if v.type = .e4m3 then 0x7F else if v.type = .e5m2 then 0x7E else 0) ∧
        ((∀ l < 32, Selected s v.mask l → finite l) → (∀ l < 32, Selected s v.mask l → ∃ neg e, x l = .fin neg 0 e) →
          ∃ t, exec (.qnt vd va rb v) s = .next t ∧ t.mem = s.mem ∧
            (∃ z g, LanesAre s vd v.mask g z ∧ (∀ l, Selected s v.mask l → g l % (if v.aux = 1 then 8 else 128) = 0) ∧
              StrandIs s t (after s 8 fun y => ({ (y.setG rb 0).anchor with v := y.v.set! vd.toNat z }).orFlags 0))) ∧
        (∀ k neg m e, (∀ l < 32, Selected s v.mask l → finite l) → k < 32 → Selected s v.mask k → x k = .fin neg m e → m ≠ 0 →
          (∀ l < 32, Selected s v.mask l → ¬ (x k).abs.lt (x l).abs) →
          (let emax : Int := if v.aux = 1 then 2 else if v.type = .e4m3 then 8 else if v.type = .e5m2 then 15 else 6
           let n := (m.log2 : Int) + e - emax
           let shared := max (-127) (min 127 n)
           ∃ t fl g, exec (.qnt vd va rb v) s = .next t ∧ t.mem = s.mem ∧
             FlagsAre s v.mask fl (fun l => (qntRound v (s.cur.mode v.rnd) ((x l).scale (-shared))).2) ∧
             (∀ l, g l = (qntRound v (s.cur.mode v.rnd) ((x l).scale (-shared))).1) ∧
             (∃ z, LanesAre s vd v.mask g z ∧
               StrandIs s t (after s 8 fun y =>
                 ({ (y.setG rb (BitVec.ofInt 64 (shared + 127))).anchor with v := y.v.set! vd.toNat z }).orFlags fl)))))))

/-- R328 to R334, R219 to R222: the distribution instructions. DFROM builds points of equal weight, DLD loads lanes and replaces an unnormalized
one by NaN, DST stores them; DADD to DMIN pair and condense all 16 lanes and unite the lineages; DAFF maps every point; DMOM and DQNT write
a moment or quantile of each lane; DLIN sets or reads a lineage. That DMAX and DMIN order minus zero below plus zero is the model's reading
(DEDUCED, log 57). -/
def Obligations.DistributionResult : Prop :=
  ∀ (s : State) (dd da db : DReg) (vd va vb : VReg) (rd ra rb : GReg) (v : VForm) (off : Nat),
    let reg_ := fun (r : DReg) => s.cur.dist r
    let wrote := fun (i : Instr) (x : DistReg) (norm dep : Bool) => ∃ t, exec i s = .next t ∧ t.mem = s.mem ∧
      StrandIs s t (after s 8 fun y =>
        { y.anchor with d := y.d.set! dd.toNat x, dstat := y.dstat ||| BitVec.ofNat 64 (2 * norm.toNat + dep.toNat) })
    let lanes := fun (x : DistReg) (f : Nat → BitVec 384 → Prop) =>
      ∀ n < 16, (Selected s v.mask n → f n (x.lane n)) ∧ (¬ Selected s v.mask n → x.lane n = (reg_ dd).lane n)
    let even := fun (l : BitVec 384) (g : Nat → Nat) => ∀ i < 8, pointW l i = 0x1000 ∧ pointV l i = g i
    let a := reg s ra + v.imm.signExtend 64
    let stored := fun (n : Nat) => BitVec.ofNat 384 (s.load (ownKey s off + 48 * n) 48)
    let normal := fun (l : BitVec 384) => ((List.range 8).map (pointW l)).sum = 0x8000
    (Ready s false false [] [] →
      (∃ x, wrote (.dfrom dd va vb v) x false false ∧ x.lineage = v.imm ∧
        lanes x fun n l => even l fun i =>
          if v.aux.toNat % 4 = 0 then (if (fp32.value (laneOf s va n)).isNan then fp32.nanCode else laneOf s va n)
          else spread (fp32.value (laneOf s va n)) (fp32.value (laneOf s vb n)) i) ∧
      (let a := reg_ da
       let b := reg_ db
       let same := a.lineage = b.lineage ∧ a.lineage ≠ 0
       let dep := a.lineage &&& b.lineage ≠ 0 ∧
         (¬ same ∨ ∃ n < 16, ∃ i < 8, pointW (a.lane n) i ≠ pointW (b.lane n) i)
       let op := fun (i : Instr) (f : Ext → Ext → Ext) => ∃ x d, wrote i x false d ∧ (d = true ↔ dep) ∧ x.lineage = a.lineage ||| b.lineage ∧
         ∀ n < 16, x.lane n = condense (
           if same then (List.range 8).map fun i =>
             { value := f (fp32.value (pointV (a.lane n) i)) (fp32.value (pointV (b.lane n) i)), mass := pointW (a.lane n) i * 0x8000, idx := 9 * i }
           else (List.range 64).map fun k =>
             { value := f (fp32.value (pointV (a.lane n) (k / 8))) (fp32.value (pointV (b.lane n) (k % 8)))
               mass := pointW (a.lane n) (k / 8) * pointW (b.lane n) (k % 8), idx := k })
       op (.dadd dd da db) (fun x y => (Ext.add .rne x y).1) ∧ op (.dsub dd da db) (fun x y => (Ext.add .rne x y.neg).1) ∧
       op (.dmul dd da db) (fun x y => (Ext.mul x y).1) ∧
       op (.dmax dd da db) (fun x y => if x.isNan ∨ y.isNan then .nan else if x.lt y ∨ (¬ y.lt x ∧ x.isNeg) then y else x) ∧
       op (.dmin dd da db) (fun x y => if x.isNan ∨ y.isNan then .nan else if x.lt y ∨ (¬ y.lt x ∧ x.isNeg) then x else y)) ∧
      (∃ t x, exec (.dmom false vd da v) s = .next t ∧ t.mem = s.mem ∧
        (∀ n < 32, laneAt x n = if n < 16 then moment (v.aux.toNat % 4) ((reg_ da).lane n) % 2 ^ 32 else 0) ∧
        StrandIs s t (after s 8 fun y => { y.anchor with v := y.v.set! vd.toNat x })) ∧
      (∀ l, pointW l 0 = 0x8000 → (∀ i, 0 < i → i < 8 → pointW l i = 0) → ∀ p : BitVec 16, p.toNat ≤ 0x8000 →
        quantile p l = if (fp32.value (pointV l 0)).isNan then fp32.nanCode else pointV l 0) ∧
      (∃ t x, exec (.dqnt false vd da v) s = .next t ∧ t.mem = s.mem ∧
        (∀ n < 32, laneAt x n = if n < 16 then quantile v.imm ((reg_ da).lane n) % 2 ^ 32 else 0) ∧
        StrandIs s t (after s 8 fun y => { y.anchor with v := y.v.set! vd.toNat x })) ∧
      (∀ lin, wrote (.dlinSet dd lin) { reg_ dd with lineage := lin } false false)) ∧
    (Ready s false false [] [rd] → exec (.dlinGet rd da) s = .next (Safety.wrote s false 8 rd ((reg_ da).lineage.setWidth 64))) ∧
    (Ready s false false [ra, rb] [] →
      ((reg s rb).toNat < 2 ^ 16 → OwnStore s a off 768 → Unheld s .rlx →
        ∃ x norm, wrote (.dld false dd ra rb v) x norm false ∧ x.lineage = (reg s rb).setWidth 16 ∧
          (norm = true ↔ ∃ n < 16, Selected s v.mask n ∧ ¬ normal (stored n)) ∧
          lanes x fun n l => (normal (stored n) → l = stored n) ∧ (¬ normal (stored n) → even l fun _ => fp32.nanCode)) ∧
      (2 ^ 16 ≤ (reg s rb).toNat → TrapsWith s (.dld false dd ra rb v) 0x01 (rb.setWidth 64))) ∧
    (Ready s false false [ra] [] → OwnStore s a off 768 → Unheld s .rlx → MemOk s → ∃ t, exec (.dst ra da v) s = .next t ∧
      StrandIs s t (after s 8 fun y => { y with host := none }) ∧ SameOutside s t (ownKey s off) 768 ∧
      ∀ n < 16, (Selected s v.mask n → BitVec.ofNat 384 (t.load (ownKey s off + 48 * n) 48) = (reg_ da).lane n) ∧
        (¬ Selected s v.mask n → t.load (ownKey s off + 48 * n) 48 = s.load (ownKey s off + 48 * n) 48)) ∧
    (Ready s false false [rb] [] → ∃ x, wrote (.daff dd da rb) x false false ∧ x.lineage = (reg_ da).lineage ∧
      ∀ n < 16, ∀ i < 8, pointW (x.lane n) i = pointW ((reg_ da).lane n) i ∧
        pointV (x.lane n) i =
          rne32 (Ext.add .rne (Ext.mul (fp32.value ((reg s rb).toNat % 2 ^ 32)) (fp32.value (pointV ((reg_ da).lane n) i))).1
            (fp32.value ((reg s rb).toNat / 2 ^ 32))).1)

/-- R302, R335 to R346, R418: TDSET and TDGET, the kicks of LSTA, MSTRM, MOUT and MZERO on the strand's own truss, MSWAP, MCMD through a peg, and
MSTAT. A kick that its checks admit joins the truss in its stream and its token register awaits the token; one of no rows writes 0 at once;
one that is refused traps and makes no command; a full truss makes it wait. R340 to R344, R346, R216: how commands run on a truss. LSTA_COMPLETE loads a column of the shadow plane, and the last one ends the load and sets
the plane's record; MSWAP_PERFORM exchanges the planes once no earlier load or stream remains and no row step is under way; TRUSS_ROW_STEP clears, writes out or
accumulates one row, and the last row ends the command. A fault suspends a stream: while one of its commands is suspended neither its row
steps nor its weight loads go on (R339). -/
def Obligations.TrussResult : Prop :=
  (∀ (s : State) (rd ra rb : GReg) (q : QReg) (clear : Bool) (t : TForm) (n : TReg) (off : Nat),
     let c := s.coreAt s.core
     let room := c.truss.length < 32
     let command := fun (core : Nat) (i : Instr) (stream : Nat) =>
       { instr := i, swap := false, stream := stream, owner := s.owner, token := rd, started := false, offset := 0, susp := none
         ta := s.descAt core t.ta, tb := 0, remote := core != s.core : TrussCmd }
     let accepted := fun (core : Nat) (k : TrussCmd) (event : Instr) (u : State) =>
       let v := u.modCore core fun c => { c with truss := c.truss ++ [k] }
       if v.events.contains event then v else v.post event
     let kick := fun (i : Instr) (event : Instr) (empty : Bool) =>
       (trussCheck s s.core i = none →
         (room → empty = false → exec i s = .next (done s false 12 .done (accepted s.core (command s.core i (s.slot % 4)) event (awaiting s rd)))) ∧
         (room → empty = true → exec i s = .next (wrote s false 12 rd 0)) ∧
         (¬ room → exec i s = .next (waiting s .memory))) ∧
       (∀ cause v, trussCheck s s.core i = some (cause, v) → TrapsWith s i cause v)
     let rows := Instr.trussRowStep s.core (s.slot % 4)
     let none_ := t.count == 0
     (MayKick s rd → s.cur.inRep = false →
       kick (.lsta rd t) (.lstaComplete s.core) false ∧ kick (.mstrm rd t) rows none_ ∧ kick (.mstrmRing rd q t) rows none_ ∧
       kick (.mout rd clear t) rows none_ ∧ kick (.moutRing rd q clear t) rows none_ ∧ kick (.mzero rd t) rows none_) ∧
     (let d := s.descAt s.core t.ta
      let view := descNdim d ≠ 0 ∧ descDim d 2 ≤ 1 ∧ descDim d 3 ≤ 1
      let inPlate := t.row0.toNat + t.count.toNat ≤ 32768 / (128 * 2 ^ c.active.width.toNat)
      (trussCheck s s.core (.lsta rd t) = none ↔ view ∧ descFmt d ∈ [9, 11, 12, 4, 5, 13] ∧ t.koff.toNat % 32 = 0 ∧
        (descLayout d = 1 → t.koff.toNat % 64 = 0) ∧ (t.count.toNat % 16 ≠ 0 → descLayout d = 1 ∧ t.count.toNat % 16 ≤ fmtBits (descFmt d))) ∧
      (trussCheck s s.core (.mstrm rd t) = none ↔ view ∧ descFmt d ∈ [9, 11, 12] ∧ descLayout d = 0 ∧ inPlate ∧
        (c.active.had = true → t.koff.toNat % 32 = 0)) ∧
      (trussCheck s s.core (.mout rd clear t) = none ↔ view ∧ descFmt d ∈ [8, 9, 10, 11, 12] ∧ descLayout d = 0 ∧ inPlate) ∧
      (trussCheck s s.core (.mzero rd t) = none ↔ inPlate)) ∧
     (s.cur.inRep = false → room →
       exec .mswap s = .next (done s false 8 .done
         ((accepted s.core { command s.core .mswap (s.slot % 4) with swap := true, token := 0, ta := 0 } (.mswapPerform s.core) (begun s)).modCur
           fun x => { x with swapWait := true }))) ∧
     (Written s [ra, rb] → Untagged s [rb] → MayKick s rd → s.cur.inRep = false →
       (let peg := s.cur.tags.getLsbD ra.toNat = true ∧ (reg s ra).toNat / 2 ^ 24 % 4 = 3
        let j := (reg s ra).toNat
        let instr : Option Instr :=
          if reg s rb = 0xD2 then some (.lsta rd t) else if reg s rb = 0xD4 then some (.mstrm rd t)
          else if reg s rb = 0xD5 then some (.mout rd false t) else if reg s rb = 0xD6 then some (.mzero rd t) else none
        (¬ peg → TrapsWith s (.mcmd rd ra rb t) 0x13 (ra.setWidth 64)) ∧
        (peg → instr = none → TrapsWith s (.mcmd rd ra rb t) 0x01 (rb.setWidth 64)) ∧
        (∀ i core g, peg → instr = some i → s.vcnCore s.myPart (j / 2 ^ 13 % 2 ^ 11) = some core →
          (s.coreAt core).grants.get (0, 0) (j % 2 ^ 6) = g →
          (g.1.toNat ≠ j / 2 ^ 32 ∨ trussCheck s core i ≠ none → TrapsWith s (.mcmd rd ra rb t) 0x15 (BitVec.ofNat 64 (j % 2 ^ 32))) ∧
          (g.1.toNat = j / 2 ^ 32 → i.wf = true → trussCheck s core i = none → (s.coreAt core).truss.length < 32 →
            (t.count ≠ 0 ∨ reg s rb = 0xD2 → exec (.mcmd rd ra rb t) s =
              .next (done s false 12 .done (accepted core (command core i g.2.toNat)
                (if reg s rb = 0xD2 then .lstaComplete core else .trussRowStep core g.2.toNat) (awaiting s rd)))) ∧
            (t.count = 0 → reg s rb ≠ 0xD2 → exec (.mcmd rd ra rb t) s = .next (wrote s false 12 rd 0)))))) ∧
     (Ready s false false [ra] [] →
       (let image := BitVec.ofNat 512 (s.load (ownKey s off) 64)
        (OwnStore s (reg s ra) off 64 → Unheld s .rlx → off % 64 = 0 → descRefused image = false →
          exec (.tdset ra n) s = .next (done s false 8 .done
            ((begun s).modCore s.core fun c => { c with descs := c.descs.set n.toNat image }))) ∧
        (OwnStore s (reg s ra) off 64 → Unheld s .rlx → off % 64 = 0 → descRefused image = true → TrapsWith s (.tdset ra n) 0x18 (reg s ra)) ∧
        ((reg s ra).toNat % 64 ≠ 0 → TrapsWith s (.tdset ra n) 0x08 (reg s ra)) ∧
        (OwnStore s (reg s ra) off 64 → Unheld s .rlx →
          exec (.tdget ra n) s = .next (done s false 8 .done (stored (begun s) (ownKey s off) (toBytes 64 (s.descAt s.core n).toNat)))))) ∧
     (Ready s false false [] [rd] → ∃ v : Word, exec (.mstat false rd) s = .next (wrote s false 8 rd v) ∧
       (∀ i < 4, (v.getLsbD i = true ↔ ∃ k ∈ c.truss, k.swap = false ∧ k.stream = i) ∧
         (v.getLsbD (4 + i) = true ↔ ∃ k ∈ c.truss, k.swap = false ∧ k.stream = i ∧ k.susp ≠ none)) ∧
       v.extractLsb' 8 2 = c.active.width ∧ v.extractLsb' 10 2 = c.shadow.width ∧ v.getLsbD 12 = c.newPlane ∧ v.getLsbD 13 = c.active.had ∧
       v.toNat < 2 ^ 15)) ∧
  (∀ (s : State) (core i j stream : Nat) (k : TrussCmd) (t : TForm) (rd : GReg),
     let c := s.coreAt core
     let w := 128 * 2 ^ c.active.width.toNat
     let again := fun (e : Instr) (u : State) => if u.events.contains e then u else u.post e
     let row := t.row0.toNat + k.offset
     let next := { k with started := true, offset := k.offset + 1 }
     let fresh := s.progOf (k.agent s core) = Progress.none ∧ s.hostOf (k.agent s core) = none
     let plate := fun (u : State) (m n : Nat) => (u.coreAt core).plate.get 0 (m * w + n)
     let stepped := fun (e : Instr) (last : Nat) (u : State) (v : State) =>
       (k.offset + 1 < last → v = again e (u.setTruss core i next)) ∧ (k.offset + 1 = last → v = u.endTruss core i next 0)
     (c.weightHead = none → exec (.lstaComplete core) s = .next s) ∧
     (c.weightHead = some (i, k) → c.streamHeld k.stream = true → exec (.lstaComplete core) s = .next s) ∧
     (c.streamHead stream = some (i, k) → c.streamHeld stream = true → exec (.trussRowStep core stream) s = .next s) ∧
     (∀ u p, c.weightHead = some (i, k) → c.streamHeld k.stream = false → (∀ x ∈ c.truss.take i, x.swap = false) → k.instr = .lsta rd t →
       loadColumn core k s = .ok ((), u) → (u.coreAt core).trussAt k = some p →
       (let size := 128 * 2 ^ (if descFmt k.ta = 9 then 0 else if descFmt k.ta = 11 ∨ descFmt k.ta = 12 then 1 else 2)
        (k.offset + 1 < size → exec (.lstaComplete core) s = .next (again (.lstaComplete core) (u.setTruss core p next))) ∧
        (k.offset + 1 = size → ∃ v, exec (.lstaComplete core) s = .next v ∧ (v.coreAt core).newPlane = true ∧
          (v.coreAt core).shadow.wfmt.toNat = descFmt k.ta ∧ (v.coreAt core).shadow.had = descHad k.ta ∧
          (v.coreAt core).shadow.seed = descSeed k.ta ∧ (v.coreAt core).shadow.koff = t.koff ∧
          128 * 2 ^ (v.coreAt core).shadow.width.toNat = size ∧ (v.coreAt core).truss = (u.coreAt core).truss.eraseIdx p))) ∧
     (∀ off, k.instr = .lsta rd t → descFmt k.ta = 9 → descLayout k.ta = 0 → k.owner.super = false → t.noff.toNat + k.offset < descRows k.ta →
       t.koff.toNat + 64 ≤ descDim k.ta 0 → EngineReach s core off 128 → k.offset < 128 → fresh → s.sectorsOf core k = [] →
       BitVec.ofNat 64 (descBase k.ta + (t.noff.toNat + k.offset) * descStride k.ta 1 + t.koff.toNat * 2) =
         BitVec.ofNat 64 (0x7E0000000000 + off) →
       ∃ u, loadColumn core k s = .ok ((), u) ∧ u.mem = s.mem ∧ (u.coreAt core).active = c.active ∧ ∀ m < 64,
         (u.coreAt core).shadow.weight m k.offset = bf16.value (s.load (2 ^ 52 + core * 2 ^ 19 + off + 2 * m) 2)) ∧
     ((∀ x ∈ c.truss, x.swap = false) → exec (.mswapPerform core) s = .next s) ∧
     (c.truss[i]? = some k → k.swap = true → (∀ x ∈ c.truss.take i, x.swap = false) →
       ((∃ x ∈ c.truss.take i, onWeightPath x.instr = true ∨ streamsRows x.instr = true) →
         exec (.mswapPerform core) s = .next (again (.mswapPerform core) s)) ∧
       ((∀ x ∈ c.truss.take i, onWeightPath x.instr = false ∧ streamsRows x.instr = false) → s.rowBusy core 4 = false → c.slotOf k.owner.sid = some j →
         ∃ v, exec (.mswapPerform core) s = .next v ∧ (v.coreAt core).active = c.shadow ∧ (v.coreAt core).shadow = c.active ∧
           (v.coreAt core).newPlane = false ∧ (v.coreAt core).truss = c.truss.eraseIdx i ∧ (v.coreAt core).plate = c.plate ∧
           v.slotAt core j = { s.slotAt core j with swapWait := false } ∧ v.mem = s.mem)) ∧
     (c.streamHead stream = none → exec (.trussRowStep core stream) s = .next s) ∧
     (c.streamHead stream = some (i, k) → c.trussAt k = some i → c.streamHeld stream = false → s.rowBusy core stream = false → (k.started = false → t.row0.toNat + t.count.toNat ≤ 32768 / w) →
       (k.started = true → row < 32768 / w) → k.offset < t.count.toNat →
       (let ran := fun (u : State) =>
          ∃ v, exec (.trussRowStep core stream) s = .next v ∧ stepped (.trussRowStep core stream) t.count.toNat u v
        (k.instr = .mzero rd t → ∃ u, ran u ∧ u.mem = s.mem ∧ (∀ n < w, plate u row n = 0) ∧
          ∀ m n, m ≠ row → n < w → plate u m n = plate s m n) ∧
        (∀ off, k.instr = .mout rd false t → descFmt k.ta = 8 → k.owner.super = false → t.noff.toNat + k.offset < descRows k.ta →
          t.koff.toNat + w ≤ descDim k.ta 0 → EngineReach s core off (4 * w) → fresh →
          descAddr k.ta t.koff.toNat (t.noff.toNat + k.offset) = BitVec.ofNat 64 (0x7E0000000000 + off) →
          ∃ u, ran u ∧ (u.coreAt core).plate = c.plate ∧
            u.mem = (s.storeBytes (2 ^ 52 + core * 2 ^ 19 + off) ((List.range w).flatMap fun n => toBytes 4 (plate s row n).toNat)).mem) ∧
        (∀ a u', k.instr = .mstrm rd t → (∀ x ∈ c.truss.take i, x.swap = false) → activationRow core k s = .ok (a, u') →
          u'.coreAt core = c → a.length = 64 → c.active.had = false →
          ∃ u, ran u ∧ (∀ n < w, plate u row n =
              BitVec.ofNat 32 (fp32.ofExt .rne false (Ext.add .rne (fp32.value (plate s row n).toNat)
                (exactSum ((List.range 64).map fun m => (Ext.mul (a.getD m .nan) (c.active.weight m n)).1))).1).1) ∧
            ∀ m n, m ≠ row → n < w → plate u m n = plate s m n))))

/-- R34, R35, R37, R39, R41, R89, R401, R415: the occurrences of translation and of the host. A finished walk enters the TLBs; an answer of the
host enters the address translation cache, also one that grants neither reading nor writing (DEDUCED, log 64); a page request's response
reaches the access that waits for it; a completion brings the access that was sent its data of that moment, or its failure, as a timeout does,
and an AtomicOp is performed with a Successful Completion; a host invalidation removes what it overlaps from the cache of the port die and is
answered once the requests before it have completed, in order of arrival; a shootdown completes once no unit counts a request of its previous
generation. -/
def Obligations.TranslationEventsResult : Prop :=
  ∀ (s : State) (core slot : Nat) (asid : BitVec 8) (va ua ta : Word) (write r w : Bool) (fn pages : Nat) (pasid : BitVec 20)
    (resp : PageResponse) (res : Completion) (h : HostAccess),
    let part := s.partOf core
    let ag := { (s.requester core 0) with asid := asid }
    let port := (s.fnAt fn).port
    let idle := (s.fnAt fn).owed = [] ∧ (s.fnAt fn).records = []
    let counted := fun (g g' : GenCount) =>
      g' = (if h.gen = g.no then { g with now := g.now - 1 } else { g with before := g.before - 1 })
    let data := toBytes h.n (s.load (2 ^ 64 + h.ta) h.n)
    let hostMemory := fun (res : Completion) (t : State) =>
      (h.amo = none ∨ res = .unsupported → t.mem = s.mem) ∧
      (∀ r, h.amo = some r → res = .success → t.mem = (s.store (2 ^ 64 + h.ta) h.n (r.apply h.n (s.load (2 ^ 64 + h.ta) h.n))).mem)
    let answered := fun (event : Instr) (res : Completion) =>
      let x := s.slotAt core slot
      x.host = some h → h.sent = true → h.answer = none →
        ∃ t, exec event s = .next t ∧ hostMemory res t ∧ counted (s.coreAt core).gen (t.coreAt core).gen ∧
          (res = .success → t.slotAt core slot = { x with host := none, prog := { x.prog with got := x.prog.got.set h.index data } }) ∧
          (res ≠ .success → t.slotAt core slot = { x with host := some { h with answer := some res } })
    let mine := (s.slotAt core slot).host = some h ∧ part = fnPart fn ∧ h.pasid = pasid ∧ h.ua.toNat / 4096 = ua.toNat / 4096 ∧ h.sent = false
    let same := fun (e : AtcEntry) => e.pasid = pasid ∧ e.ua.toNat / 4096 = ua.toNat / 4096
    (∀ n e a u, walk ag va write s = .ok (.leaf n e a, u) → ∃ t, exec (.tlbWalkDone core asid va write) s = .next t ∧ t.mem = u.mem ∧
      t.tlbFind core part asid va.toNat = some { asid := asid, part := part, page := va.toNat / 2 ^ n, log2 := n, leaf := e }) ∧
    (∀ found u, walk ag va write s = .ok (found, u) → (∀ n e a, found ≠ .leaf n e a) →
      exec (.tlbWalkDone core asid va write) s = .next u) ∧
    (∀ w u, walk ag va write s = .error (.wait w u) → exec (.tlbWalkDone core asid va write) s = .next u) ∧
    (idle → ∃ t, exec (.atsTranslationCompletion fn pasid ua ta r w) s = .next t ∧ t.mem = s.mem ∧
      t.atcFind (fnPart fn) pasid ua = some { pasid := pasid, ua := ua, ta := ta, r := r, w := w } ∧
      (mine → (t.slotAt core slot).host = some { h with asked := false })) ∧
    (idle → ∃ t, exec (.pageRequestResponse fn pasid ua resp) s = .next t ∧ t.mem = s.mem ∧
      (resp = .success → ∀ e ∈ (t.partAt (fnPart fn)).atc, ¬ same e) ∧
      (resp = .failure → (t.partAt (fnPart fn)).priStop = true) ∧
      (mine → (t.slotAt core slot).host =
        some (if h.paging = false then h
          else if resp = .success then { h with paging := false, tries := h.tries + 1, asked := true }
          else { h with paging := false, refused := some (if s.isRevoked part ua then 0x0D else 0x0C) }))) ∧
    answered (.hostReadCompletion ⟨false, core⟩ slot res) res ∧ answered (.hostAtomicCompletion core slot res) res ∧
    answered (.completionTimeout false core slot) .abort ∧
    (let engine := fun (p key : Nat) (event : Instr) (res : Completion) =>
       let prog := ((s.partAt p).engineProg.find key).getD Progress.none
       (s.partAt p).engineHost.find key = some h → h.sent = true → h.answer = none →
         ∃ t, exec event s = .next t ∧ t.mem = s.mem ∧
           (res = .success → (t.partAt p).engineHost.find key = none ∧
             (t.partAt p).engineProg.find key = some { prog with got := prog.got.set h.index data }) ∧
           (res ≠ .success → (t.partAt p).engineHost.find key = some { h with answer := some res })
     (∀ quad index, quad < 512 →
       engine (partOfQuad s.parts quad) (quad * 2 ^ 16 + index) (.hostReadCompletion ⟨true, quad⟩ index res) res ∧
       engine (partOfQuad s.parts quad) (quad * 2 ^ 16 + index) (.completionTimeout true quad index) .abort) ∧
     (∀ k stream, k < 2048 →
       engine (s.partOf k) (2 ^ 40 + k * 8 + stream) (.hostReadCompletion ⟨true, 512 + k⟩ stream res) res ∧
       engine (s.partOf k) (2 ^ 40 + k * 8 + stream) (.completionTimeout true (512 + k) stream) .abort)) ∧
    (∀ id : Option (BitVec 20),
      (let v : Invalidation := { fn := fn, pasid := id, ua := ua, pages := pages, begun := false }
       let i : Instr := .invalidateRequest fn id ua pages
       let p := s.portAt port
       let issued := p.atcGen.before + p.atcGen.now
       (p.invals = [] → ∃ t, exec i s = .next t ∧ t.mem = s.mem ∧
         (∀ n, ∀ e, e ∈ (t.partAt n).atc ↔ e ∈ (s.partAt n).atc ∧
           ¬ (s.portOf n = port ∧ id = some e.pasid ∧ pagesMeet (e.ua.toNat / 4096) 1 (ua.toNat / 4096) pages = true)) ∧
         (issued = 0 → (t.portAt port).invals = [] ∧ (t.fnAt fn).invalDone = (s.fnAt fn).invalDone ++ [{ v with begun := true }]) ∧
         (issued ≠ 0 → (t.portAt port).invals = [{ v with begun := true }] ∧ (t.fnAt fn).invalDone = (s.fnAt fn).invalDone)) ∧
       (∀ q rest, p.invals = q :: rest → q.begun = true → p.atcGen.before ≠ 0 →
         exec i s = .next (s.modPort port fun p => { p with invals := p.invals ++ [v] })))) ∧
    (∀ part, (s.partAt part).shoots = [] → exec (.shootdownAcknowledge part) s = .next s) ∧
    (∀ part d, (s.partAt part).shoots = [d] → d.begun = true →
      (let quads := (s.partAt part).quads
       let draining := (∃ e ∈ s.cores, e.1 / 4 ∈ quads ∧ (e.2.gen.before ≠ 0 ∨ e.2.trussGen.before ≠ 0)) ∨
         (∃ e ∈ s.quads, e.1 ∈ quads ∧ e.2.copyGen.before ≠ 0) ∨
         ∃ e ∈ s.dies, (∃ q ∈ quads, q / 64 = e.1) ∧ (e.2.infeedGen.before ≠ 0 ∨ e.2.outfeedGen.before ≠ 0 ∨ e.2.walkGen.before ≠ 0)
       (draining → exec (.shootdownAcknowledge part) s = .next (s.post (.shootdownAcknowledge part))) ∧
       (¬ draining → (s.slotAt d.core d.slot).op = .waiting → ∃ t, exec (.shootdownAcknowledge part) s = .next t ∧ t.mem = s.mem ∧
         (t.partAt part).shoots = [] ∧ (t.slotAt d.core d.slot).op = .done 0)))

/-- R46, R72, R73, R75, R80, R84, R157, R394: requests at a line that nobody holds. A read shares it, an ownership request takes it exclusive, an
update-only request in U; a write-through of another die's core, an atomic and a reduction write exactly their bytes; write-backs, invalidations and tag drops
remove copies; the handler's list is discarded once its holders have acknowledged; a soft error is counted, or faults its access, a copy's as its suspension. A reduction
that its core may gather is gathered in its L1; one of a launch that has ended has no effect. -/
def Obligations.HomeEventsResult : Prop :=
  ∀ (s : State) (core line : Nat) (op : RedOp) (size : Size),
    let pa := line * 64
    let own := core / 256 = dieOf pa
    (QuietLine s core line → own →
      (∃ t l, exec (.homeReadRequest core line 0) s = .next t ∧ t.mem = s.mem ∧ dirState (t.dirAt line) = 1 ∧
        dirPtrs (t.dirAt line) = [BitVec.ofNat 12 (core % 256)] ∧ (t.coreAt core).l1.find line = some l ∧ l.state = .shared) ∧
      (∃ t l, exec (.ownershipRequest core line) s = .next t ∧ t.mem = s.mem ∧ dirState (t.dirAt line) = 2 ∧
        dirPtrs (t.dirAt line) = [BitVec.ofNat 12 (core % 256)] ∧ (t.coreAt core).l1.find line = some l ∧ l.state = .exclusive) ∧
      (∃ t l, exec (.updateOnlyGrantRequest core line op size) s = .next t ∧ t.mem = s.mem ∧ dirState (t.dirAt line) = 3 ∧
        dirPtrs (t.dirAt line) = [BitVec.ofNat 12 (core % 256)] ∧ (t.coreAt core).l1.find line = some l ∧ l.state = .updateOnly ∧
        l.op = op ∧ l.size = size ∧ l.touch = 0)) ∧
    (s.homeCheck (s.partOf core) pa ≠ .ok → exec (.homeReadRequest core line 0) s = .next s ∧
      exec (.ownershipRequest core line) s = .next s ∧ exec (.updateOnlyGrantRequest core line op size) s = .next s) ∧
    (∀ off x, own → exec (.writeThroughAtHome core (pa + off % 64) size x) s = .next s) ∧
    (∀ off (x : BitVec 128), QuietLine s core line → ¬ own → off + size.bytes ≤ 64 → s.homeCheck (s.partOf core) (pa + off) = .ok →
      ∃ t, exec (.writeThroughAtHome core (pa + off) size x) s = .next t ∧
        t.mem = (s.storeBytes (pa + off) (toBytes size.bytes x.toNat)).mem ∧ dirState (t.dirAt line) = 0) ∧
    (∀ r : AtomicReq, (s.slotAt r.core r.slot).occupied = true → r.size ≠ .q → (s.partAt (s.partOf r.core)).replay ≠ .replay →
      populated ≤ r.key ∨ (r.key < populated ∧ QuietLine s r.core (r.key / 64) ∧ r.key % 64 + r.size.bytes ≤ 64 ∧
        (s.slotAt r.core r.slot).member = false) →
      (let n := r.size.bytes
       let old := s.load r.key n
       let value := match r.op with
         | some op => amoApply op n old (r.x.toNat % 2 ^ (8 * n))
         | none => if old = r.cmp.toNat % 2 ^ (8 * n) then r.x.toNat % 2 ^ (8 * n) else old
       let taken := if r.zx then BitVec.ofNat 64 old else (BitVec.ofNat (8 * n) old).signExtend 64
       ∃ t, exec (.atomicAtHome r) s = .next t ∧ t.mem = (s.store r.key n value).mem ∧
         t.slotAt r.core r.slot = (s.slotAt r.core r.slot).setG r.rd taken)) ∧
    (∀ r : RedReq, QuietLine s r.core (r.key / 64) → r.key % 64 + r.size.bytes ≤ 64 → r.vtag = 0 → r.slot < 16 → r.gather = false →
      (s.partAt (s.partOf r.core)).replay ≠ .replay →
      (let n := r.size.bytes
       ∃ t, exec (.redAtHome r) s = .next t ∧ t.mem = (s.store r.key n (redApply r.op n (s.load r.key n) r.x.toNat)).mem ∧
         (t.slotAt r.core r.slot).osc.toNat = (s.slotAt r.core r.slot).osc.toNat - 1)) ∧
    (∀ r : RedReq, QuietLine s r.core (r.key / 64) → r.key % 64 + r.size.bytes ≤ 64 → r.vtag = 0 → r.slot < 16 → r.gather = true →
      ∃ t l, exec (.redAtHome r) s = .next t ∧ t.mem = s.mem ∧ (t.coreAt r.core).l1.find (r.key / 64) = some l ∧ l.state = .updateOnly ∧
        l.op = r.op ∧ l.size = r.size ∧ l.touch.getLsbD (r.key % 64 / 2) = true ∧
        l.part.toNat / 2 ^ (16 * (r.key % 64 / 2)) % 2 ^ (8 * r.size.bytes) = r.x.toNat % 2 ^ (8 * r.size.bytes) ∧
        (t.slotAt r.core r.slot).osc.toNat = (s.slotAt r.core r.slot).osc.toNat - 1) ∧
    (∀ r : RedReq, s.redLives (s.partOf r.core) r = false → r.slot < 16 → ∃ t, exec (.redAtHome r) s = .next t ∧ t.mem = s.mem ∧
      (t.slotAt r.core r.slot).osc.toNat = (s.slotAt r.core r.slot).osc.toNat - 1) ∧
    ((s.coreAt core).l1.find line = none →
      exec (.writeBackArrival core line) s = .next s ∧ exec (.invalidationAtHolder false core line) s = .next s) ∧
    (∀ die, ((s.dieAt die).rdc.find line = none → exec (.invalidationAtHolder true die line) s = .next s) ∧
      (∀ l, (s.dieAt die).rdc.find line = some l → l.uo = false → l.state ≠ .updateOnly → s.verOf (line / 32) = Ver.none →
        ∃ t, exec (.invalidationAtHolder true die line) s = .next t ∧ t.mem = s.mem ∧ (t.dieAt die).rdc.find line = none)) ∧
    (∀ l, (s.coreAt core).l1.find line = some l → l.uo = false → s.verOf (line / 32) = Ver.none →
      (l.state = .modified → own → (s.dirAt line).toNat / 2 ^ 49 % 2 ^ 3 ≤ 4 → ∃ t, exec (.writeBackArrival core line) s = .next t ∧ t.mem = s.mem ∧ (t.coreAt core).l1.find line = none ∧
        BitVec.ofNat 12 (core % 256) ∉ dirPtrs (t.dirAt line)) ∧
      (l.state ≠ .updateOnly → ∃ t, exec (.invalidationAtHolder false core line) s = .next t ∧ t.mem = s.mem ∧
        (t.coreAt core).l1.find line = none ∧ ∀ k, k ≠ line → (t.coreAt core).l1.find k = (s.coreAt core).l1.find k)) ∧
    ((∀ l ∈ (s.dieAt (dieOf pa)).lists, l.line ≠ line) → exec (.recallAck line) s = .next s) ∧
    (∀ l, (s.dieAt (dieOf pa)).lists = [l] → l.line = line →
      (l.ready = false ∨ l.acted = true → exec (.recallAck line) s = .next s) ∧
      (l.ready = true → l.acted = false → (s.dirAt line).toNat / 2 ^ 49 % 2 ^ 4 = 0 → l.ptrs = [] → l.queue = [] → ∃ t, exec (.recallAck line) s = .next t ∧ t.mem = s.mem ∧
        (t.dieAt (dieOf pa)).lists = [] ∧ t.dirAt line = 0)) ∧
    (∀ tag, (tag = 0 ∨ s.liveTag (s.partOf core) tag = true → exec (.l1VtagDrop core tag) s = .next s) ∧
      (tag ≠ 0 → s.liveTag (s.partOf core) tag = false → ∃ t, exec (.l1VtagDrop core tag) s = .next t ∧ t.mem = s.mem ∧
        (∀ e, e ∈ (t.coreAt core).l1 ↔ e ∈ (s.coreAt core).l1 ∧ e.2.vtag ≠ tag) ∧
        ∀ e, e ∈ (t.coreAt core).icache ↔ e ∈ (s.coreAt core).icache ∧ e.1 % 256 ≠ tag.toNat)) ∧
    (∀ slot a v addr,
      (exec (.softError true core slot a v addr) s = .next { s with sys := { s.sys with corrected := s.sys.corrected + 1 } }) ∧
      (slot < 15 → (s.slotAt core slot).occupied = true → (s.slotAt core slot).trapped = false →
        (∃ t, exec (.softError false core slot a v addr) s = .next t ∧ (t.slotAt core slot).trapped = true ∧
          (t.slotAt core slot).xvalue = addr ∧ (t.slotAt core slot).xcause = 0x0F ∧ (t.slotAt core slot).xpc = (s.slotAt core slot).pc)) ∧
      (∀ n k, n < 32 → (s.quadAt (core / 4)).copy n = some k → k.susp = none → ∃ t k', exec (.softError false core (16 + n) a v addr) s = .next t ∧
        (t.quadAt (core / 4)).copy n = some k' ∧ k'.susp = some 0x0F))

/-- R243: SLEEP. It holds the strand until a reason to end it holds, counting its cycles from its issue, and then writes the highest
reason; SLEEP_TIMEOUT looks again when the count has run. -/
def Obligations.SleepResult : Prop :=
  ∀ (s u : State) (rd : GReg) (imm : BitVec 32) (n : Nat),
    let now (s : State) := (s.coreAt s.core).cycle.toNat
    let record (s : State) : Prop := s.slot = 15 ∧ (s.coreAt s.core).trapQ ≠ []
    let element (s : State) : Prop :=
      ∃ r k c, HoldsEnd s r 2 k c ∧ (c.pres.getLsbD (c.cons.toNat % c.depth) = true ∨ (c.endv = true ∧ c.endseq = c.cons))
    let woke (s : State) (v : Word) := done s false 8 .done ((begun s).modCur fun x => { x.setG rd v with sleep := none })
    let mayRun (s : State) : Prop := Issues s [rd] ∧ Untagged s [rd]
    (mayRun s →
      (record s → exec (.sleep rd imm) s = .next (woke s 2)) ∧
      (¬ record s → element s → exec (.sleep rd imm) s = .next (woke s 1)) ∧
      (¬ record s → ¬ element s →
        (s.cur.sleep = none →
          exec (.sleep rd imm) s = .next ((waiting s .message).modCur fun x => { x with sleep := some (now s + imm.toNat) })) ∧
        (∀ due, s.cur.sleep = some due →
          (imm ≠ 0 ∧ due ≤ now s → exec (.sleep rd imm) s = .next (woke s 0)) ∧
          (¬ (imm ≠ 0 ∧ due ≤ now s) → exec (.sleep rd imm) s = .next (waiting s .message))))) ∧
    (s.cur.occupied = true → s.fetch = (.instr (.sleep rd imm) n, u) → ∀ due, s.cur.sleep = some due → due ≤ now s →
      mayRun u → u.cur.sleep = some due → due ≤ now u → imm ≠ 0 → ¬ record u → ¬ element u →
      exec (.sleepTimeout s.core s.slot) s = .next (woke u 0))

/-- R244, Table 11.12: XLAT of the own store's alias, of a window, and of an address whose translation a TLB holds: the result is written
and the access is not made. -/
def Obligations.TranslationProbeResult : Prop :=
  ∀ (s : State) (e : Bool) (rd ra : GReg) (disp : BitVec 20), Ready s e false [ra] [rd] →
    let va := reg s ra + disp.signExtend 64
    let gives (v : Nat) := exec (.xlat e rd ra disp) s = .next (wrote s e 8 rd (BitVec.ofNat 64 v))
    let store (c off : Nat) := 2 ^ 61 + (if off < 0x70000 ∨ s.slot = 15 then 2 ^ 54 + 2 ^ 53 else 0) + c * 2 ^ 19 + off
    (∀ off < 2 ^ 19, va = BitVec.ofNat 64 (0x7E0000000000 + off) → gives (store s.core off)) ∧
    (∀ v < 2048, ∀ off < 2 ^ 19, va = BitVec.ofNat 64 (0x7F0000000000 + v * 2 ^ 19 + off) →
      (∀ c, s.vcnCore s.myPart v = some c → gives (store c off)) ∧
      (s.vcnCore s.myPart v = none → gives (2 ^ 63 + 0x09))) ∧
    (va.toNat < 0x7E0000000000 → s.asidOwned s.me.asid s.myPart = false → gives (2 ^ 63 + 0x09)) ∧
    (∀ t, va.toNat < 0x7E0000000000 → s.asidOwned s.me.asid s.myPart = true → s.tlbFind s.core s.myPart s.me.asid va.toNat = some t →
      let f (k : Nat) (i : Nat) := (t.leaf.getLsbD i).toNat * 2 ^ k
      let kind := t.leaf.toNat / 2 ^ 4 % 4
      let bits := f 60 9 + kind * 2 ^ 58 + f 57 6 + f 56 7 + f 55 3 + f 54 2 + f 53 1
      let pa := t.leaf.toNat / 2 ^ 13 % 2 ^ 39 * 2 ^ 12 + va.toNat % 2 ^ t.log2
      (kind = 3 ∨ (t.leaf.getLsbD 8 = true ∧ kind = 2) → gives (2 ^ 63 + 0x0B)) ∧
      (kind < 2 → t.leaf.getLsbD 8 = true → gives (2 ^ 62 + bits + pa % 2 ^ 52)) ∧
      (kind < 3 → t.leaf.getLsbD 8 = false →
        (pa < 2 ^ 40 → gives (bits + pa % 2 ^ 52)) ∧ (2 ^ 40 ≤ pa → gives (2 ^ 63 + 0x0F)))) ∧
    ((2 ^ 57 ≤ va.toNat ∨ (0x7E0000080000 ≤ va.toNat ∧ va.toNat < 0x7F0000000000) ∨
      (0x7F0040000000 ≤ va.toNat ∧ va.toNat < 0x800000000000)) → gives (2 ^ 63 + 0x09))

/-- R245, R246: REP captures the n instructions that follow it, sets REPS and REPA, and the strand goes on after them with the block in
progress; an instruction that may not be captured is REP's trap. -/
def Obligations.RepeatResult : Prop :=
  ∀ (s : State) (n : BitVec 3) (k : BitVec 8) (st : BitVec 4) (is : List Instr) (b : Word), Issues s [] → NoSlot s →
    CodeFrom (begun s) (s.cur.pc + 8) is b →
    (is.length = n.toNat + 1 →
      ∃ t, exec (.rep n k st) s = .next t ∧ t.mem = s.mem ∧
        StrandIs s t { s.cur with
          wait := .none, slotPos := 0, pc := pastTail b, entered := false, repa := pastTail (s.cur.pc + 8), block := is, aheadN := 0,
          reps := (1 : BitVec 1) ++ n ++ k ++ st ++ (0 : BitVec 48) }) ∧
    (is.length ≤ n.toNat → ∀ w i len, CodeAt (begun s) (pastTail b) w i len → ¬ MayCapture w →
      TrapsWith s (.rep n k st) 0x1A (pastTail b))

/-- R170: the elect prefix. Outside a gang it traps with ELECT, in a delay slot with DELAY_SLOT; a member for which the instruction's value
has been posted writes that value and moves on, with no other effect, or traps with JOINT_CLOBBER where it would overwrite a joint (the model's
choice, log 68); one that is not elected, or finds a queue full, waits. R170: a waiting member whose instruction's value is posted takes it, and the instruction is complete. -/
def Obligations.ElectResult : Prop :=
  (∀ (s : State) (i : Instr) (w : BitVec 32), i.wf = true → (encode i).head? = some w → w.getLsbD 10 = true →
     s.cur.pend = 0 → s.cur.inRep = false →
     let posted := s.cur.electQ.find? fun p => p.n == s.cur.electN
     (s.cur.isGang = false → TrapsWith s i 0x05 0) ∧
     (s.cur.isGang = true → ¬ NoSlot s → TrapsWith s i 0x03 s.cur.pc) ∧
     (s.cur.isGang = true → NoSlot s →
       (∀ p, posted = some p → (∃ r ∈ p.value.dests, s.cur.tags.getLsbD r.toNat = true) → ∃ v, TrapsWith s i 0x11 v) ∧
       (∀ p, posted = some p → Untagged s p.value.dests →
         exec i s = .next ((begun s).modCur fun x =>
           { (x.takePosted p.value) with
             electN := x.electN + 1, electQ := x.electQ.filter fun q => q.n != x.electN }.advance (4 * (encode i).length))) ∧
       (posted = none → lowestLive s.cur.live ≠ s.core % 4 ∨ s.electFull = true → exec i s = .next (waiting s .message)))) ∧
  (∀ (s u : State) (i : Instr) (n : Nat) (p : Posted) (w : BitVec 32),
     s.cur.occupied = true → s.cur.isGang = true → s.cur.wait = .message → s.cur.trapped = false → s.cur.stopped = false → NoSlot s →
     s.cur.electQ.find? (fun q => q.n == s.cur.electN) = some p →
     s.fetch = (.instr i n, u) → u.peekWord0 u.cur.pc = some w → w.getLsbD 10 = true → Untagged u p.value.dests →
     exec (.electValueTaken s.core s.slot) s = .next (u.modCur fun x =>
       { (x.takePosted p.value) with
         electN := x.electN + 1, wait := .none, electQ := x.electQ.filter fun q => q.n != x.electN }.advance n))


/-- R382, R383, R388: posted writes to an aperture fill its buffer; one of another size or alignment is discarded and counted; a read
returns all ones; the doorbell and a peer's frame for this pod node submit a frame. A reply that must wait for the host is owed, and the frame is
refused all the same; a reply to a peer leaves by the link its frame came by; the slot that a frame takes is one of those free (DESIGN CHOICES, log 22). -/
def Obligations.CallSubmission : Prop :=
  ∀ (s : State) (f off n : Nat) (x : Word) (bs : List Byte),
    let w := Instr.apertureWrite f off n x
    (¬ Mapped s f → exec (.apertureRead f off n) s = .next s) ∧
    (Mapped s f → exec (.apertureRead f off n) s = .next (s.modFn f fun y => { y with returned := y.returned ++ [List.replicate n 0xFF] })) ∧
    (¬ Mapped s f ∨ 4096 ≤ off → exec w s = .next s) ∧
    (Mapped s f → off < 4096 →
      (¬ (n = 4 ∨ n = 8) ∨ off % n ≠ 0 → exec w s = .next (s.modFn f fun y => { y with discarded := y.discarded + 1 })) ∧
      (n = 4 ∨ n = 8 → off % n = 0 → ¬ (off = 0xFF8 ∧ n = 8) →
        ∃ b, exec w s = .next (s.modFn f fun y => { y with buffer := b }) ∧
          ∀ j < 4096, b.get 0 j = if off ≤ j ∧ j < off + n then BitVec.ofNat 8 (x.toNat / 2 ^ (8 * (j - off)))
            else (s.fnAt f).buffer.get 0 j)) ∧
    (¬ Mapped s f → exec (.doorbell f x) s = .next s) ∧
    (Mapped s f →
      let frame := (List.range 4096).map fun j => (s.fnAt f).buffer.get 0 j
      Submits s (.doorbell f x) f frame none x ∧ Submits s (.apertureWrite f 0xFF8 8 x) f frame none x) ∧
    ∀ l : Nat,
      (∀ node, node ≠ s.sys.node ∨ f = 0 ∨ 18 ≤ l ∨ ¬ Mapped s f → exec (.purlinFrame ⟨f, l, node⟩ bs x) s = .next s) ∧
      (f ≠ 0 → l < 18 → Mapped s f → bs.length = 4096 → Submits s (.purlinFrame ⟨f, l, s.sys.node⟩ bs x) f bs (some l) x)

/-- R386, Tables 17.2 and 17.3, R42, R41, R387, R390, R410: each call of a head frame has its effect and is answered; a call that the
function may not make is answered UNKNOWN. The model's choices: an ATTEST of another length is MALFORMED, a VF's calls on PF0 are UNKNOWN, and a
call whose answer waits for the host is made again (log 40); what an SPDM request opens or registers (log 24); a base of REVOKE or UNREVOKE that is not aligned is its page's
(log 85); keys, one-time numbers and layouts of what is signed are free values (log 9). -/
def Obligations.CallResult : Prop :=
  ∀ (s : State) (f k : Nat) (x : Frame) (num : Nat), Heads s f k x num →
    let bs := x.args
    let arg := hdrArg bs
    let part := f - 1
    let answers (i : Instr) := Answers s i f k x
    (num = 0x01 → answers (.ident f k) s 0 Config.deviceId.toNat Config.certAddress.toNat) ∧
    (num = 0x02 →
      let report := attestReport s.tick ((bs.drop 0x40).take 48)
      let sends := s.hostWrite f (hdrPasid bs) Config.attestAddress.toNat report.length
      (hdrLength bs ≠ 48 → answers (.attest f k) s 2 0 0) ∧
      (hdrLength bs = 48 →
        (∀ t ta, sends = .sendTo t ta → answers (.attest f k) (t.storeBytes (2 ^ 64 + ta) report) 0 Config.attestAddress.toNat 0) ∧
        (∀ t, sends = .refused t → answers (.attest f k) t 6 0 0) ∧ (∀ t, sends = .held t → exec (.attest f k) s = .next t))) ∧
    (num = 0x03 → f = 0 →
      let image := s.readHost f (hdrPasid bs) (pageParts (arg 0 8) (arg 8 8))
      ((hdrPasid bs).getLsbD 31 = false → arg 0 8 + arg 8 8 ≤ 2 ^ 64 →
        image = .ok (s, some (Memory.readList s.mem (2 ^ 64 + arg 0 8) (arg 8 8)))) ∧
      (∀ t img, image = .ok (t, some img) →
        (firmwareGood img = true → answers (.fwload f k) { t with sys := { t.sys with firmware := true } } 0 0 0) ∧
        (firmwareGood img = false → answers (.fwload f k) t 3 0 0)) ∧
      (∀ t, image = .ok (t, none) → answers (.fwload f k) t 2 0 0) ∧ (∀ t, image = .error t → exec (.fwload f k) s = .next t)) ∧
    (num = 0x04 → answers (.status f k) s 0
      (s.sys.stage + 2 ^ 8 * s.sys.failed.toNat + 2 ^ 32 * (s.fnAt f).discarded.toNat) s.sys.corrected.toNat) ∧
    (num = 0x20 → f ≠ 0 →
      let entries := (s.partAt part).revoked
      (arg 8 8 = 0 → answers (.revoke f k) s 2 0 0) ∧
      (arg 8 8 ≠ 0 → 16 ≤ entries.length → answers (.revoke f k) s 4 0 0) ∧
      (arg 8 8 ≠ 0 → entries.length < 16 →
        answers (.revoke f k) (s.modPart part fun p => { p with revoked := entries ++ [(arg 0 8 / 2 ^ 12 * 2 ^ 12, arg 8 8)] }) 0 0 0)) ∧
    (num = 0x21 → f ≠ 0 →
      let first := arg 0 8 / 2 ^ 12 * 2 ^ 12
      answers (.unrevoke f k) (s.modPart part fun p =>
        { p with revoked := p.revoked.filter fun r => ! decide (first ≤ r.1 ∧ r.1 + 2 ^ 12 * r.2 ≤ first + 2 ^ 12 * arg 8 8) }) 0 0 0) ∧
    (num = 0x22 → f = 0 →
      (arg 0 8 = 0 ∨ 32 < arg 0 8 → answers (.prien f k) s 2 0 0) ∧
      (1 ≤ arg 0 8 → arg 0 8 ≤ 32 →
        answers (.prien f k) (s.modPart (arg 0 8 - 1) fun p => { p with priStop := false }) 0 0 0)) ∧
    (num = 0x23 → f ≠ 0 →
      let p := s.partAt part
      let req := BitVec.ofNat 32 (arg 0 4)
      let entry := p.emub + BitVec.ofNat 64 (32 * (16 * (req.toNat / 2 ^ 16 % 2 ^ 11) + req.toNat / 2 ^ 12 % 2 ^ 4))
      let valid := hdrLength bs = 32 ∧ arg 4 4 = 0 ∧ arg 8 1 < 2 ∧ arg 9 7 = 0 ∧ req ∈ p.emuAsked
      (¬ valid → answers (.emureply f k) s 2 0 0) ∧
      (valid → ∀ t u, writeBytes (s.rootAgent part) (entry + 16) ((bs.drop 0x50).take 16) s = .ok ((), t) →
        writeBytes (s.rootAgent part) entry (toBytes 8 (2 ^ 63 + arg 8 1 * 2 ^ 62 + req.toNat)) t = .ok ((), u) →
        answers (.emureply f k) (u.modPart part fun p => { p with emuAsked := p.emuAsked.filter (· != req) }) 0 0 0)) ∧
    (num = 0x24 →
      let valid := arg 0 8 % 64 = 0 ∧ 4 ≤ arg 8 4 ∧ arg 8 4 ≤ 16 ∧ arg 12 2 < 16 ∧ arg 14 2 = 0
      (¬ valid → answers (.faultarea f k) s 2 0 0) ∧
      (valid → answers (.faultarea f k) (s.modFn f fun y =>
        { y with areaSet := true, areaBase := BitVec.ofNat 64 (arg 0 8), areaN := arg 8 4, areaVec := BitVec.ofNat 16 (arg 12 2),
                 areaPasid := hdrPasid bs, index := 0 }) 0 0 0)) ∧
    (num = 0x30 →
      let request := (bs.drop 0x40).take (hdrLength bs)
      let r := spdmAnswer s.tick request
      let opened := if f = 0 ∨ Config.spdmOpens request = false then s else s.modPart part fun p => { p with session := p.session + 1 }
      let registered := match Config.spdmWindow request with
        | none => opened
        | some (inward, base, n) =>
          let w : BounceWindow := { base := base, pages := n, uses := [] }
          if f = 0 ∨ (s.partAt part).sealed = false then opened
          else opened.modPart part fun p =>
            if inward then { p with bounceIn := p.bounceIn ++ [w] } else { p with bounceOut := p.bounceOut ++ [w] }
      answers (.spdm f k) registered 0 (r.toNat % 2 ^ 64) (r.toNat / 2 ^ 64 % 2 ^ 64)) ∧
    ((num ∉ [0x01, 0x02, 0x03, 0x04, 0x10, 0x11, 0x20, 0x21, 0x22, 0x23, 0x24, 0x30, 0x40, 0x41, 0x42, 0x43, 0x50, 0x51] ∨
        (f = 0 ∧ num ∈ [0x10, 0x11, 0x20, 0x21, 0x23]) ∨ (f ≠ 0 ∧ num ∈ [0x03, 0x22, 0x40, 0x41, 0x42, 0x43, 0x51])) →
      answers (.ident f k) s 1 0 0)

/-- R386, R303, R306, R348: a LAUNCH call of a VF refuses a block as LNCH would, or queues a launch that the call awaits; LABORT aborts the
launch of a LAUNCH call by its TAG, as LABRT. The model's choices: an answer that waits for the host leaves the call to be made again (logs 22, 40), and a call's launch
takes the next ticket number of the partition (log 39). -/
def Obligations.LaunchCallResult : Prop :=
  ∀ (s u : State) (f k : Nat) (x : Frame) (img : List Byte), f ≠ 0 →
    let bs := x.args
    let arg := hdrArg bs
    let part := f - 1
    let p := s.partAt part
    let asid := BitVec.ofNat 8 (imgAt bs 0x1F 1)
    let a := BitVec.ofNat 64 (arg 0 8)
    let answers (i : Instr) := Answers s i f k x
    let owned := (s.astEntry asid).getLsbD 0 = true ∧ (s.astEntry asid).toNat / 2 ^ 2 % 2 ^ 5 = part
    (Heads s f k x 0x10 → 8 ≤ hdrLength bs →
      (¬ owned → answers (.launch f k) s 3 0 0) ∧
      (owned → a.toNat % 32 ≠ 0 → answers (.launch f k) s 2 0x08 0) ∧
      (owned → a.toNat % 32 = 0 →
        (∀ c v mal, readBytes (s.callAgent part asid) .load a 32 s = .error (.trapIn u c v mal) → answers (.launch f k) u 2 c.toNat 0) ∧
        (∀ w, readBytes (s.callAgent part asid) .load a 32 s = .error (.wait w u) → exec (.launch f k) s = .next u) ∧
        (readBytes (s.callAgent part asid) .load a 32 s = .ok (img, u) →
          let p := u.partAt part
          let valid := 1 ≤ imgAt img 8 4 ∧ imgAt img 8 4 ≤ 4 * p.quads.length ∧ 1 ≤ imgAt img 12 2 ∧ imgAt img 12 2 ≤ 15 ∧
            imgAt img 14 2 < 4 ∧ imgAt img 16 4 ≤ 64 ∧ imgAt img 20 12 = 0
          let held := (p.launches.filter fun l => l.ticketed || l.call.isSome).length
          let l : Launch :=
            { phase := .queued, ticket := p.nextTicket.toNat, ticketed := false, prio := hdrPrio bs % 8, block := a
              entry := BitVec.ofNat 64 (imgAt img 0 8), cores := imgAt img 8 4, slots := imgAt img 12 2
              tolerant := imgAt img 14 2 % 2 == 1, mflag := imgAt img 14 2 / 2 == 1, asid := asid, parent := none, lnum := 0
              numbered := false, tag := 0, pending := imgAt img 8 4 * imgAt img 12 2, failed := 0, outcome := none, vcns := []
              placed := 0, ops := 0, bytes := 0
              call := some (if hdrReply bs = 0 then none else some k, hdrTag bs) }
          (¬ valid → answers (.launch f k) u 2 0x1C 0) ∧
          (valid → 256 ≤ held → exec (.launch f k) s = .next u) ∧
          (valid → held < 256 →
            exec (.launch f k) s = .next ((((u.modPart part fun p => { p with launches := p.launches ++ [l] }).post
              (.launchPlacement part)).modPart part fun p => { p with nextTicket := p.nextTicket + 1 }).callPop f))))) ∧
    (Heads s f k x 0x11 →
      let named := p.launches.find? fun l => match l.call with | some j => j.2 == arg 0 8 | none => false
      (named = none → answers (.labort f k) s 0 0 0) ∧
      (∀ l, named = some l → l.outcome = none → l.phase = .live → l.parent = none →
        (∀ m, ((s.abortTag part l.tag 0x23).partAt part).byTicket l.ticket = some m → m.numbered = true) →
        answers (.labort f k) (s.abortTag part l.tag 0x23) 0 0 0) ∧
      (∀ l m, named = some l → l.outcome = none → l.phase = .queued → l.ticketed = false →
        let t := s.modLaunch part l.ticket fun q => { q with phase := .over, outcome := some 0x23, lnum := 0 }
        (t.partAt part).byTicket l.ticket = some m → m.numbered = false → m.call = l.call → m.outcome = some 0x23 → m.ticketed = false →
        let gone (v : State) := v.modPart part fun p => { p with launches := p.launches.filter fun q => q.ticket != m.ticket }
        (∀ j tag y, l.call = some (some j, tag) → (t.frames f).find j = some y → MayReply t f y.bytes y.peer →
          let v := (replied t f y.bytes y.peer (replyBytes (hdrTag y.bytes) 6 0x23 m.report.toNat)).putFrameSlot f j { y with replied := true }
          answers (.labort f k) (gone v) 0 0 0) ∧
        (∀ tag, l.call = some (none, tag) → answers (.labort f k) (gone t) 0 0 0)))

/-- R386, R361, R376, R378, R365, R392, R393: the operator's calls for a partition's quads and tenants, a stopped supervisor slot, traces and
replay. The model's choices: the layout of RESIZE's arguments (log 26), that of SAVE's and RESTORE's (log 60), their answer before the tenant is saved or
restored (log 40), and REPLAY's modes and open call (log 29). -/
def Obligations.PartitionCallResult : Prop :=
  ∀ (s v : State) (f k : Nat) (x : Frame),
    let bs := x.args
    let arg := hdrArg bs
    let part := arg 0 8
    let p := s.partAt part
    let answers (i : Instr) := Answers s i f k x
    (Heads s f k x 0x40 → f = 0 →
      let lv := (List.range (arg 8 8)).map fun i => arg (16 + 8 * i) 8
      let en := (List.range (arg (16 + 8 * arg 8 8) 8)).map fun i => arg (24 + 8 * arg 8 8 + 8 * i) 8
      let valid := arg 8 8 ≤ 496 ∧ arg (16 + 8 * arg 8 8) 8 ≤ 496 ∧ p.exists_ = true ∧ p.resize = [] ∧ (∀ q ∈ lv, q ∈ p.quads) ∧
        (∀ q ∈ en, q < 512 ∧ partOfQuad s.parts q = noPart) ∧ lv.Nodup ∧ en.Nodup ∧
        (p.savb.getLsbD 0 = false → lv.length ≤ en.length) ∧ ∀ i : Nat, lv[i]? = some (s.rootCore part / 4) → i < en.length
      (¬ valid → answers (.resize f k) s 2 0 0) ∧
      (valid → answers (.resize f k) (s.modPart part fun p =>
        { p with resize := (List.range (max lv.length en.length)).map fun i => (lv[i]?, en[i]?, false) }) 0 0 0)) ∧
    (Heads s f k x 0x41 → f = 0 →
      (s.vcnCore part (arg 8 8) = none → answers (.save f k) s 2 0 0) ∧
      (∀ c, s.vcnCore part (arg 8 8) = some c →
        let valid := arg 8 8 ≠ 0 ∧ p.savb.getLsbD 0 = true ∧ p.saved.find (arg 8 8) = none ∧ (s.coreAt c).saving = none
        (¬ valid → answers (.save f k) s 2 0 0) ∧
        (valid → s.pairOf c = none → (s.coreAt c).vcn = some (arg 8 8) →
          answers (.save f k)
            (((s.modCore c fun y => { y with saving := some 1, frozen := true }).postEvent c 0x31
              (BitVec.ofNat 64 (arg 8 8 * 2 ^ 32 + 1))).post (.tenantSaveComplete c)) 0 0 0))) ∧
    (Heads s f k x 0x42 → f = 0 →
      let core := arg 16 8
      let valid := p.saved.find (arg 8 8) ≠ none ∧ (∀ e ∈ s.cores, s.partOf e.1 = part → e.2.restVcn ≠ some (arg 8 8)) ∧
        (s.coreAt core).vcn = none ∧ (s.coreAt core).restVcn = none ∧ part ≠ noPart ∧ s.partOf core = part
      (¬ valid → answers (.restore f k) s 2 0 0) ∧
      (valid → answers (.restore f k)
        ((s.modCore core fun y => { y with restVcn := some (arg 8 8), restored := none, saving := some 3, frozen := true, ctxRestored := false }).post
          (.tenantRestoreComplete core)) 0 0 0)) ∧
    (Heads s f k x 0x43 → f = 0 →
      ((s.coreAt part).halted = false → answers (.suprst f k) s 2 0 0) ∧
      ((s.coreAt part).halted = true → answers (.suprst f k)
        ((s.modCore part fun c => { c with halted := false, inTrap := false, xsel := 15 }).startSupervisor part) 0 0 0)) ∧
    (Heads s f k x 0x50 →
      let valid := arg 0 8 % 4096 = 0 ∧ arg 0 8 < 2 ^ 40 ∧ arg 8 8 ≤ 2 ^ 40 ∧ (f ≠ 0 → s.regionOk (fnPart f) (arg 0 8) (arg 8 8) = true)
      (¬ valid → answers (.trace f k) s 2 0 0) ∧
      (valid → f = 0 → s.sealedRange (arg 0 8) (arg 8 8) = true → answers (.trace f k) s 3 0 0) ∧
      (valid → (f = 0 → s.sealedRange (arg 0 8) (arg 8 8) = false) → answers (.trace f k) (s.modPart (fnPart f) fun p =>
        { p with trb := BitVec.ofNat 64 (arg 0 8), trSize := BitVec.ofNat 64 (arg 8 8), trOn := decide (arg 16 8 ≠ 0), trPos := 0 })
        0 0 0)) ∧
    (Heads s f k x 0x51 → f = 0 →
      (p.exists_ = false ∨ 2 < arg 16 8 → answers (.replay f k) s 2 0 0) ∧
      (p.exists_ = true → arg 16 8 ≤ 2 → s.sealedRange (arg 8 8) 1 = true → answers (.replay f k) s 3 0 0) ∧
      (p.exists_ = true → arg 16 8 ≤ 2 → s.sealedRange (arg 8 8) 1 = false → s.endReplay part = .error v →
        exec (.replay f k) s = .next (holding s 0 v)) ∧
      (p.exists_ = true → s.sealedRange (arg 8 8) 1 = false → s.endReplay part = .ok v →
        let ran (g : Sys2Proof.Machine.Part → Sys2Proof.Machine.Part) := v.modPart part fun p => g { p with replayWait := none, stoppedReplay := false }
        (arg 16 8 = 0 → answers (.replay f k) (ran fun p => { p with replay := .off }) 0 0 0) ∧
        (arg 16 8 = 1 → answers (.replay f k) (ran fun p => { p with replay := .record, log := [] }) 0 0 0) ∧
        (arg 16 8 = 2 → exec (.replay f k) s =
          .next ((ran fun p => { p with replay := .replay, replayCall := if hdrReply bs = 0 then none else some k }).callPop f))))

/-- R359, R360, R376, R378, R416, Table 16.7: a swap that may not go on, or has prepared for 2^16 cycles, is abandoned; one whose strands are
quiet copies once the routers admit its packets, and its copies finish. A save takes a quiet core's tenant and leaves the core empty; a restore reads the region back,
reissues the commands and refills the deferred queue as they have room, and once the map names the core it posts PREEMPT and the strands run. That
a restore waits for places for its channel records is the model's choice (log 26). -/
def Obligations.TenantResult : Prop :=
  ∀ (s : State) (p q core : Nat),
    let now := (s.coreAt p).cycle.toNat
    let untraced := (s.partAt (s.partOf p)).trOn = false ∧ (s.partAt (s.partOf q)).trOn = false
    let event (code value : Nat) : TrapRecord := { w0 := BitVec.ofNat 64 (2 ^ 63 + 2 ^ 61 + code), w1 := BitVec.ofNat 64 value }
    let abandons (i : Instr) (reason : Nat) : Prop :=
      untraced → p ≠ q → ∃ t, exec i s = .next t ∧ t.mem = s.mem ∧ t.findPair p q = none ∧
        (t.coreAt p).cooldown = 4 ∧ (t.coreAt q).cooldown = 4 ∧ (t.coreAt p).frozen = false ∧ (t.coreAt q).frozen = false ∧
        Queued s t p (event 0x34 (q * 2 ^ 32 + reason * 2 ^ 4 + 1)) ∧ Queued s t q (event 0x34 (p * 2 ^ 32 + reason * 2 ^ 4 + 1))
    (s.findPair p q = none →
      exec (.swapPrepareTimeout p q) s = .next s ∧ exec (.swapExchange p q) s = .next s ∧ exec (.swapCopyDone p q) s = .next s) ∧
    (∀ w, s.findPair p q = some w → w.exchange = true →
      exec (.swapPrepareTimeout p q) s = .next s ∧ exec (.swapExchange p q) s = .next s ∧
      exec (.swapCopyDone p q) s = .next (s.modPair p q fun w => { w with copied := true })) ∧
    (∀ w, s.findPair p q = some w → w.exchange = false →
      (now < w.since + 2 ^ 16 → exec (.swapPrepareTimeout p q) s = .next (s.post (.swapPrepareTimeout p q))) ∧
      (w.since + 2 ^ 16 ≤ now → abandons (.swapPrepareTimeout p q) 4) ∧
      ((∃ c ∈ [p, q], ∃ k ∈ (s.coreAt c).truss, k.swap = false) → abandons (.swapExchange p q) 1) ∧
      (∀ r, s.swapBlocked p q = some r → abandons (.swapExchange p q) r) ∧
      (s.swapBlocked p q = none →
        let quiet := ∀ c ∈ [p, q], ∀ e ∈ (s.coreAt c).slots, e.1 < 15 → e.2.occupied = true → e.2.pin = true ∨ e.2.holdsEnd = true →
          e.2.ds = 0 ∧ e.2.inRep = false ∧ e.2.osc = 0 ∧ (∀ h, e.2.host = some h → h.sent = false)
        let room := s.swapRoom (s.partOf p) [p, q] = true
        (quiet → Unmetered s p (s.partOf p) 3 → Unmetered s q (s.partOf p) 3 →
          exec (.swapExchange p q) s = .next ((s.modPair p q fun w => { w with exchange := true }).post (.swapCopyDone p q))) ∧
        (¬ quiet ∨ ¬ room → exec (.swapExchange p q) s = .next (s.post (.swapExchange p q)))) ∧
      exec (.swapCopyDone p q) s = .next s) ∧
    ((s.coreAt core).saving = none → exec (.tenantSaveComplete core) s = .next s) ∧
    ((s.coreAt core).saving ≠ none → (s.coreAt core).halted = false → (∀ k ∈ (s.coreAt core).truss, k.remote = false) →
      (∀ k < 15, (s.slotAt core k).kill = none) →
      let c := s.coreAt core
      let quiet := ∀ e ∈ c.slots, e.1 < 15 → e.2.occupied = true → e.2.ds = 0 ∧ e.2.inRep = false ∧ e.2.osc = 0 ∧ e.2.host = none
      s.softLines (s.saveRegion (s.partOf core) (s.vcnOf core)) 0x100000 = [] →
      (∀ e ∈ c.slots, e.1 < 15 → e.2.kill = none) →
      (quiet → s.swapRoom (s.partOf core) [core] = true → ∃ t, exec (.tenantSaveComplete core) s = .next t ∧ (∀ k < 15, (t.slotAt core k).occupied = false) ∧
        (let y := t.coreAt core
         y.saving = none ∧ y.descs = [] ∧ y.grants = [] ∧ y.armed = [] ∧ y.plate = [] ∧ y.truss = [] ∧ y.dqt = 0 ∧ y.dqb = 0 ∧ y.popN = 0 ∧
           y.active = Plane.reset ∧ y.shadow = Plane.reset) ∧
        ∃ w, (t.partAt (s.partOf core)).saved.find (s.vcnOf core) = some w ∧ w.from_ = core ∧ w.batches = c.batches ∧
          w.waits = c.deqWait ∧ w.armed = c.armed ∧ w.truss = c.truss) ∧
      ((∃ e ∈ c.slots, e.1 < 15 ∧ e.2.occupied = true ∧ (e.2.ds ≠ 0 ∨ e.2.inRep = true ∨ e.2.osc ≠ 0) ∧ e.2.trapped = false ∧
          e.2.stopped = false) →
        exec (.tenantSaveComplete core) s = .next (s.post (.tenantSaveComplete core)))) ∧
    ((s.coreAt core).restVcn = none → exec (.tenantRestoreComplete core) s = .next s) ∧
    (∀ vcn, (s.coreAt core).restVcn = some vcn →
      ((s.coreAt core).vcn = some vcn → ∀ why, (s.coreAt core).saving = some why →
        ∃ t, exec (.tenantRestoreComplete core) s = .next t ∧ t.mem = s.mem ∧ (t.coreAt core).restVcn = none ∧
          (t.coreAt core).saving = none ∧ (t.coreAt core).frozen = false ∧
          Queued s t core (event 0x31 (vcn * 2 ^ 32 + 2 ^ 8 + why.toNat))) ∧
      ((s.coreAt core).vcn ≠ some vcn → (s.coreAt core).ctxRestored = true → exec (.tenantRestoreComplete core) s = .next s) ∧
      (∀ w, (s.coreAt core).vcn ≠ some vcn → (s.coreAt core).ctxRestored = false →
        (s.partAt (s.partOf core)).saved.find vcn = some w →
        let base := s.saveRegion (s.partOf core) vcn
        s.softLines base 0x100000 = [] →
        let fits := s.restoreFits core base w = true
        let room := s.swapRoom (s.partOf core) [core] = true
        let goesOn (u : State) (j : Nat) : Prop :=
          let n := u.restoreParts base w
          ∀ v i, u.restoreOn core base w (n - j) j = (v, i) →
            (let y := v.modCore core fun c => { c with restored := some i, ctxRestored := decide (n ≤ i) }
             (n ≤ i → exec (.tenantRestoreComplete core) s = .next y) ∧
             (i < n → exec (.tenantRestoreComplete core) s = .next (y.post (.tenantRestoreComplete core))))
        ((s.coreAt core).restored = none → ¬ fits ∨ ¬ room → exec (.tenantRestoreComplete core) s = .next (s.post (.tenantRestoreComplete core))) ∧
        ((s.coreAt core).restored = none → fits → Unmetered s core (s.partOf core) 3 → goesOn (s.readBack core vcn w) 0) ∧
        (∀ j, (s.coreAt core).restored = some j → goesOn s j)))

/-- R391, R183, R417, R389, R387, R393: power begins stage 0; a stage that completes is reached, stage 1 with verified firmware, and one that
fails is reported, and stage 2 applies what the operator has given; a core leaves reset with its framing timer at 2^20; a VF is enabled on one port with SEQ 0; a replay whose forced choice has
waited for more than a phase stops. The model's choices: how the stages come about (log 41), and how a
replay's call is answered (log 29). -/
def Obligations.StartupResult : Prop :=
  ∀ (s : State) (core fn port part : Nat),
    let y := s.sys
    (y.powered = true → exec .powerOn s = .next s) ∧
    (y.powered = false → exec .powerOn s = .next { s with sys := { y with powered := true, stage := 0, failed := false } }) ∧
    (y.powered = true → y.stage < 2 →
      exec (.startupStageComplete false) s = .next { s with sys := { y with failed := true } } ∧
      (y.stage = 0 → y.firmware = true →
        exec (.startupStageComplete true) s = .next { s with sys := { y with stage := 1, failed := false } }) ∧
      (y.stage = 1 → exec (.startupStageComplete true) s =
        .next ((State.takeChanges { s with sys := { y with stage := 2, failed := false } }) fun _ => true)) ∧
      (y.stage = 0 → y.firmware = false → exec (.startupStageComplete true) s = .next s)) ∧
    (y.powered = false ∨ 2 ≤ y.stage → ∀ ok, exec (.startupStageComplete ok) s = .next s) ∧
    (y.powered = true → core < 2048 → (s.coreAt core).up = false →
      ∃ c, exec (.coreResetRelease core) s = .next (s.setCore core c) ∧ c.up = true ∧ c.cycle = 0 ∧ c.framing = 2 ^ 20 ∧
        c.slots = [] ∧ c.trapQ = [] ∧ (s.partOf core = noPart → c.hasid = 0 ∧ c.vcn = none) ∧
        (s.partOf core ≠ noPart → (∃ a, s.asidOwned a (s.partOf core) = true) →
          s.asidOwned c.hasid (s.partOf core) = true ∧ ∀ a, s.asidOwned a (s.partOf core) = true → c.hasid.toNat ≤ a.toNat)) ∧
    (y.powered = false ∨ 2048 ≤ core ∨ (s.coreAt core).up = true → exec (.coreResetRelease core) s = .next s) ∧
    (1 ≤ fn → fn ≤ 32 → port < 2 → 2 ≤ y.stage → (s.fnAt fn).enabled = false →
      exec (.vfEnable fn port) s = .next (s.modFn fn fun x => { x with enabled := true, port := port, seq := 0 })) ∧
    (fn = 0 ∨ 32 < fn ∨ 2 ≤ port ∨ y.stage < 2 ∨ (s.fnAt fn).enabled = true → exec (.vfEnable fn port) s = .next s) ∧
    ((s.partAt part).replayWait = none → exec (.replayStop part) s = .next s) ∧
    (∀ die phase, (s.partAt part).replayWait = some (die * 2 ^ 32 + phase) → phase < 2 ^ 32 →
      let late := ((s.dieAt die).fphase - BitVec.ofNat 32 phase).toNat
      let t := s.modPart part fun p => { p with replayWait := none, replayCall := none, replay := .off, stoppedReplay := true }
      (late < 2 → exec (.replayStop part) s = .next (s.post (.replayStop part))) ∧
      (2 ≤ late → (s.partAt part).replayCall = none → exec (.replayStop part) s = .next t) ∧
      (2 ≤ late → ∀ k x, (s.partAt part).replayCall = some k → (s.frames 0).find k = some x → MayReply t 0 x.bytes x.peer →
        exec (.replayStop part) s =
          .next ((replied t 0 x.bytes x.peer (replyBytes (hdrTag x.bytes) 6 0 0)).putFrameSlot 0 k { x with replied := true })) ∧
      (2 ≤ late → ∀ k x u, (s.partAt part).replayCall = some k → (s.frames 0).find k = some x → hdrReply x.bytes ≠ 0 → x.peer = none →
        t.hostWrite 0 (hdrPasid x.bytes) (hdrReply x.bytes) 32 = .held u →
        exec (.replayStop part) s = .next ((holding s 0 u).post (.replayStop part))))

/-- R206, R310, R225 to R232: the frame of an integer instruction that takes no trap and carries no elect prefix. Nothing but the issuing
strand's slot changes; in it, no general register but the destination, no status bit but DS, and no other register. R310, R324, R325: the frame of a vector or distribution instruction that reaches no memory, takes no trap and carries no elect prefix.
Nothing changes but the issuing strand's slot and the lane operations counted (R350);
in the slot, only its destination, A, FLAGS, DS, DSTAT and its place. -/
def Obligations.RegisterFrame : Prop :=
  (∀ (s t : State) (i : Instr) (w : BitVec 32), IsInteger i → (encode i).head? = some w → w.getLsbD 10 = false → exec i s = .next t →
     (∀ c v mal, t ≠ s.takeTrap s.core s.slot c v mal) →
     let x := s.cur
     let y := t.slotAt s.core s.slot
     let rd := w.extractLsb' 16 4
     t = s.setSlot s.core s.slot y ∧ (∀ a, Memory.read t.mem a = Memory.read s.mem a) ∧
     y = { x with g := y.g, tags := y.tags, status := y.status, pc := y.pc, entered := y.entered, slotPos := y.slotPos, wait := y.wait,
                  aheadN := y.aheadN } ∧
     (∀ r : GReg, r ≠ rd → y.g[r.toNat]! = x.g[r.toNat]! ∧ y.tags.getLsbD r.toNat = x.tags.getLsbD r.toNat) ∧
     (∀ b < 32, b ≠ 2 → b ≠ 3 → y.status.getLsbD b = x.status.getLsbD b)) ∧
  (∀ (s t : State) (i : Instr) (w : BitVec 32) (vd : Option VReg) (rd : Option GReg) (md : Option MReg) (dd : Option DReg),
     vectorDests i = some (vd, rd, md, dd) → (encode i).head? = some w → w.getLsbD 10 = false → exec i s = .next t →
     (∀ c v mal, t ≠ s.takeTrap s.core s.slot c v mal) →
     let x := s.cur
     let y := t.slotAt s.core s.slot
     (t = s.setSlot s.core s.slot y ∨
       ∃ n, t = (s.addWork s.core s.myPart (if x.member = true then some x.lnum else none) n 0).setSlot s.core s.slot y) ∧
     (∀ a, Memory.read t.mem a = Memory.read s.mem a) ∧
     y = { x with g := y.g, tags := y.tags, v := y.v, m := y.m, d := y.d, dstat := y.dstat, status := y.status, pc := y.pc
                  entered := y.entered, slotPos := y.slotPos, wait := y.wait } ∧
     (∀ r : GReg, rd ≠ some r → y.g[r.toNat]! = x.g[r.toNat]! ∧ y.tags.getLsbD r.toNat = x.tags.getLsbD r.toNat) ∧
     (∀ r : VReg, vd ≠ some r → y.v[r.toNat]! = x.v[r.toNat]!) ∧ (∀ r : MReg, md ≠ some r → y.m[r.toNat]! = x.m[r.toNat]!) ∧
     (∀ r : Fin 4, dd.map BitVec.toNat ≠ some r.val → y.d[r] = x.d[r]) ∧ (dd = none → y.dstat = x.dstat) ∧
     (∀ b < 32, b = 1 ∨ 9 ≤ b → y.status.getLsbD b = x.status.getLsbD b) ∧
     (∀ b < 32, vd = none → b ≠ 0 → b ≠ 2 → b ≠ 3 → y.status.getLsbD b = x.status.getLsbD b))


/-- Table 7.2, Table 10.5, R183, R175, R335, R301, Table 14.6, Table 6.1, Table 3.1: what reset leaves: status words, DSTAT, CYCLE, SPB, tensor
descriptors, grants, the histogram's counts, version states and the directory zero; both planes zero with WFMT BF16, W 128 and HAD 0, and the
plate zero; memory in its canonical form, with nothing listed. That memory lists nothing (so that
it reads as zero), and that no core is out of reset, no slot occupied and the package without power, are the model's choices (DESIGN CHOICE,
logs 3 and 4). -/
def Obligations.ResetValues : Prop :=
  let r := State.reset
  MemOk r ∧ r.mem = [] ∧ r.upCores = [] ∧ r.sys.powered = false ∧
  (∀ c k, (r.slotAt c k).status = 0 ∧ (r.slotAt c k).dstat = 0 ∧ (r.slotAt c k).occupied = false) ∧
  (∀ c,
    let x := r.coreAt c
    x.cycle = 0 ∧ x.spb = 0 ∧ (∀ t, x.descs.get 0 t = 0) ∧ (∀ i, x.grants.get (0, 0) i = (0, 0)) ∧ (∀ b, x.hist.get 0 b = 0) ∧
      (∀ p ∈ [x.active, x.shadow], p.cells = 0 ∧ p.scales = 0 ∧ p.wfmt = ElemType.bf16.code ∧ p.width = 0 ∧ p.had = false) ∧
      ∀ i, x.plate.get 0 i = 0) ∧
  (∀ p tag, r.vstAt p tag = 0) ∧ ∀ line, r.dirAt line = 0

/-- R167, R202, R245: a step in which one core is out of reset, no arrival or stop is to be made and nothing else is due runs the instruction that the strand of the visited slot
finds at its pc, a block tail skipped: the step is its execution, and the cycle that it ends. -/
def Obligations.StepRunsDecoded : Prop :=
  ∀ (s t : State) (c : Nat) (i : Instr) (w : BitVec 32) (n : Nat),
    let s0 := s.beginStep
    let k := s0.visited c
    let b : State := { s0.beginCycle c with core := c, slot := k }
    let here := if b.cur.pc.toNat % 32 = 28 then b.modCur fun x => { x with pc := x.pc + 4 } else b
    s0.upCores = [c] → s0.events = [] → ((s0.beginCycle c).coreAt c).arriving = false → (s0.beginCycle c).tryable c k = true →
    (∀ j < 15, (s0.slotAt c j).stopReq = false) →
    b.cur.inRep = false → b.cur.pc.toNat % 4 = 0 →
    (b.cur.pc.toNat % 32 = 28 → b.cur.entered = false) → CodeAt here here.cur.pc w i n → exec i here = .next t →
    ((t.slotAt c k).occupied = true → (t.slotAt c k).wait = .none) →
    step s = .next (t.endCycle c k (s0.slotAt c k) (some k) ((s0.beginCycle c).readyUsers c))

/-- Every step answers a next state: no instruction or occurrence of the model stops it. -/
def Obligations.StepAnswersNext : Prop := ∀ s : State, Runs s

/-- The model's memory keeps its canonical form over every step: addresses strictly rising, and no entry that reads as an unlisted one. The form is
the model's own (log 3); no rule of the spec names it. -/
def Obligations.MemoryStaysCanonical : Prop := ∀ s t : State, MemOk s → step s = .next t → MemOk t

/-- Words written out from the encoding tables and the worked encodings of the spec decode to their instructions. -/
def Obligations.SampleDecodings : Prop :=
  decode [0x00000004, 0] = .ok (.nop false) ∧
  decode [0x02100818, 0x00000010] = .ok (.bCc .ne 1 2 16) ∧
  decode [0x000400A9, 0x23456789, 0x00000001] = .ok (.movi false 4 0x123456789) ∧
  decode [0x00730100, 0x12B00002] = .ok (.ld false 3 7 { zx := true, size := .h, order := .acq, scope := .pkg, disp := 2 }) ∧
  decode [0x00001924, 0x00300000] = .ok (.fence 3 .pkg) ∧
  decode [0x321501C2, 0x10018010, 0, 0] =
    .ok (.cpy 5 1 2 3 { sstr := 0, dstr := 0, yf := 0, xf := 0, scope := .quad, bph := 1, bv := true, boff := 0x10 }) ∧
  decode [0x03120240, 0x00000003] = .ok (.chan 2 1 3 0 3) ∧
  decode [0x03210294, 0x00000780] = .ok (.vfadd 1 2 3 { imm := 0, aux := 0, sat := false, rnd := .dyn, type := .f32, mask := 0 }) ∧
  decode [0x00060351, 0x00102001, 0] = .ok (.mstrm 6 { noff := 0, koff := 0, count := 1, row0 := 2, tb := 0, ta := 1 })

/-- R195 to R208, Tables 9.1 to 9.16: decoding the encoding of a well-formed instruction gives it back, with every operand. -/
def Obligations.DecodeEncode : Prop := ∀ i : Instr, i.wf = true → i.encoded = true → decode (encode i) = .ok i
end

