-- ==== Sys2Proof/Laws/Bits.lean ====
section
/-! SUPPORT. Fields of words: reading back a field that was set, and every bit of a word whose field was set. -/

namespace Sys2Proof.Machine

theorem setField_low {x v lo len : Nat} : 2 ^ lo * (v % 2 ^ len) + x % 2 ^ lo < 2 ^ (lo + len) := by
  have h1 : x % 2 ^ lo < 2 ^ lo := Nat.mod_lt _ (Nat.two_pow_pos _)
  have h2 : v % 2 ^ len + 1 ≤ 2 ^ len := Nat.mod_lt _ (Nat.two_pow_pos _)
  have h3 := Nat.mul_le_mul_left (2 ^ lo) h2
  rw [Nat.mul_add, Nat.mul_one] at h3
  rw [Nat.pow_add]; omega

/-- A bit of a word whose field was set is the value's inside the field, the word's outside. -/
theorem getLsbD_setField {n : Nat} (x : BitVec n) (lo len v i : Nat) (hi : i < n) :
    (setField x lo len v).getLsbD i = if lo ≤ i ∧ i < lo + len then v.testBit (i - lo) else x.getLsbD i := by
  have e : x.toNat / 2 ^ (lo + len) * 2 ^ (lo + len) + v % 2 ^ len * 2 ^ lo + x.toNat % 2 ^ lo
      = 2 ^ (lo + len) * (x.toNat / 2 ^ (lo + len)) + (2 ^ lo * (v % 2 ^ len) + x.toNat % 2 ^ lo) := by
    rw [Nat.mul_comm (x.toNat / 2 ^ (lo + len)), Nat.mul_comm (v % 2 ^ len), Nat.add_assoc]
  have hlt : x.toNat % 2 ^ lo < 2 ^ lo := Nat.mod_lt _ (Nat.two_pow_pos _)
  simp only [setField, BitVec.getLsbD_ofNat, hi, decide_true, Bool.true_and, e]
  rw [Nat.testBit_two_pow_mul_add _ setField_low, Nat.testBit_two_pow_mul_add _ hlt]
  simp only [Nat.testBit_mod_two_pow, Nat.testBit_div_two_pow, BitVec.getLsbD]
  by_cases h1 : i < lo + len
  · by_cases h2 : i < lo
    · simp [h1, h2, show ¬ lo ≤ i by omega]
    · simp only [h1, h2, if_true, if_false, show lo ≤ i by omega, and_self, show i - lo < len by omega, decide_true, Bool.true_and]
  · simp only [h1, if_false, and_false]; congr 1; omega

/-- A field of a word is the number of its bits. -/
theorem testBit_field {n : Nat} (x : BitVec n) (lo len i : Nat) :
    (field x lo len).testBit i = (decide (i < len) && x.getLsbD (lo + i)) := by
  simp [field, Nat.testBit_mod_two_pow, Nat.testBit_div_two_pow, BitVec.getLsbD, Nat.add_comm]

/-- A field reads as it was set. -/
theorem field_setField_same {n : Nat} (x : BitVec n) (lo len v : Nat) (h : lo + len ≤ n) :
    field (setField x lo len v) lo len = v % 2 ^ len := by
  apply Nat.eq_of_testBit_eq
  intro i
  rw [testBit_field, Nat.testBit_mod_two_pow]
  by_cases hi : i < len
  · rw [getLsbD_setField _ _ _ _ _ (by omega), if_pos (by omega)]; simp [hi]
  · simp [hi]

/-- Another field stays. -/
theorem field_setField_ne {n : Nat} (x : BitVec n) (lo len v lo' len' : Nat) (h : lo' + len' ≤ n)
    (hd : lo' + len' ≤ lo ∨ lo + len ≤ lo') : field (setField x lo len v) lo' len' = field x lo' len' := by
  apply Nat.eq_of_testBit_eq
  intro i
  rw [testBit_field, testBit_field]
  by_cases hi : i < len'
  · rw [getLsbD_setField _ _ _ _ _ (by omega), if_neg (by omega)]
  · simp [hi]

/-- A bit of a word one bit of which was set. -/
theorem getLsbD_setBit {n : Nat} (x : BitVec n) (k : Nat) (b : Bool) (i : Nat) (hi : i < n) :
    (setBit x k b).getLsbD i = if i = k then b else x.getLsbD i := by
  unfold setBit
  rw [getLsbD_setField _ _ _ _ _ hi]
  by_cases h : i = k
  · subst h; rw [if_pos (by omega), if_pos rfl]; cases b <;> simp
  · rw [if_neg (by omega), if_neg h]

end Sys2Proof.Machine
end

