-- ==== Sys2Proof/Laws/State.lean ====
section
/-! SUPPORT. What each update of the state leaves as it was, one lemma for each field and update. -/

namespace Sys2Proof.Machine

/-! ### Fields of the state after an update of a part -/

@[simp] theorem State.setCore_tick (s : State) (c : Nat) (x : Core) : (s.setCore c x).tick = s.tick := rfl
@[simp] theorem State.setCore_serial (s : State) (c : Nat) (x : Core) : (s.setCore c x).serial = s.serial := rfl
@[simp] theorem State.setCore_core (s : State) (c : Nat) (x : Core) : (s.setCore c x).core = s.core := rfl
@[simp] theorem State.setCore_slot (s : State) (c : Nat) (x : Core) : (s.setCore c x).slot = s.slot := rfl
@[simp] theorem State.setCore_events (s : State) (c : Nat) (x : Core) : (s.setCore c x).events = s.events := rfl
@[simp] theorem State.setCore_mem (s : State) (c : Nat) (x : Core) : (s.setCore c x).mem = s.mem := rfl
@[simp] theorem State.setCore_quads (s : State) (c : Nat) (x : Core) : (s.setCore c x).quads = s.quads := rfl
@[simp] theorem State.setCore_dies (s : State) (c : Nat) (x : Core) : (s.setCore c x).dies = s.dies := rfl
@[simp] theorem State.setCore_parts (s : State) (c : Nat) (x : Core) : (s.setCore c x).parts = s.parts := rfl
@[simp] theorem State.setCore_fns (s : State) (c : Nat) (x : Core) : (s.setCore c x).fns = s.fns := rfl
@[simp] theorem State.setCore_sys (s : State) (c : Nat) (x : Core) : (s.setCore c x).sys = s.sys := rfl
@[simp] theorem State.modCore_tick (s : State) (c : Nat) (f : Core → Core) : (s.modCore c f).tick = s.tick := rfl
@[simp] theorem State.modCore_serial (s : State) (c : Nat) (f : Core → Core) : (s.modCore c f).serial = s.serial := rfl
@[simp] theorem State.modCore_core (s : State) (c : Nat) (f : Core → Core) : (s.modCore c f).core = s.core := rfl
@[simp] theorem State.modCore_slot (s : State) (c : Nat) (f : Core → Core) : (s.modCore c f).slot = s.slot := rfl
@[simp] theorem State.modCore_events (s : State) (c : Nat) (f : Core → Core) : (s.modCore c f).events = s.events := rfl
@[simp] theorem State.modCore_mem (s : State) (c : Nat) (f : Core → Core) : (s.modCore c f).mem = s.mem := rfl
@[simp] theorem State.modCore_quads (s : State) (c : Nat) (f : Core → Core) : (s.modCore c f).quads = s.quads := rfl
@[simp] theorem State.modCore_dies (s : State) (c : Nat) (f : Core → Core) : (s.modCore c f).dies = s.dies := rfl
@[simp] theorem State.modCore_parts (s : State) (c : Nat) (f : Core → Core) : (s.modCore c f).parts = s.parts := rfl
@[simp] theorem State.modCore_fns (s : State) (c : Nat) (f : Core → Core) : (s.modCore c f).fns = s.fns := rfl
@[simp] theorem State.modCore_sys (s : State) (c : Nat) (f : Core → Core) : (s.modCore c f).sys = s.sys := rfl
@[simp] theorem State.setSlot_tick (s : State) (c k : Nat) (x : Slot) : (s.setSlot c k x).tick = s.tick := rfl
@[simp] theorem State.setSlot_serial (s : State) (c k : Nat) (x : Slot) : (s.setSlot c k x).serial = s.serial := rfl
@[simp] theorem State.setSlot_core (s : State) (c k : Nat) (x : Slot) : (s.setSlot c k x).core = s.core := rfl
@[simp] theorem State.setSlot_slot (s : State) (c k : Nat) (x : Slot) : (s.setSlot c k x).slot = s.slot := rfl
@[simp] theorem State.setSlot_events (s : State) (c k : Nat) (x : Slot) : (s.setSlot c k x).events = s.events := rfl
@[simp] theorem State.setSlot_mem (s : State) (c k : Nat) (x : Slot) : (s.setSlot c k x).mem = s.mem := rfl
@[simp] theorem State.setSlot_quads (s : State) (c k : Nat) (x : Slot) : (s.setSlot c k x).quads = s.quads := rfl
@[simp] theorem State.setSlot_dies (s : State) (c k : Nat) (x : Slot) : (s.setSlot c k x).dies = s.dies := rfl
@[simp] theorem State.setSlot_parts (s : State) (c k : Nat) (x : Slot) : (s.setSlot c k x).parts = s.parts := rfl
@[simp] theorem State.setSlot_fns (s : State) (c k : Nat) (x : Slot) : (s.setSlot c k x).fns = s.fns := rfl
@[simp] theorem State.setSlot_sys (s : State) (c k : Nat) (x : Slot) : (s.setSlot c k x).sys = s.sys := rfl
@[simp] theorem State.modSlot_tick (s : State) (c k : Nat) (f : Slot → Slot) : (s.modSlot c k f).tick = s.tick := rfl
@[simp] theorem State.modSlot_serial (s : State) (c k : Nat) (f : Slot → Slot) : (s.modSlot c k f).serial = s.serial := rfl
@[simp] theorem State.modSlot_core (s : State) (c k : Nat) (f : Slot → Slot) : (s.modSlot c k f).core = s.core := rfl
@[simp] theorem State.modSlot_slot (s : State) (c k : Nat) (f : Slot → Slot) : (s.modSlot c k f).slot = s.slot := rfl
@[simp] theorem State.modSlot_events (s : State) (c k : Nat) (f : Slot → Slot) : (s.modSlot c k f).events = s.events := rfl
@[simp] theorem State.modSlot_mem (s : State) (c k : Nat) (f : Slot → Slot) : (s.modSlot c k f).mem = s.mem := rfl
@[simp] theorem State.modSlot_quads (s : State) (c k : Nat) (f : Slot → Slot) : (s.modSlot c k f).quads = s.quads := rfl
@[simp] theorem State.modSlot_dies (s : State) (c k : Nat) (f : Slot → Slot) : (s.modSlot c k f).dies = s.dies := rfl
@[simp] theorem State.modSlot_parts (s : State) (c k : Nat) (f : Slot → Slot) : (s.modSlot c k f).parts = s.parts := rfl
@[simp] theorem State.modSlot_fns (s : State) (c k : Nat) (f : Slot → Slot) : (s.modSlot c k f).fns = s.fns := rfl
@[simp] theorem State.modSlot_sys (s : State) (c k : Nat) (f : Slot → Slot) : (s.modSlot c k f).sys = s.sys := rfl
@[simp] theorem State.modCur_tick (s : State) (f : Slot → Slot) : (s.modCur f).tick = s.tick := rfl
@[simp] theorem State.modCur_serial (s : State) (f : Slot → Slot) : (s.modCur f).serial = s.serial := rfl
@[simp] theorem State.modCur_core (s : State) (f : Slot → Slot) : (s.modCur f).core = s.core := rfl
@[simp] theorem State.modCur_slot (s : State) (f : Slot → Slot) : (s.modCur f).slot = s.slot := rfl
@[simp] theorem State.modCur_events (s : State) (f : Slot → Slot) : (s.modCur f).events = s.events := rfl
@[simp] theorem State.modCur_mem (s : State) (f : Slot → Slot) : (s.modCur f).mem = s.mem := rfl
@[simp] theorem State.modCur_quads (s : State) (f : Slot → Slot) : (s.modCur f).quads = s.quads := rfl
@[simp] theorem State.modCur_dies (s : State) (f : Slot → Slot) : (s.modCur f).dies = s.dies := rfl
@[simp] theorem State.modCur_parts (s : State) (f : Slot → Slot) : (s.modCur f).parts = s.parts := rfl
@[simp] theorem State.modCur_fns (s : State) (f : Slot → Slot) : (s.modCur f).fns = s.fns := rfl
@[simp] theorem State.modCur_sys (s : State) (f : Slot → Slot) : (s.modCur f).sys = s.sys := rfl
@[simp] theorem State.setWait_tick (s : State) (w : Wait) : (s.setWait w).tick = s.tick := rfl
@[simp] theorem State.setWait_serial (s : State) (w : Wait) : (s.setWait w).serial = s.serial := rfl
@[simp] theorem State.setWait_core (s : State) (w : Wait) : (s.setWait w).core = s.core := rfl
@[simp] theorem State.setWait_slot (s : State) (w : Wait) : (s.setWait w).slot = s.slot := rfl
@[simp] theorem State.setWait_events (s : State) (w : Wait) : (s.setWait w).events = s.events := rfl
@[simp] theorem State.setWait_mem (s : State) (w : Wait) : (s.setWait w).mem = s.mem := rfl
@[simp] theorem State.setWait_quads (s : State) (w : Wait) : (s.setWait w).quads = s.quads := rfl
@[simp] theorem State.setWait_dies (s : State) (w : Wait) : (s.setWait w).dies = s.dies := rfl
@[simp] theorem State.setWait_parts (s : State) (w : Wait) : (s.setWait w).parts = s.parts := rfl
@[simp] theorem State.setWait_fns (s : State) (w : Wait) : (s.setWait w).fns = s.fns := rfl
@[simp] theorem State.setWait_sys (s : State) (w : Wait) : (s.setWait w).sys = s.sys := rfl
@[simp] theorem State.modQuad_tick (s : State) (q : Nat) (f : Quad → Quad) : (s.modQuad q f).tick = s.tick := rfl
@[simp] theorem State.modQuad_serial (s : State) (q : Nat) (f : Quad → Quad) : (s.modQuad q f).serial = s.serial := rfl
@[simp] theorem State.modQuad_core (s : State) (q : Nat) (f : Quad → Quad) : (s.modQuad q f).core = s.core := rfl
@[simp] theorem State.modQuad_slot (s : State) (q : Nat) (f : Quad → Quad) : (s.modQuad q f).slot = s.slot := rfl
@[simp] theorem State.modQuad_events (s : State) (q : Nat) (f : Quad → Quad) : (s.modQuad q f).events = s.events := rfl
@[simp] theorem State.modQuad_mem (s : State) (q : Nat) (f : Quad → Quad) : (s.modQuad q f).mem = s.mem := rfl
@[simp] theorem State.modQuad_cores (s : State) (q : Nat) (f : Quad → Quad) : (s.modQuad q f).cores = s.cores := rfl
@[simp] theorem State.modQuad_dies (s : State) (q : Nat) (f : Quad → Quad) : (s.modQuad q f).dies = s.dies := rfl
@[simp] theorem State.modQuad_parts (s : State) (q : Nat) (f : Quad → Quad) : (s.modQuad q f).parts = s.parts := rfl
@[simp] theorem State.modQuad_fns (s : State) (q : Nat) (f : Quad → Quad) : (s.modQuad q f).fns = s.fns := rfl
@[simp] theorem State.modQuad_sys (s : State) (q : Nat) (f : Quad → Quad) : (s.modQuad q f).sys = s.sys := rfl
@[simp] theorem State.modDie_tick (s : State) (d : Nat) (f : Die → Die) : (s.modDie d f).tick = s.tick := rfl
@[simp] theorem State.modDie_serial (s : State) (d : Nat) (f : Die → Die) : (s.modDie d f).serial = s.serial := rfl
@[simp] theorem State.modDie_core (s : State) (d : Nat) (f : Die → Die) : (s.modDie d f).core = s.core := rfl
@[simp] theorem State.modDie_slot (s : State) (d : Nat) (f : Die → Die) : (s.modDie d f).slot = s.slot := rfl
@[simp] theorem State.modDie_events (s : State) (d : Nat) (f : Die → Die) : (s.modDie d f).events = s.events := rfl
@[simp] theorem State.modDie_mem (s : State) (d : Nat) (f : Die → Die) : (s.modDie d f).mem = s.mem := rfl
@[simp] theorem State.modDie_cores (s : State) (d : Nat) (f : Die → Die) : (s.modDie d f).cores = s.cores := rfl
@[simp] theorem State.modDie_quads (s : State) (d : Nat) (f : Die → Die) : (s.modDie d f).quads = s.quads := rfl
@[simp] theorem State.modDie_parts (s : State) (d : Nat) (f : Die → Die) : (s.modDie d f).parts = s.parts := rfl
@[simp] theorem State.modDie_fns (s : State) (d : Nat) (f : Die → Die) : (s.modDie d f).fns = s.fns := rfl
@[simp] theorem State.modDie_sys (s : State) (d : Nat) (f : Die → Die) : (s.modDie d f).sys = s.sys := rfl
@[simp] theorem State.modPart_tick (s : State) (p : Nat) (f : Part → Part) : (s.modPart p f).tick = s.tick := rfl
@[simp] theorem State.modPart_serial (s : State) (p : Nat) (f : Part → Part) : (s.modPart p f).serial = s.serial := rfl
@[simp] theorem State.modPart_core (s : State) (p : Nat) (f : Part → Part) : (s.modPart p f).core = s.core := rfl
@[simp] theorem State.modPart_slot (s : State) (p : Nat) (f : Part → Part) : (s.modPart p f).slot = s.slot := rfl
@[simp] theorem State.modPart_events (s : State) (p : Nat) (f : Part → Part) : (s.modPart p f).events = s.events := rfl
@[simp] theorem State.modPart_mem (s : State) (p : Nat) (f : Part → Part) : (s.modPart p f).mem = s.mem := rfl
@[simp] theorem State.modPart_cores (s : State) (p : Nat) (f : Part → Part) : (s.modPart p f).cores = s.cores := rfl
@[simp] theorem State.modPart_quads (s : State) (p : Nat) (f : Part → Part) : (s.modPart p f).quads = s.quads := rfl
@[simp] theorem State.modPart_dies (s : State) (p : Nat) (f : Part → Part) : (s.modPart p f).dies = s.dies := rfl
@[simp] theorem State.modPart_fns (s : State) (p : Nat) (f : Part → Part) : (s.modPart p f).fns = s.fns := rfl
@[simp] theorem State.modPart_sys (s : State) (p : Nat) (f : Part → Part) : (s.modPart p f).sys = s.sys := rfl
@[simp] theorem State.modFn_tick (s : State) (f : Nat) (g : Fn → Fn) : (s.modFn f g).tick = s.tick := rfl
@[simp] theorem State.modFn_serial (s : State) (f : Nat) (g : Fn → Fn) : (s.modFn f g).serial = s.serial := rfl
@[simp] theorem State.modFn_core (s : State) (f : Nat) (g : Fn → Fn) : (s.modFn f g).core = s.core := rfl
@[simp] theorem State.modFn_slot (s : State) (f : Nat) (g : Fn → Fn) : (s.modFn f g).slot = s.slot := rfl
@[simp] theorem State.modFn_events (s : State) (f : Nat) (g : Fn → Fn) : (s.modFn f g).events = s.events := rfl
@[simp] theorem State.modFn_mem (s : State) (f : Nat) (g : Fn → Fn) : (s.modFn f g).mem = s.mem := rfl
@[simp] theorem State.modFn_cores (s : State) (f : Nat) (g : Fn → Fn) : (s.modFn f g).cores = s.cores := rfl
@[simp] theorem State.modFn_quads (s : State) (f : Nat) (g : Fn → Fn) : (s.modFn f g).quads = s.quads := rfl
@[simp] theorem State.modFn_dies (s : State) (f : Nat) (g : Fn → Fn) : (s.modFn f g).dies = s.dies := rfl
@[simp] theorem State.modFn_parts (s : State) (f : Nat) (g : Fn → Fn) : (s.modFn f g).parts = s.parts := rfl
@[simp] theorem State.modFn_sys (s : State) (f : Nat) (g : Fn → Fn) : (s.modFn f g).sys = s.sys := rfl
@[simp] theorem State.modPort_tick (s : State) (k : Nat) (g : Port → Port) : (s.modPort k g).tick = s.tick := rfl
@[simp] theorem State.modPort_serial (s : State) (k : Nat) (g : Port → Port) : (s.modPort k g).serial = s.serial := rfl
@[simp] theorem State.modPort_core (s : State) (k : Nat) (g : Port → Port) : (s.modPort k g).core = s.core := rfl
@[simp] theorem State.modPort_slot (s : State) (k : Nat) (g : Port → Port) : (s.modPort k g).slot = s.slot := rfl
@[simp] theorem State.modPort_events (s : State) (k : Nat) (g : Port → Port) : (s.modPort k g).events = s.events := rfl
@[simp] theorem State.modPort_mem (s : State) (k : Nat) (g : Port → Port) : (s.modPort k g).mem = s.mem := rfl
@[simp] theorem State.modPort_cores (s : State) (k : Nat) (g : Port → Port) : (s.modPort k g).cores = s.cores := rfl
@[simp] theorem State.modPort_quads (s : State) (k : Nat) (g : Port → Port) : (s.modPort k g).quads = s.quads := rfl
@[simp] theorem State.modPort_dies (s : State) (k : Nat) (g : Port → Port) : (s.modPort k g).dies = s.dies := rfl
@[simp] theorem State.modPort_parts (s : State) (k : Nat) (g : Port → Port) : (s.modPort k g).parts = s.parts := rfl
@[simp] theorem State.modPort_fns (s : State) (k : Nat) (g : Port → Port) : (s.modPort k g).fns = s.fns := rfl
@[simp] theorem State.post_tick (s : State) (e : Instr) : (s.post e).tick = s.tick := rfl
@[simp] theorem State.post_serial (s : State) (e : Instr) : (s.post e).serial = s.serial := rfl
@[simp] theorem State.post_core (s : State) (e : Instr) : (s.post e).core = s.core := rfl
@[simp] theorem State.post_slot (s : State) (e : Instr) : (s.post e).slot = s.slot := rfl
@[simp] theorem State.post_mem (s : State) (e : Instr) : (s.post e).mem = s.mem := rfl
@[simp] theorem State.post_cores (s : State) (e : Instr) : (s.post e).cores = s.cores := rfl
@[simp] theorem State.post_quads (s : State) (e : Instr) : (s.post e).quads = s.quads := rfl
@[simp] theorem State.post_dies (s : State) (e : Instr) : (s.post e).dies = s.dies := rfl
@[simp] theorem State.post_parts (s : State) (e : Instr) : (s.post e).parts = s.parts := rfl
@[simp] theorem State.post_fns (s : State) (e : Instr) : (s.post e).fns = s.fns := rfl
@[simp] theorem State.post_sys (s : State) (e : Instr) : (s.post e).sys = s.sys := rfl
@[simp] theorem State.store_tick (s : State) (k n x : Nat) : (s.store k n x).tick = s.tick := rfl
@[simp] theorem State.store_serial (s : State) (k n x : Nat) : (s.store k n x).serial = s.serial := rfl
@[simp] theorem State.store_core (s : State) (k n x : Nat) : (s.store k n x).core = s.core := rfl
@[simp] theorem State.store_slot (s : State) (k n x : Nat) : (s.store k n x).slot = s.slot := rfl
@[simp] theorem State.store_events (s : State) (k n x : Nat) : (s.store k n x).events = s.events := rfl
@[simp] theorem State.store_cores (s : State) (k n x : Nat) : (s.store k n x).cores = s.cores := rfl
@[simp] theorem State.store_quads (s : State) (k n x : Nat) : (s.store k n x).quads = s.quads := rfl
@[simp] theorem State.store_dies (s : State) (k n x : Nat) : (s.store k n x).dies = s.dies := rfl
@[simp] theorem State.store_parts (s : State) (k n x : Nat) : (s.store k n x).parts = s.parts := rfl
@[simp] theorem State.store_fns (s : State) (k n x : Nat) : (s.store k n x).fns = s.fns := rfl
@[simp] theorem State.store_sys (s : State) (k n x : Nat) : (s.store k n x).sys = s.sys := rfl
@[simp] theorem State.storeBytes_tick (s : State) (k : Nat) (bs : List Byte) : (s.storeBytes k bs).tick = s.tick := rfl
@[simp] theorem State.storeBytes_serial (s : State) (k : Nat) (bs : List Byte) : (s.storeBytes k bs).serial = s.serial := rfl
@[simp] theorem State.storeBytes_core (s : State) (k : Nat) (bs : List Byte) : (s.storeBytes k bs).core = s.core := rfl
@[simp] theorem State.storeBytes_slot (s : State) (k : Nat) (bs : List Byte) : (s.storeBytes k bs).slot = s.slot := rfl
@[simp] theorem State.storeBytes_events (s : State) (k : Nat) (bs : List Byte) : (s.storeBytes k bs).events = s.events := rfl
@[simp] theorem State.storeBytes_cores (s : State) (k : Nat) (bs : List Byte) : (s.storeBytes k bs).cores = s.cores := rfl
@[simp] theorem State.storeBytes_quads (s : State) (k : Nat) (bs : List Byte) : (s.storeBytes k bs).quads = s.quads := rfl
@[simp] theorem State.storeBytes_dies (s : State) (k : Nat) (bs : List Byte) : (s.storeBytes k bs).dies = s.dies := rfl
@[simp] theorem State.storeBytes_parts (s : State) (k : Nat) (bs : List Byte) : (s.storeBytes k bs).parts = s.parts := rfl
@[simp] theorem State.storeBytes_fns (s : State) (k : Nat) (bs : List Byte) : (s.storeBytes k bs).fns = s.fns := rfl
@[simp] theorem State.storeBytes_sys (s : State) (k : Nat) (bs : List Byte) : (s.storeBytes k bs).sys = s.sys := rfl

/-! ### Fields of a slot after an update -/

@[simp] theorem Slot.setDs_occupied (x : Slot) (n : Nat) : (x.setDs n).occupied = x.occupied := rfl
@[simp] theorem Slot.setDs_sid (x : Slot) (n : Nat) : (x.setDs n).sid = x.sid := rfl
@[simp] theorem Slot.setDs_trapped (x : Slot) (n : Nat) : (x.setDs n).trapped = x.trapped := rfl
@[simp] theorem Slot.setDs_stopped (x : Slot) (n : Nat) : (x.setDs n).stopped = x.stopped := rfl
@[simp] theorem Slot.setDs_wait (x : Slot) (n : Nat) : (x.setDs n).wait = x.wait := rfl
@[simp] theorem Slot.setDs_g (x : Slot) (n : Nat) : (x.setDs n).g = x.g := rfl
@[simp] theorem Slot.setDs_tags (x : Slot) (n : Nat) : (x.setDs n).tags = x.tags := rfl
@[simp] theorem Slot.setDs_pend (x : Slot) (n : Nat) : (x.setDs n).pend = x.pend := rfl
@[simp] theorem Slot.setDs_pc (x : Slot) (n : Nat) : (x.setDs n).pc = x.pc := rfl
@[simp] theorem Slot.setDs_entered (x : Slot) (n : Nat) : (x.setDs n).entered = x.entered := rfl
@[simp] theorem Slot.setDs_slotPos (x : Slot) (n : Nat) : (x.setDs n).slotPos = x.slotPos := rfl
@[simp] theorem Slot.setDs_jb (x : Slot) (n : Nat) : (x.setDs n).jb = x.jb := rfl
@[simp] theorem Slot.setDs_lnum (x : Slot) (n : Nat) : (x.setDs n).lnum = x.lnum := rfl
@[simp] theorem Slot.setDs_member (x : Slot) (n : Nat) : (x.setDs n).member = x.member := rfl
@[simp] theorem Slot.setDs_asid (x : Slot) (n : Nat) : (x.setDs n).asid = x.asid := rfl
@[simp] theorem Slot.setDs_pin (x : Slot) (n : Nat) : (x.setDs n).pin = x.pin := rfl
@[simp] theorem Slot.setDs_osc (x : Slot) (n : Nat) : (x.setDs n).osc = x.osc := rfl
@[simp] theorem Slot.setDs_v (x : Slot) (n : Nat) : (x.setDs n).v = x.v := rfl
@[simp] theorem Slot.setDs_m (x : Slot) (n : Nat) : (x.setDs n).m = x.m := rfl
@[simp] theorem Slot.setDs_d (x : Slot) (n : Nat) : (x.setDs n).d = x.d := rfl
@[simp] theorem Slot.setDs_dstat (x : Slot) (n : Nat) : (x.setDs n).dstat = x.dstat := rfl
@[simp] theorem Slot.setDs_xstat (x : Slot) (n : Nat) : (x.setDs n).xstat = x.xstat := rfl
@[simp] theorem Slot.setDs_xcause (x : Slot) (n : Nat) : (x.setDs n).xcause = x.xcause := rfl
@[simp] theorem Slot.setDs_xvalue (x : Slot) (n : Nat) : (x.setDs n).xvalue = x.xvalue := rfl
@[simp] theorem Slot.setDs_xpc (x : Slot) (n : Nat) : (x.setDs n).xpc = x.xpc := rfl
@[simp] theorem Slot.setDs_xtgt (x : Slot) (n : Nat) : (x.setDs n).xtgt = x.xtgt := rfl
@[simp] theorem Slot.setDs_reps (x : Slot) (n : Nat) : (x.setDs n).reps = x.reps := rfl
@[simp] theorem Slot.setDs_repa (x : Slot) (n : Nat) : (x.setDs n).repa = x.repa := rfl
@[simp] theorem Slot.setDs_block (x : Slot) (n : Nat) : (x.setDs n).block = x.block := rfl
@[simp] theorem Slot.setDs_aheadN (x : Slot) (n : Nat) : (x.setDs n).aheadN = x.aheadN := rfl
@[simp] theorem Slot.setDs_captured (x : Slot) (n : Nat) : (x.setDs n).captured = x.captured := rfl
@[simp] theorem Slot.setDs_repHold (x : Slot) (n : Nat) : (x.setDs n).repHold = x.repHold := rfl
@[simp] theorem Slot.setDs_electN (x : Slot) (n : Nat) : (x.setDs n).electN = x.electN := rfl
@[simp] theorem Slot.setDs_electQ (x : Slot) (n : Nat) : (x.setDs n).electQ = x.electQ := rfl
@[simp] theorem Slot.setDs_lossI (x : Slot) (n : Nat) : (x.setDs n).lossI = x.lossI := rfl
@[simp] theorem Slot.setDs_lossM (x : Slot) (n : Nat) : (x.setDs n).lossM = x.lossM := rfl
@[simp] theorem Slot.setDs_lossG (x : Slot) (n : Nat) : (x.setDs n).lossG = x.lossG := rfl
@[simp] theorem Slot.setDs_lossV (x : Slot) (n : Nat) : (x.setDs n).lossV = x.lossV := rfl
@[simp] theorem Slot.setDs_traceI (x : Slot) (n : Nat) : (x.setDs n).traceI = x.traceI := rfl
@[simp] theorem Slot.setDs_traceM (x : Slot) (n : Nat) : (x.setDs n).traceM = x.traceM := rfl
@[simp] theorem Slot.setDs_traceG (x : Slot) (n : Nat) : (x.setDs n).traceG = x.traceG := rfl
@[simp] theorem Slot.setDs_traceV (x : Slot) (n : Nat) : (x.setDs n).traceV = x.traceV := rfl
@[simp] theorem Slot.setDs_slice (x : Slot) (n : Nat) : (x.setDs n).slice = x.slice := rfl
@[simp] theorem Slot.setDs_expired (x : Slot) (n : Nat) : (x.setDs n).expired = x.expired := rfl
@[simp] theorem Slot.setDs_sleep (x : Slot) (n : Nat) : (x.setDs n).sleep = x.sleep := rfl
@[simp] theorem Slot.setDs_host (x : Slot) (n : Nat) : (x.setDs n).host = x.host := rfl
@[simp] theorem Slot.setDs_switchAt (x : Slot) (n : Nat) : (x.setDs n).switchAt = x.switchAt := rfl
@[simp] theorem Slot.setDs_prog (x : Slot) (n : Nat) : (x.setDs n).prog = x.prog := rfl
@[simp] theorem Slot.setDs_op (x : Slot) (n : Nat) : (x.setDs n).op = x.op := rfl
@[simp] theorem Slot.setDs_yielded (x : Slot) (n : Nat) : (x.setDs n).yielded = x.yielded := rfl
@[simp] theorem Slot.setDs_kill (x : Slot) (n : Nat) : (x.setDs n).kill = x.kill := rfl
@[simp] theorem Slot.setDs_stopReq (x : Slot) (n : Nat) : (x.setDs n).stopReq = x.stopReq := rfl
@[simp] theorem Slot.setDs_swapWait (x : Slot) (n : Nat) : (x.setDs n).swapWait = x.swapWait := rfl
@[simp] theorem Slot.setDs_restoring (x : Slot) (n : Nat) : (x.setDs n).restoring = x.restoring := rfl
@[simp] theorem Slot.setDs_issuedInWindow (x : Slot) (n : Nat) : (x.setDs n).issuedInWindow = x.issuedInWindow := rfl
@[simp] theorem Slot.anchor_occupied (x : Slot) : (x.anchor).occupied = x.occupied := rfl
@[simp] theorem Slot.anchor_sid (x : Slot) : (x.anchor).sid = x.sid := rfl
@[simp] theorem Slot.anchor_trapped (x : Slot) : (x.anchor).trapped = x.trapped := rfl
@[simp] theorem Slot.anchor_stopped (x : Slot) : (x.anchor).stopped = x.stopped := rfl
@[simp] theorem Slot.anchor_wait (x : Slot) : (x.anchor).wait = x.wait := rfl
@[simp] theorem Slot.anchor_g (x : Slot) : (x.anchor).g = x.g := rfl
@[simp] theorem Slot.anchor_tags (x : Slot) : (x.anchor).tags = x.tags := rfl
@[simp] theorem Slot.anchor_pend (x : Slot) : (x.anchor).pend = x.pend := rfl
@[simp] theorem Slot.anchor_pc (x : Slot) : (x.anchor).pc = x.pc := rfl
@[simp] theorem Slot.anchor_entered (x : Slot) : (x.anchor).entered = x.entered := rfl
@[simp] theorem Slot.anchor_slotPos (x : Slot) : (x.anchor).slotPos = x.slotPos := rfl
@[simp] theorem Slot.anchor_jb (x : Slot) : (x.anchor).jb = x.jb := rfl
@[simp] theorem Slot.anchor_lnum (x : Slot) : (x.anchor).lnum = x.lnum := rfl
@[simp] theorem Slot.anchor_member (x : Slot) : (x.anchor).member = x.member := rfl
@[simp] theorem Slot.anchor_asid (x : Slot) : (x.anchor).asid = x.asid := rfl
@[simp] theorem Slot.anchor_pin (x : Slot) : (x.anchor).pin = x.pin := rfl
@[simp] theorem Slot.anchor_osc (x : Slot) : (x.anchor).osc = x.osc := rfl
@[simp] theorem Slot.anchor_v (x : Slot) : (x.anchor).v = x.v := rfl
@[simp] theorem Slot.anchor_m (x : Slot) : (x.anchor).m = x.m := rfl
@[simp] theorem Slot.anchor_d (x : Slot) : (x.anchor).d = x.d := rfl
@[simp] theorem Slot.anchor_dstat (x : Slot) : (x.anchor).dstat = x.dstat := rfl
@[simp] theorem Slot.anchor_xstat (x : Slot) : (x.anchor).xstat = x.xstat := rfl
@[simp] theorem Slot.anchor_xcause (x : Slot) : (x.anchor).xcause = x.xcause := rfl
@[simp] theorem Slot.anchor_xvalue (x : Slot) : (x.anchor).xvalue = x.xvalue := rfl
@[simp] theorem Slot.anchor_xpc (x : Slot) : (x.anchor).xpc = x.xpc := rfl
@[simp] theorem Slot.anchor_xtgt (x : Slot) : (x.anchor).xtgt = x.xtgt := rfl
@[simp] theorem Slot.anchor_reps (x : Slot) : (x.anchor).reps = x.reps := rfl
@[simp] theorem Slot.anchor_repa (x : Slot) : (x.anchor).repa = x.repa := rfl
@[simp] theorem Slot.anchor_block (x : Slot) : (x.anchor).block = x.block := rfl
@[simp] theorem Slot.anchor_aheadN (x : Slot) : (x.anchor).aheadN = x.aheadN := rfl
@[simp] theorem Slot.anchor_captured (x : Slot) : (x.anchor).captured = x.captured := rfl
@[simp] theorem Slot.anchor_repHold (x : Slot) : (x.anchor).repHold = x.repHold := rfl
@[simp] theorem Slot.anchor_electN (x : Slot) : (x.anchor).electN = x.electN := rfl
@[simp] theorem Slot.anchor_electQ (x : Slot) : (x.anchor).electQ = x.electQ := rfl
@[simp] theorem Slot.anchor_lossI (x : Slot) : (x.anchor).lossI = x.lossI := rfl
@[simp] theorem Slot.anchor_lossM (x : Slot) : (x.anchor).lossM = x.lossM := rfl
@[simp] theorem Slot.anchor_lossG (x : Slot) : (x.anchor).lossG = x.lossG := rfl
@[simp] theorem Slot.anchor_lossV (x : Slot) : (x.anchor).lossV = x.lossV := rfl
@[simp] theorem Slot.anchor_traceI (x : Slot) : (x.anchor).traceI = x.traceI := rfl
@[simp] theorem Slot.anchor_traceM (x : Slot) : (x.anchor).traceM = x.traceM := rfl
@[simp] theorem Slot.anchor_traceG (x : Slot) : (x.anchor).traceG = x.traceG := rfl
@[simp] theorem Slot.anchor_traceV (x : Slot) : (x.anchor).traceV = x.traceV := rfl
@[simp] theorem Slot.anchor_slice (x : Slot) : (x.anchor).slice = x.slice := rfl
@[simp] theorem Slot.anchor_expired (x : Slot) : (x.anchor).expired = x.expired := rfl
@[simp] theorem Slot.anchor_sleep (x : Slot) : (x.anchor).sleep = x.sleep := rfl
@[simp] theorem Slot.anchor_host (x : Slot) : (x.anchor).host = x.host := rfl
@[simp] theorem Slot.anchor_switchAt (x : Slot) : (x.anchor).switchAt = x.switchAt := rfl
@[simp] theorem Slot.anchor_prog (x : Slot) : (x.anchor).prog = x.prog := rfl
@[simp] theorem Slot.anchor_op (x : Slot) : (x.anchor).op = x.op := rfl
@[simp] theorem Slot.anchor_yielded (x : Slot) : (x.anchor).yielded = x.yielded := rfl
@[simp] theorem Slot.anchor_kill (x : Slot) : (x.anchor).kill = x.kill := rfl
@[simp] theorem Slot.anchor_stopReq (x : Slot) : (x.anchor).stopReq = x.stopReq := rfl
@[simp] theorem Slot.anchor_swapWait (x : Slot) : (x.anchor).swapWait = x.swapWait := rfl
@[simp] theorem Slot.anchor_restoring (x : Slot) : (x.anchor).restoring = x.restoring := rfl
@[simp] theorem Slot.anchor_issuedInWindow (x : Slot) : (x.anchor).issuedInWindow = x.issuedInWindow := rfl
@[simp] theorem Slot.orFlags_occupied (x : Slot) (f : BitVec 5) : (x.orFlags f).occupied = x.occupied := rfl
@[simp] theorem Slot.orFlags_sid (x : Slot) (f : BitVec 5) : (x.orFlags f).sid = x.sid := rfl
@[simp] theorem Slot.orFlags_trapped (x : Slot) (f : BitVec 5) : (x.orFlags f).trapped = x.trapped := rfl
@[simp] theorem Slot.orFlags_stopped (x : Slot) (f : BitVec 5) : (x.orFlags f).stopped = x.stopped := rfl
@[simp] theorem Slot.orFlags_wait (x : Slot) (f : BitVec 5) : (x.orFlags f).wait = x.wait := rfl
@[simp] theorem Slot.orFlags_g (x : Slot) (f : BitVec 5) : (x.orFlags f).g = x.g := rfl
@[simp] theorem Slot.orFlags_tags (x : Slot) (f : BitVec 5) : (x.orFlags f).tags = x.tags := rfl
@[simp] theorem Slot.orFlags_pend (x : Slot) (f : BitVec 5) : (x.orFlags f).pend = x.pend := rfl
@[simp] theorem Slot.orFlags_pc (x : Slot) (f : BitVec 5) : (x.orFlags f).pc = x.pc := rfl
@[simp] theorem Slot.orFlags_entered (x : Slot) (f : BitVec 5) : (x.orFlags f).entered = x.entered := rfl
@[simp] theorem Slot.orFlags_slotPos (x : Slot) (f : BitVec 5) : (x.orFlags f).slotPos = x.slotPos := rfl
@[simp] theorem Slot.orFlags_jb (x : Slot) (f : BitVec 5) : (x.orFlags f).jb = x.jb := rfl
@[simp] theorem Slot.orFlags_lnum (x : Slot) (f : BitVec 5) : (x.orFlags f).lnum = x.lnum := rfl
@[simp] theorem Slot.orFlags_member (x : Slot) (f : BitVec 5) : (x.orFlags f).member = x.member := rfl
@[simp] theorem Slot.orFlags_asid (x : Slot) (f : BitVec 5) : (x.orFlags f).asid = x.asid := rfl
@[simp] theorem Slot.orFlags_pin (x : Slot) (f : BitVec 5) : (x.orFlags f).pin = x.pin := rfl
@[simp] theorem Slot.orFlags_osc (x : Slot) (f : BitVec 5) : (x.orFlags f).osc = x.osc := rfl
@[simp] theorem Slot.orFlags_v (x : Slot) (f : BitVec 5) : (x.orFlags f).v = x.v := rfl
@[simp] theorem Slot.orFlags_m (x : Slot) (f : BitVec 5) : (x.orFlags f).m = x.m := rfl
@[simp] theorem Slot.orFlags_d (x : Slot) (f : BitVec 5) : (x.orFlags f).d = x.d := rfl
@[simp] theorem Slot.orFlags_dstat (x : Slot) (f : BitVec 5) : (x.orFlags f).dstat = x.dstat := rfl
@[simp] theorem Slot.orFlags_xstat (x : Slot) (f : BitVec 5) : (x.orFlags f).xstat = x.xstat := rfl
@[simp] theorem Slot.orFlags_xcause (x : Slot) (f : BitVec 5) : (x.orFlags f).xcause = x.xcause := rfl
@[simp] theorem Slot.orFlags_xvalue (x : Slot) (f : BitVec 5) : (x.orFlags f).xvalue = x.xvalue := rfl
@[simp] theorem Slot.orFlags_xpc (x : Slot) (f : BitVec 5) : (x.orFlags f).xpc = x.xpc := rfl
@[simp] theorem Slot.orFlags_xtgt (x : Slot) (f : BitVec 5) : (x.orFlags f).xtgt = x.xtgt := rfl
@[simp] theorem Slot.orFlags_reps (x : Slot) (f : BitVec 5) : (x.orFlags f).reps = x.reps := rfl
@[simp] theorem Slot.orFlags_repa (x : Slot) (f : BitVec 5) : (x.orFlags f).repa = x.repa := rfl
@[simp] theorem Slot.orFlags_block (x : Slot) (f : BitVec 5) : (x.orFlags f).block = x.block := rfl
@[simp] theorem Slot.orFlags_aheadN (x : Slot) (f : BitVec 5) : (x.orFlags f).aheadN = x.aheadN := rfl
@[simp] theorem Slot.orFlags_captured (x : Slot) (f : BitVec 5) : (x.orFlags f).captured = x.captured := rfl
@[simp] theorem Slot.orFlags_repHold (x : Slot) (f : BitVec 5) : (x.orFlags f).repHold = x.repHold := rfl
@[simp] theorem Slot.orFlags_electN (x : Slot) (f : BitVec 5) : (x.orFlags f).electN = x.electN := rfl
@[simp] theorem Slot.orFlags_electQ (x : Slot) (f : BitVec 5) : (x.orFlags f).electQ = x.electQ := rfl
@[simp] theorem Slot.orFlags_lossI (x : Slot) (f : BitVec 5) : (x.orFlags f).lossI = x.lossI := rfl
@[simp] theorem Slot.orFlags_lossM (x : Slot) (f : BitVec 5) : (x.orFlags f).lossM = x.lossM := rfl
@[simp] theorem Slot.orFlags_lossG (x : Slot) (f : BitVec 5) : (x.orFlags f).lossG = x.lossG := rfl
@[simp] theorem Slot.orFlags_lossV (x : Slot) (f : BitVec 5) : (x.orFlags f).lossV = x.lossV := rfl
@[simp] theorem Slot.orFlags_traceI (x : Slot) (f : BitVec 5) : (x.orFlags f).traceI = x.traceI := rfl
@[simp] theorem Slot.orFlags_traceM (x : Slot) (f : BitVec 5) : (x.orFlags f).traceM = x.traceM := rfl
@[simp] theorem Slot.orFlags_traceG (x : Slot) (f : BitVec 5) : (x.orFlags f).traceG = x.traceG := rfl
@[simp] theorem Slot.orFlags_traceV (x : Slot) (f : BitVec 5) : (x.orFlags f).traceV = x.traceV := rfl
@[simp] theorem Slot.orFlags_slice (x : Slot) (f : BitVec 5) : (x.orFlags f).slice = x.slice := rfl
@[simp] theorem Slot.orFlags_expired (x : Slot) (f : BitVec 5) : (x.orFlags f).expired = x.expired := rfl
@[simp] theorem Slot.orFlags_sleep (x : Slot) (f : BitVec 5) : (x.orFlags f).sleep = x.sleep := rfl
@[simp] theorem Slot.orFlags_host (x : Slot) (f : BitVec 5) : (x.orFlags f).host = x.host := rfl
@[simp] theorem Slot.orFlags_switchAt (x : Slot) (f : BitVec 5) : (x.orFlags f).switchAt = x.switchAt := rfl
@[simp] theorem Slot.orFlags_prog (x : Slot) (f : BitVec 5) : (x.orFlags f).prog = x.prog := rfl
@[simp] theorem Slot.orFlags_op (x : Slot) (f : BitVec 5) : (x.orFlags f).op = x.op := rfl
@[simp] theorem Slot.orFlags_yielded (x : Slot) (f : BitVec 5) : (x.orFlags f).yielded = x.yielded := rfl
@[simp] theorem Slot.orFlags_kill (x : Slot) (f : BitVec 5) : (x.orFlags f).kill = x.kill := rfl
@[simp] theorem Slot.orFlags_stopReq (x : Slot) (f : BitVec 5) : (x.orFlags f).stopReq = x.stopReq := rfl
@[simp] theorem Slot.orFlags_swapWait (x : Slot) (f : BitVec 5) : (x.orFlags f).swapWait = x.swapWait := rfl
@[simp] theorem Slot.orFlags_restoring (x : Slot) (f : BitVec 5) : (x.orFlags f).restoring = x.restoring := rfl
@[simp] theorem Slot.orFlags_issuedInWindow (x : Slot) (f : BitVec 5) : (x.orFlags f).issuedInWindow = x.issuedInWindow := rfl
@[simp] theorem Slot.setG_occupied (x : Slot) (r : GReg) (v : Word) : (x.setG r v).occupied = x.occupied := rfl
@[simp] theorem Slot.setG_sid (x : Slot) (r : GReg) (v : Word) : (x.setG r v).sid = x.sid := rfl
@[simp] theorem Slot.setG_trapped (x : Slot) (r : GReg) (v : Word) : (x.setG r v).trapped = x.trapped := rfl
@[simp] theorem Slot.setG_stopped (x : Slot) (r : GReg) (v : Word) : (x.setG r v).stopped = x.stopped := rfl
@[simp] theorem Slot.setG_wait (x : Slot) (r : GReg) (v : Word) : (x.setG r v).wait = x.wait := rfl
@[simp] theorem Slot.setG_pend (x : Slot) (r : GReg) (v : Word) : (x.setG r v).pend = x.pend := rfl
@[simp] theorem Slot.setG_pc (x : Slot) (r : GReg) (v : Word) : (x.setG r v).pc = x.pc := rfl
@[simp] theorem Slot.setG_entered (x : Slot) (r : GReg) (v : Word) : (x.setG r v).entered = x.entered := rfl
@[simp] theorem Slot.setG_slotPos (x : Slot) (r : GReg) (v : Word) : (x.setG r v).slotPos = x.slotPos := rfl
@[simp] theorem Slot.setG_status (x : Slot) (r : GReg) (v : Word) : (x.setG r v).status = x.status := rfl
@[simp] theorem Slot.setG_jb (x : Slot) (r : GReg) (v : Word) : (x.setG r v).jb = x.jb := rfl
@[simp] theorem Slot.setG_lnum (x : Slot) (r : GReg) (v : Word) : (x.setG r v).lnum = x.lnum := rfl
@[simp] theorem Slot.setG_member (x : Slot) (r : GReg) (v : Word) : (x.setG r v).member = x.member := rfl
@[simp] theorem Slot.setG_asid (x : Slot) (r : GReg) (v : Word) : (x.setG r v).asid = x.asid := rfl
@[simp] theorem Slot.setG_pin (x : Slot) (r : GReg) (v : Word) : (x.setG r v).pin = x.pin := rfl
@[simp] theorem Slot.setG_osc (x : Slot) (r : GReg) (v : Word) : (x.setG r v).osc = x.osc := rfl
@[simp] theorem Slot.setG_v (x : Slot) (r : GReg) (v : Word) : (x.setG r v).v = x.v := rfl
@[simp] theorem Slot.setG_m (x : Slot) (r : GReg) (v : Word) : (x.setG r v).m = x.m := rfl
@[simp] theorem Slot.setG_d (x : Slot) (r : GReg) (v : Word) : (x.setG r v).d = x.d := rfl
@[simp] theorem Slot.setG_dstat (x : Slot) (r : GReg) (v : Word) : (x.setG r v).dstat = x.dstat := rfl
@[simp] theorem Slot.setG_xstat (x : Slot) (r : GReg) (v : Word) : (x.setG r v).xstat = x.xstat := rfl
@[simp] theorem Slot.setG_xcause (x : Slot) (r : GReg) (v : Word) : (x.setG r v).xcause = x.xcause := rfl
@[simp] theorem Slot.setG_xvalue (x : Slot) (r : GReg) (v : Word) : (x.setG r v).xvalue = x.xvalue := rfl
@[simp] theorem Slot.setG_xpc (x : Slot) (r : GReg) (v : Word) : (x.setG r v).xpc = x.xpc := rfl
@[simp] theorem Slot.setG_xtgt (x : Slot) (r : GReg) (v : Word) : (x.setG r v).xtgt = x.xtgt := rfl
@[simp] theorem Slot.setG_reps (x : Slot) (r : GReg) (v : Word) : (x.setG r v).reps = x.reps := rfl
@[simp] theorem Slot.setG_repa (x : Slot) (r : GReg) (v : Word) : (x.setG r v).repa = x.repa := rfl
@[simp] theorem Slot.setG_block (x : Slot) (r : GReg) (v : Word) : (x.setG r v).block = x.block := rfl
@[simp] theorem Slot.setG_aheadN (x : Slot) (r : GReg) (v : Word) : (x.setG r v).aheadN = x.aheadN := rfl
@[simp] theorem Slot.setG_captured (x : Slot) (r : GReg) (v : Word) : (x.setG r v).captured = x.captured := rfl
@[simp] theorem Slot.setG_repHold (x : Slot) (r : GReg) (v : Word) : (x.setG r v).repHold = x.repHold := rfl
@[simp] theorem Slot.setG_electN (x : Slot) (r : GReg) (v : Word) : (x.setG r v).electN = x.electN := rfl
@[simp] theorem Slot.setG_electQ (x : Slot) (r : GReg) (v : Word) : (x.setG r v).electQ = x.electQ := rfl
@[simp] theorem Slot.setG_lossI (x : Slot) (r : GReg) (v : Word) : (x.setG r v).lossI = x.lossI := rfl
@[simp] theorem Slot.setG_lossM (x : Slot) (r : GReg) (v : Word) : (x.setG r v).lossM = x.lossM := rfl
@[simp] theorem Slot.setG_lossG (x : Slot) (r : GReg) (v : Word) : (x.setG r v).lossG = x.lossG := rfl
@[simp] theorem Slot.setG_lossV (x : Slot) (r : GReg) (v : Word) : (x.setG r v).lossV = x.lossV := rfl
@[simp] theorem Slot.setG_traceI (x : Slot) (r : GReg) (v : Word) : (x.setG r v).traceI = x.traceI := rfl
@[simp] theorem Slot.setG_traceM (x : Slot) (r : GReg) (v : Word) : (x.setG r v).traceM = x.traceM := rfl
@[simp] theorem Slot.setG_traceG (x : Slot) (r : GReg) (v : Word) : (x.setG r v).traceG = x.traceG := rfl
@[simp] theorem Slot.setG_traceV (x : Slot) (r : GReg) (v : Word) : (x.setG r v).traceV = x.traceV := rfl
@[simp] theorem Slot.setG_slice (x : Slot) (r : GReg) (v : Word) : (x.setG r v).slice = x.slice := rfl
@[simp] theorem Slot.setG_expired (x : Slot) (r : GReg) (v : Word) : (x.setG r v).expired = x.expired := rfl
@[simp] theorem Slot.setG_sleep (x : Slot) (r : GReg) (v : Word) : (x.setG r v).sleep = x.sleep := rfl
@[simp] theorem Slot.setG_host (x : Slot) (r : GReg) (v : Word) : (x.setG r v).host = x.host := rfl
@[simp] theorem Slot.setG_switchAt (x : Slot) (r : GReg) (v : Word) : (x.setG r v).switchAt = x.switchAt := rfl
@[simp] theorem Slot.setG_prog (x : Slot) (r : GReg) (v : Word) : (x.setG r v).prog = x.prog := rfl
@[simp] theorem Slot.setG_op (x : Slot) (r : GReg) (v : Word) : (x.setG r v).op = x.op := rfl
@[simp] theorem Slot.setG_yielded (x : Slot) (r : GReg) (v : Word) : (x.setG r v).yielded = x.yielded := rfl
@[simp] theorem Slot.setG_kill (x : Slot) (r : GReg) (v : Word) : (x.setG r v).kill = x.kill := rfl
@[simp] theorem Slot.setG_stopReq (x : Slot) (r : GReg) (v : Word) : (x.setG r v).stopReq = x.stopReq := rfl
@[simp] theorem Slot.setG_swapWait (x : Slot) (r : GReg) (v : Word) : (x.setG r v).swapWait = x.swapWait := rfl
@[simp] theorem Slot.setG_restoring (x : Slot) (r : GReg) (v : Word) : (x.setG r v).restoring = x.restoring := rfl
@[simp] theorem Slot.setG_issuedInWindow (x : Slot) (r : GReg) (v : Word) : (x.setG r v).issuedInWindow = x.issuedInWindow := rfl
@[simp] theorem Slot.setJoint_occupied (x : Slot) (r : GReg) (v : Word) : (x.setJoint r v).occupied = x.occupied := rfl
@[simp] theorem Slot.setJoint_sid (x : Slot) (r : GReg) (v : Word) : (x.setJoint r v).sid = x.sid := rfl
@[simp] theorem Slot.setJoint_trapped (x : Slot) (r : GReg) (v : Word) : (x.setJoint r v).trapped = x.trapped := rfl
@[simp] theorem Slot.setJoint_stopped (x : Slot) (r : GReg) (v : Word) : (x.setJoint r v).stopped = x.stopped := rfl
@[simp] theorem Slot.setJoint_wait (x : Slot) (r : GReg) (v : Word) : (x.setJoint r v).wait = x.wait := rfl
@[simp] theorem Slot.setJoint_pend (x : Slot) (r : GReg) (v : Word) : (x.setJoint r v).pend = x.pend := rfl
@[simp] theorem Slot.setJoint_pc (x : Slot) (r : GReg) (v : Word) : (x.setJoint r v).pc = x.pc := rfl
@[simp] theorem Slot.setJoint_entered (x : Slot) (r : GReg) (v : Word) : (x.setJoint r v).entered = x.entered := rfl
@[simp] theorem Slot.setJoint_slotPos (x : Slot) (r : GReg) (v : Word) : (x.setJoint r v).slotPos = x.slotPos := rfl
@[simp] theorem Slot.setJoint_status (x : Slot) (r : GReg) (v : Word) : (x.setJoint r v).status = x.status := rfl
@[simp] theorem Slot.setJoint_jb (x : Slot) (r : GReg) (v : Word) : (x.setJoint r v).jb = x.jb := rfl
@[simp] theorem Slot.setJoint_lnum (x : Slot) (r : GReg) (v : Word) : (x.setJoint r v).lnum = x.lnum := rfl
@[simp] theorem Slot.setJoint_member (x : Slot) (r : GReg) (v : Word) : (x.setJoint r v).member = x.member := rfl
@[simp] theorem Slot.setJoint_asid (x : Slot) (r : GReg) (v : Word) : (x.setJoint r v).asid = x.asid := rfl
@[simp] theorem Slot.setJoint_pin (x : Slot) (r : GReg) (v : Word) : (x.setJoint r v).pin = x.pin := rfl
@[simp] theorem Slot.setJoint_osc (x : Slot) (r : GReg) (v : Word) : (x.setJoint r v).osc = x.osc := rfl
@[simp] theorem Slot.setJoint_v (x : Slot) (r : GReg) (v : Word) : (x.setJoint r v).v = x.v := rfl
@[simp] theorem Slot.setJoint_m (x : Slot) (r : GReg) (v : Word) : (x.setJoint r v).m = x.m := rfl
@[simp] theorem Slot.setJoint_d (x : Slot) (r : GReg) (v : Word) : (x.setJoint r v).d = x.d := rfl
@[simp] theorem Slot.setJoint_dstat (x : Slot) (r : GReg) (v : Word) : (x.setJoint r v).dstat = x.dstat := rfl
@[simp] theorem Slot.setJoint_xstat (x : Slot) (r : GReg) (v : Word) : (x.setJoint r v).xstat = x.xstat := rfl
@[simp] theorem Slot.setJoint_xcause (x : Slot) (r : GReg) (v : Word) : (x.setJoint r v).xcause = x.xcause := rfl
@[simp] theorem Slot.setJoint_xvalue (x : Slot) (r : GReg) (v : Word) : (x.setJoint r v).xvalue = x.xvalue := rfl
@[simp] theorem Slot.setJoint_xpc (x : Slot) (r : GReg) (v : Word) : (x.setJoint r v).xpc = x.xpc := rfl
@[simp] theorem Slot.setJoint_xtgt (x : Slot) (r : GReg) (v : Word) : (x.setJoint r v).xtgt = x.xtgt := rfl
@[simp] theorem Slot.setJoint_reps (x : Slot) (r : GReg) (v : Word) : (x.setJoint r v).reps = x.reps := rfl
@[simp] theorem Slot.setJoint_repa (x : Slot) (r : GReg) (v : Word) : (x.setJoint r v).repa = x.repa := rfl
@[simp] theorem Slot.setJoint_block (x : Slot) (r : GReg) (v : Word) : (x.setJoint r v).block = x.block := rfl
@[simp] theorem Slot.setJoint_aheadN (x : Slot) (r : GReg) (v : Word) : (x.setJoint r v).aheadN = x.aheadN := rfl
@[simp] theorem Slot.setJoint_captured (x : Slot) (r : GReg) (v : Word) : (x.setJoint r v).captured = x.captured := rfl
@[simp] theorem Slot.setJoint_repHold (x : Slot) (r : GReg) (v : Word) : (x.setJoint r v).repHold = x.repHold := rfl
@[simp] theorem Slot.setJoint_electN (x : Slot) (r : GReg) (v : Word) : (x.setJoint r v).electN = x.electN := rfl
@[simp] theorem Slot.setJoint_electQ (x : Slot) (r : GReg) (v : Word) : (x.setJoint r v).electQ = x.electQ := rfl
@[simp] theorem Slot.setJoint_lossI (x : Slot) (r : GReg) (v : Word) : (x.setJoint r v).lossI = x.lossI := rfl
@[simp] theorem Slot.setJoint_lossM (x : Slot) (r : GReg) (v : Word) : (x.setJoint r v).lossM = x.lossM := rfl
@[simp] theorem Slot.setJoint_lossG (x : Slot) (r : GReg) (v : Word) : (x.setJoint r v).lossG = x.lossG := rfl
@[simp] theorem Slot.setJoint_lossV (x : Slot) (r : GReg) (v : Word) : (x.setJoint r v).lossV = x.lossV := rfl
@[simp] theorem Slot.setJoint_traceI (x : Slot) (r : GReg) (v : Word) : (x.setJoint r v).traceI = x.traceI := rfl
@[simp] theorem Slot.setJoint_traceM (x : Slot) (r : GReg) (v : Word) : (x.setJoint r v).traceM = x.traceM := rfl
@[simp] theorem Slot.setJoint_traceG (x : Slot) (r : GReg) (v : Word) : (x.setJoint r v).traceG = x.traceG := rfl
@[simp] theorem Slot.setJoint_traceV (x : Slot) (r : GReg) (v : Word) : (x.setJoint r v).traceV = x.traceV := rfl
@[simp] theorem Slot.setJoint_slice (x : Slot) (r : GReg) (v : Word) : (x.setJoint r v).slice = x.slice := rfl
@[simp] theorem Slot.setJoint_expired (x : Slot) (r : GReg) (v : Word) : (x.setJoint r v).expired = x.expired := rfl
@[simp] theorem Slot.setJoint_sleep (x : Slot) (r : GReg) (v : Word) : (x.setJoint r v).sleep = x.sleep := rfl
@[simp] theorem Slot.setJoint_host (x : Slot) (r : GReg) (v : Word) : (x.setJoint r v).host = x.host := rfl
@[simp] theorem Slot.setJoint_switchAt (x : Slot) (r : GReg) (v : Word) : (x.setJoint r v).switchAt = x.switchAt := rfl
@[simp] theorem Slot.setJoint_prog (x : Slot) (r : GReg) (v : Word) : (x.setJoint r v).prog = x.prog := rfl
@[simp] theorem Slot.setJoint_op (x : Slot) (r : GReg) (v : Word) : (x.setJoint r v).op = x.op := rfl
@[simp] theorem Slot.setJoint_yielded (x : Slot) (r : GReg) (v : Word) : (x.setJoint r v).yielded = x.yielded := rfl
@[simp] theorem Slot.setJoint_kill (x : Slot) (r : GReg) (v : Word) : (x.setJoint r v).kill = x.kill := rfl
@[simp] theorem Slot.setJoint_stopReq (x : Slot) (r : GReg) (v : Word) : (x.setJoint r v).stopReq = x.stopReq := rfl
@[simp] theorem Slot.setJoint_swapWait (x : Slot) (r : GReg) (v : Word) : (x.setJoint r v).swapWait = x.swapWait := rfl
@[simp] theorem Slot.setJoint_restoring (x : Slot) (r : GReg) (v : Word) : (x.setJoint r v).restoring = x.restoring := rfl
@[simp] theorem Slot.setJoint_issuedInWindow (x : Slot) (r : GReg) (v : Word) : (x.setJoint r v).issuedInWindow = x.issuedInWindow := rfl

end Sys2Proof.Machine
end

