-- ==== Sys2Proof/Laws/Map.lean ====
section
/-! SUPPORT. Reading a map after a write, and the parts of the state that are read through maps. -/

namespace Sys2Proof.Machine

@[simp] theorem Map.get_set_self {α : Type} (m : Map α) (d : α) (k : Nat) (a : α) : Map.get (Map.set m k a) d k = a := by
  induction m with
  | nil => simp [Map.set, Map.get]
  | cons e rest ih =>
    obtain ⟨k', a'⟩ := e
    simp only [Map.set]
    split
    · simp [Map.get]
    · split
      · simp [Map.get]
      · rw [Map.get, if_neg (by assumption), ih]

theorem Map.get_set_ne {α : Type} (m : Map α) (d : α) (k j : Nat) (a : α) (h : j ≠ k) :
    Map.get (Map.set m k a) d j = Map.get m d j := by
  induction m with
  | nil => simp [Map.set, Map.get, h.symm]
  | cons e rest ih =>
    obtain ⟨k', a'⟩ := e
    simp only [Map.set]
    split
    · rename_i hk; subst hk; simp [Map.get, h.symm]
    · split
      · simp [Map.get, h.symm]
      · rw [Map.get, Map.get, ih]

@[simp] theorem Map.set_set {α : Type} (m : Map α) (k : Nat) (a b : α) : Map.set (Map.set m k a) k b = Map.set m k b := by
  induction m with
  | nil => simp [Map.set]
  | cons e rest ih =>
    obtain ⟨k', a'⟩ := e
    simp only [Map.set]
    split
    · simp [Map.set]
    · split
      · simp [Map.set]
      · rw [Map.set, if_neg (by assumption), if_neg (by assumption), ih]

@[simp] theorem State.coreAt_setCore (s : State) (c : Nat) (x : Core) : (s.setCore c x).coreAt c = x := by
  simp [State.coreAt, State.setCore]

theorem State.coreAt_setCore_ne (s : State) (c d : Nat) (x : Core) (h : d ≠ c) : (s.setCore c x).coreAt d = s.coreAt d := by
  simp [State.coreAt, State.setCore, Map.get_set_ne _ _ _ _ _ h]

@[simp] theorem State.setCore_setCore (s : State) (c : Nat) (x y : Core) : (s.setCore c x).setCore c y = s.setCore c y := by
  simp [State.setCore]

@[simp] theorem State.coreAt_modCore (s : State) (c : Nat) (f : Core → Core) : (s.modCore c f).coreAt c = f (s.coreAt c) := by
  simp [State.modCore]

theorem State.coreAt_modCore_ne (s : State) (c d : Nat) (f : Core → Core) (h : d ≠ c) : (s.modCore c f).coreAt d = s.coreAt d :=
  State.coreAt_setCore_ne _ _ _ _ h

@[simp] theorem State.modCore_modCore (s : State) (c : Nat) (f g : Core → Core) :
    (s.modCore c f).modCore c g = s.modCore c fun x => g (f x) := by
  simp [State.modCore]

@[simp] theorem State.slotAt_setSlot (s : State) (c k : Nat) (x : Slot) : (s.setSlot c k x).slotAt c k = x := by
  simp [State.slotAt, State.setSlot]

theorem State.slotAt_setSlot_slot (s : State) (c k j : Nat) (x : Slot) (h : j ≠ k) : (s.setSlot c k x).slotAt c j = s.slotAt c j := by
  simp [State.slotAt, State.setSlot, Map.get_set_ne _ _ _ _ _ h]

theorem State.slotAt_setSlot_core (s : State) (c d k j : Nat) (x : Slot) (h : d ≠ c) : (s.setSlot c k x).slotAt d j = s.slotAt d j := by
  simp [State.slotAt, State.setSlot, State.coreAt_modCore_ne _ _ _ _ h]

@[simp] theorem State.setSlot_setSlot (s : State) (c k : Nat) (x y : Slot) : (s.setSlot c k x).setSlot c k y = s.setSlot c k y := by
  simp [State.setSlot]

@[simp] theorem State.slotAt_modSlot (s : State) (c k : Nat) (f : Slot → Slot) : (s.modSlot c k f).slotAt c k = f (s.slotAt c k) := by
  simp [State.modSlot]

@[simp] theorem State.cur_modCur (s : State) (f : Slot → Slot) : (s.modCur f).cur = f s.cur := by
  show (s.modSlot s.core s.slot f).slotAt s.core s.slot = _
  simp [State.cur]

@[simp] theorem State.modCur_modCur (s : State) (f g : Slot → Slot) : (s.modCur f).modCur g = s.modCur fun x => g (f x) := by
  show (s.modCur f).setSlot s.core s.slot (g (s.modCur f).cur) = _
  rw [State.cur_modCur]
  exact State.setSlot_setSlot ..

/-- Another slot than the issuing strand's is as it was. -/
theorem State.slotAt_modCur_ne (s : State) (f : Slot → Slot) (c k : Nat) (h : ¬ (c = s.core ∧ k = s.slot)) :
    (s.modCur f).slotAt c k = s.slotAt c k := by
  by_cases hc : c = s.core
  · subst hc
    exact State.slotAt_setSlot_slot _ _ _ _ _ fun hk => h ⟨rfl, hk⟩
  · exact State.slotAt_setSlot_core _ _ _ _ _ _ hc

@[simp] theorem State.cur_setWait (s : State) (w : Wait) : (s.setWait w).cur = { s.cur with wait := w } := State.cur_modCur ..

@[simp] theorem State.quadAt_modQuad (s : State) (q : Nat) (f : Quad → Quad) : (s.modQuad q f).quadAt q = f (s.quadAt q) := by
  simp [State.quadAt, State.modQuad]

@[simp] theorem State.dieAt_modDie (s : State) (d : Nat) (f : Die → Die) : (s.modDie d f).dieAt d = f (s.dieAt d) := by
  simp [State.dieAt, State.modDie]

@[simp] theorem State.partAt_modPart (s : State) (p : Nat) (f : Part → Part) : (s.modPart p f).partAt p = f (s.partAt p) := by
  simp [State.partAt, State.modPart]

@[simp] theorem State.fnAt_modFn (s : State) (n : Nat) (f : Fn → Fn) : (s.modFn n f).fnAt n = f (s.fnAt n) := by
  simp [State.fnAt, State.modFn]

@[simp] theorem State.cur_storeBytes (s : State) (k : Nat) (bs : List Byte) : (s.storeBytes k bs).cur = s.cur := rfl

@[simp] theorem State.cur_store (s : State) (k n x : Nat) : (s.store k n x).cur = s.cur := rfl

@[simp] theorem State.quadAt_setCore (s : State) (c' : Nat) (x : Core) (q : Nat) : (s.setCore c' x).quadAt q = s.quadAt q := rfl
@[simp] theorem State.dieAt_setCore (s : State) (c' : Nat) (x : Core) (d : Nat) : (s.setCore c' x).dieAt d = s.dieAt d := rfl
@[simp] theorem State.partAt_setCore (s : State) (c' : Nat) (x : Core) (p : Nat) : (s.setCore c' x).partAt p = s.partAt p := rfl
@[simp] theorem State.fnAt_setCore (s : State) (c' : Nat) (x : Core) (f : Nat) : (s.setCore c' x).fnAt f = s.fnAt f := rfl
@[simp] theorem State.quadAt_modCore (s : State) (c' : Nat) (x : Core → Core) (q : Nat) : (s.modCore c' x).quadAt q = s.quadAt q := rfl
@[simp] theorem State.dieAt_modCore (s : State) (c' : Nat) (x : Core → Core) (d : Nat) : (s.modCore c' x).dieAt d = s.dieAt d := rfl
@[simp] theorem State.partAt_modCore (s : State) (c' : Nat) (x : Core → Core) (p : Nat) : (s.modCore c' x).partAt p = s.partAt p := rfl
@[simp] theorem State.fnAt_modCore (s : State) (c' : Nat) (x : Core → Core) (f : Nat) : (s.modCore c' x).fnAt f = s.fnAt f := rfl
@[simp] theorem State.quadAt_setSlot (s : State) (c' k' : Nat) (x : Slot) (q : Nat) : (s.setSlot c' k' x).quadAt q = s.quadAt q := rfl
@[simp] theorem State.dieAt_setSlot (s : State) (c' k' : Nat) (x : Slot) (d : Nat) : (s.setSlot c' k' x).dieAt d = s.dieAt d := rfl
@[simp] theorem State.partAt_setSlot (s : State) (c' k' : Nat) (x : Slot) (p : Nat) : (s.setSlot c' k' x).partAt p = s.partAt p := rfl
@[simp] theorem State.fnAt_setSlot (s : State) (c' k' : Nat) (x : Slot) (f : Nat) : (s.setSlot c' k' x).fnAt f = s.fnAt f := rfl
@[simp] theorem State.quadAt_modSlot (s : State) (c' k' : Nat) (x : Slot → Slot) (q : Nat) : (s.modSlot c' k' x).quadAt q = s.quadAt q := rfl
@[simp] theorem State.dieAt_modSlot (s : State) (c' k' : Nat) (x : Slot → Slot) (d : Nat) : (s.modSlot c' k' x).dieAt d = s.dieAt d := rfl
@[simp] theorem State.partAt_modSlot (s : State) (c' k' : Nat) (x : Slot → Slot) (p : Nat) : (s.modSlot c' k' x).partAt p = s.partAt p := rfl
@[simp] theorem State.fnAt_modSlot (s : State) (c' k' : Nat) (x : Slot → Slot) (f : Nat) : (s.modSlot c' k' x).fnAt f = s.fnAt f := rfl
@[simp] theorem State.quadAt_modCur (s : State) (x : Slot → Slot) (q : Nat) : (s.modCur x).quadAt q = s.quadAt q := rfl
@[simp] theorem State.dieAt_modCur (s : State) (x : Slot → Slot) (d : Nat) : (s.modCur x).dieAt d = s.dieAt d := rfl
@[simp] theorem State.partAt_modCur (s : State) (x : Slot → Slot) (p : Nat) : (s.modCur x).partAt p = s.partAt p := rfl
@[simp] theorem State.fnAt_modCur (s : State) (x : Slot → Slot) (f : Nat) : (s.modCur x).fnAt f = s.fnAt f := rfl
@[simp] theorem State.coreAt_modQuad (s : State) (q' : Nat) (x : Quad → Quad) (c : Nat) : (s.modQuad q' x).coreAt c = s.coreAt c := rfl
@[simp] theorem State.slotAt_modQuad (s : State) (q' : Nat) (x : Quad → Quad) (c k : Nat) : (s.modQuad q' x).slotAt c k = s.slotAt c k := rfl
@[simp] theorem State.dieAt_modQuad (s : State) (q' : Nat) (x : Quad → Quad) (d : Nat) : (s.modQuad q' x).dieAt d = s.dieAt d := rfl
@[simp] theorem State.partAt_modQuad (s : State) (q' : Nat) (x : Quad → Quad) (p : Nat) : (s.modQuad q' x).partAt p = s.partAt p := rfl
@[simp] theorem State.fnAt_modQuad (s : State) (q' : Nat) (x : Quad → Quad) (f : Nat) : (s.modQuad q' x).fnAt f = s.fnAt f := rfl
@[simp] theorem State.coreAt_modDie (s : State) (d' : Nat) (x : Die → Die) (c : Nat) : (s.modDie d' x).coreAt c = s.coreAt c := rfl
@[simp] theorem State.slotAt_modDie (s : State) (d' : Nat) (x : Die → Die) (c k : Nat) : (s.modDie d' x).slotAt c k = s.slotAt c k := rfl
@[simp] theorem State.quadAt_modDie (s : State) (d' : Nat) (x : Die → Die) (q : Nat) : (s.modDie d' x).quadAt q = s.quadAt q := rfl
@[simp] theorem State.partAt_modDie (s : State) (d' : Nat) (x : Die → Die) (p : Nat) : (s.modDie d' x).partAt p = s.partAt p := rfl
@[simp] theorem State.fnAt_modDie (s : State) (d' : Nat) (x : Die → Die) (f : Nat) : (s.modDie d' x).fnAt f = s.fnAt f := rfl
@[simp] theorem State.coreAt_modPart (s : State) (p' : Nat) (x : Part → Part) (c : Nat) : (s.modPart p' x).coreAt c = s.coreAt c := rfl
@[simp] theorem State.slotAt_modPart (s : State) (p' : Nat) (x : Part → Part) (c k : Nat) : (s.modPart p' x).slotAt c k = s.slotAt c k := rfl
@[simp] theorem State.quadAt_modPart (s : State) (p' : Nat) (x : Part → Part) (q : Nat) : (s.modPart p' x).quadAt q = s.quadAt q := rfl
@[simp] theorem State.dieAt_modPart (s : State) (p' : Nat) (x : Part → Part) (d : Nat) : (s.modPart p' x).dieAt d = s.dieAt d := rfl
@[simp] theorem State.fnAt_modPart (s : State) (p' : Nat) (x : Part → Part) (f : Nat) : (s.modPart p' x).fnAt f = s.fnAt f := rfl
@[simp] theorem State.coreAt_modFn (s : State) (f' : Nat) (x : Fn → Fn) (c : Nat) : (s.modFn f' x).coreAt c = s.coreAt c := rfl
@[simp] theorem State.slotAt_modFn (s : State) (f' : Nat) (x : Fn → Fn) (c k : Nat) : (s.modFn f' x).slotAt c k = s.slotAt c k := rfl
@[simp] theorem State.quadAt_modFn (s : State) (f' : Nat) (x : Fn → Fn) (q : Nat) : (s.modFn f' x).quadAt q = s.quadAt q := rfl
@[simp] theorem State.dieAt_modFn (s : State) (f' : Nat) (x : Fn → Fn) (d : Nat) : (s.modFn f' x).dieAt d = s.dieAt d := rfl
@[simp] theorem State.partAt_modFn (s : State) (f' : Nat) (x : Fn → Fn) (p : Nat) : (s.modFn f' x).partAt p = s.partAt p := rfl
@[simp] theorem State.coreAt_post (s : State) (i : Instr) (c : Nat) : (s.post i).coreAt c = s.coreAt c := rfl
@[simp] theorem State.slotAt_post (s : State) (i : Instr) (c k : Nat) : (s.post i).slotAt c k = s.slotAt c k := rfl
@[simp] theorem State.quadAt_post (s : State) (i : Instr) (q : Nat) : (s.post i).quadAt q = s.quadAt q := rfl
@[simp] theorem State.dieAt_post (s : State) (i : Instr) (d : Nat) : (s.post i).dieAt d = s.dieAt d := rfl
@[simp] theorem State.partAt_post (s : State) (i : Instr) (p : Nat) : (s.post i).partAt p = s.partAt p := rfl
@[simp] theorem State.fnAt_post (s : State) (i : Instr) (f : Nat) : (s.post i).fnAt f = s.fnAt f := rfl
@[simp] theorem State.coreAt_storeBytes (s : State) (a : Nat) (bs : List Byte) (c : Nat) : (s.storeBytes a bs).coreAt c = s.coreAt c := rfl
@[simp] theorem State.slotAt_storeBytes (s : State) (a : Nat) (bs : List Byte) (c k : Nat) : (s.storeBytes a bs).slotAt c k = s.slotAt c k := rfl
@[simp] theorem State.quadAt_storeBytes (s : State) (a : Nat) (bs : List Byte) (q : Nat) : (s.storeBytes a bs).quadAt q = s.quadAt q := rfl
@[simp] theorem State.dieAt_storeBytes (s : State) (a : Nat) (bs : List Byte) (d : Nat) : (s.storeBytes a bs).dieAt d = s.dieAt d := rfl
@[simp] theorem State.partAt_storeBytes (s : State) (a : Nat) (bs : List Byte) (p : Nat) : (s.storeBytes a bs).partAt p = s.partAt p := rfl
@[simp] theorem State.fnAt_storeBytes (s : State) (a : Nat) (bs : List Byte) (f : Nat) : (s.storeBytes a bs).fnAt f = s.fnAt f := rfl
@[simp] theorem State.coreAt_store (s : State) (a n x : Nat) (c : Nat) : (s.store a n x).coreAt c = s.coreAt c := rfl
@[simp] theorem State.slotAt_store (s : State) (a n x : Nat) (c k : Nat) : (s.store a n x).slotAt c k = s.slotAt c k := rfl
@[simp] theorem State.quadAt_store (s : State) (a n x : Nat) (q : Nat) : (s.store a n x).quadAt q = s.quadAt q := rfl
@[simp] theorem State.dieAt_store (s : State) (a n x : Nat) (d : Nat) : (s.store a n x).dieAt d = s.dieAt d := rfl
@[simp] theorem State.partAt_store (s : State) (a n x : Nat) (p : Nat) : (s.store a n x).partAt p = s.partAt p := rfl
@[simp] theorem State.fnAt_store (s : State) (a n x : Nat) (f : Nat) : (s.store a n x).fnAt f = s.fnAt f := rfl

end Sys2Proof.Machine
end

