-- ==== Sys2Proof/Laws/Issue.lean ====
section
/-! SUPPORT. What an issuing instruction does once it may run: one lemma for each way of issuing. -/

namespace Sys2Proof.Machine

open Sys2Proof.Safety

@[simp] theorem begun_cur_tags (s : State) : (begun s).cur.tags = s.cur.tags := by simp [begun]
@[simp] theorem begun_cur_g (s : State) : (begun s).cur.g = s.cur.g := by simp [begun]
@[simp] theorem begun_cur_pc (s : State) : (begun s).cur.pc = s.cur.pc := by simp [begun]
@[simp] theorem begun_core (s : State) : (begun s).core = s.core := rfl
@[simp] theorem begun_slot (s : State) : (begun s).slot = s.slot := rfl
@[simp] theorem begun_mem (s : State) : (begun s).mem = s.mem := rfl

theorem bind_ok {α β : Type} (m : Exec α) (f : α → Exec β) (s t : State) (a : α) (h : m s = .ok (a, t)) :
    (m >>= f) s = f a t := by
  simp only [bind, StateT.bind, h, Except.bind]

theorem scoreboard_ok {s : State} {rs : List GReg} (h : ∀ r ∈ rs, s.cur.pend.getLsbD r.toNat = false) :
    scoreboard rs s = .ok ((), s) := by
  unfold scoreboard
  rw [if_neg]
  simp only [List.any_eq_true, not_exists, not_and, Bool.not_eq_true]
  exact h

theorem repGate_ok {s : State} {ahead : Bool} {dests : List GReg} (h : MayRun s ahead dests) :
    repGate ahead dests (s.setWait .none) = .ok ((), begun s) := by
  unfold repGate begun
  rw [if_neg]
  simp only [State.cur_setWait, Slot.inRep]
  rintro ⟨hi, hn⟩
  obtain ⟨h1, h0, h2, h3⟩ := h hi
  simp only [h1, h0, h2, ne_eq, not_false_eq_true, true_and, Bool.not_eq_true', ← Bool.not_eq_true, List.all_eq_true] at hn
  exact hn (by simpa using h3)

theorem srcG_ok {s : State} {r : GReg} (h : s.cur.tags.getLsbD r.toNat = false) : srcG r s = .ok (s.cur.g[r.toNat]!, s) := by
  simp [srcG, h]

theorem srcStore_ok {s : State} {r : GReg} (h : s.cur.tags.getLsbD r.toNat = false) :
    srcStore r s = .ok (s.cur.g[r.toNat]!, s) := by
  simp [srcStore, h]

theorem checkDest_ok {s : State} {r : GReg} (h : s.cur.tags.getLsbD r.toNat = false) : checkDest r s = .ok ((), s) := by
  simp [checkDest, h]

theorem noDelaySlot_ok {s : State} (h : s.cur.slotPos = 0 ∧ s.cur.ds = 0) : noDelaySlot s = .ok ((), s) := by
  simp [noDelaySlot, h]

theorem postElect_congr (s t : State) (n : Nat) (v : PostedValue) (h : s = t) : s.postElect n v = t.postElect n v := by rw [h]

/-- An elected member executes: its result is posted. -/
theorem electStep_ok {s u : State} {body : Exec PostedValue} {v : PostedValue} (hg : s.cur.isGang = true)
    (hs : s.cur.slotPos = 0 ∧ s.cur.ds = 0) (hq : s.cur.electQ.find? (fun p => p.n == s.cur.electN) = none)
    (hl : lowestLive s.cur.live = s.core % 4) (hf : s.electFull = false) (hb : body s = .ok (v, u)) :
    electStep body s = .ok ((), (u.postElect s.cur.electN v).modCur fun x => { x with electN := x.electN + 1 }) := by
  unfold electStep
  rw [bind_ok cur _ s s s.cur rfl]
  simp only [hg, Bool.not_true, Bool.false_eq_true, if_false]
  rw [bind_ok noDelaySlot _ s s () (noDelaySlot_ok hs)]
  simp only [hq]
  rw [bind_ok get _ s s s rfl]
  simp only [hl, ne_eq, not_true_eq_false, if_false]
  rw [bind_ok get _ s s s rfl]
  simp only [hf, Bool.false_eq_true, if_false]
  rw [bind_ok body _ s u v hb, bind_ok (upd _) _ u _ () rfl]
  rfl

/-- An instruction that may run and whose effect completes moves to the next. -/
theorem issue_ok {s u : State} {len : Nat} {e ahead : Bool} {regs dests : List GReg} {body : Exec PostedValue} {v : PostedValue}
    (hw : Written s (regs ++ dests)) (hr : MayRun s ahead dests) (he : e = true → Elected s) (hb : body (begun s) = .ok (v, u)) :
    issue len e ahead regs dests body (s.setWait .none) = .ok ((), done s e len v u) := by
  unfold issue
  rw [bind_ok (scoreboard _) _ _ (s.setWait .none) () (scoreboard_ok (by simpa [Written] using hw)),
    bind_ok (repGate _ _) _ _ (begun s) () (repGate_ok hr)]
  cases e with
  | false =>
    simp only [Bool.false_eq_true, if_false]
    rw [bind_ok _ _ _ u () (by rw [bind_ok body _ _ u v hb]; rfl)]
    rfl
  | true =>
    obtain ⟨hg, hs, hq, hl, hf⟩ := he rfl
    simp only [if_true]
    have hc : (begun s).cur.electN = s.cur.electN := by simp [begun]
    have hst : (begun s).cur.status = s.cur.status := by simp [begun]
    rw [bind_ok _ _ _ _ () (electStep_ok (by rw [Slot.isGang, hst]; exact hg)
      ⟨by rw [← hs.1]; simp [begun], by rw [Slot.ds, hst]; exact hs.2⟩
      (by rw [hc, ← hq]; congr 1; simp [begun]) (by rw [Slot.live, hst, begun_core]; exact hl)
      (electFull_begun s hf) hb)]
    rw [hc]
    simp only [modCur, done, if_true]
where
  electFull_begun (s : State) (hf : s.electFull = false) : (begun s).electFull = false := by
    have key (c : Nat) : ((begun s).slotAt c (begun s).slot).electQ = (s.slotAt c s.slot).electQ := by
      by_cases hc : c = s.core
      · subst hc
        show (begun s).cur.electQ = s.cur.electQ
        simp [begun]
      · exact congrArg _ (State.slotAt_modCur_ne s _ c s.slot fun h => hc h.1)
    have hst : (begun s).cur.status = s.cur.status := by simp [begun]
    have hl : (begun s).cur.live = s.cur.live := by rw [Slot.live, Slot.live, hst]
    unfold State.electFull at *
    rw [begun_core, hl]
    simpa only [key] using hf

theorem runAhead_ok {s t : State} {m : Exec Unit} (h : m (s.setWait .none) = .ok ((), t)) : runAhead m s = .next t := by
  simp [runAhead, h]

theorem runStrand_ok {s t : State} {m : Exec Unit} (h : m (s.setWait .none) = .ok ((), t)) : runStrand m s = .next t := by
  simp [runStrand, h]

/-- A control transfer that may run moves to its delay slots (R206, R233). -/
theorem issueTransfer_ok {s u : State} {len : Nat} {regs dests : List GReg} {target : Exec (Option Word)} {t : Option Word}
    (hw : Written s (regs ++ dests)) (hn : NoSlot s) (hr : MayRun s true dests) (hb : target (begun s) = .ok (t, u)) :
    issueTransfer len regs dests target (s.setWait .none) = .ok ((), moved len t u) := by
  unfold issueTransfer
  rw [bind_ok (scoreboard _) _ _ (s.setWait .none) () (scoreboard_ok (by simpa [Written] using hw)),
    bind_ok (repGate _ _) _ _ (begun s) () (repGate_ok hr),
    bind_ok noDelaySlot _ _ (begun s) () (noDelaySlot_ok (by simpa [NoSlot, begun, Slot.ds] using hn)), bind_ok target _ _ u t hb]
  rfl

end Sys2Proof.Machine
end

