-- ==== Sys2Proof/Laws/Memory.lean ====
section
/-! SUPPORT. Memory: every operation keeps the canonical form, a read after a write gives what was written, and every other
byte reads as before. -/

namespace Sys2Proof.Machine

theorem Memory.wfAbove_mono {lo hi : Nat} {m : List Host.Cell} (h : Memory.wfAbove (some hi) m = true) (hl : lo ≤ hi) :
    Memory.wfAbove (some lo) m = true := by
  cases m with
  | nil => rfl
  | cons e rest => simp_all [Memory.wfAbove]; omega

theorem Memory.wfAbove_none {lo : Option Nat} {m : List Host.Cell} (h : Memory.wfAbove lo m = true) :
    Memory.wfAbove none m = true := by
  cases m with
  | nil => rfl
  | cons e rest => simp_all [Memory.wfAbove]

theorem Memory.wfAbove_write {lo : Option Nat} {m : List Host.Cell} (k : Nat) (b : Byte) (h : Memory.wfAbove lo m = true)
    (hk : ∀ l, lo = some l → l < k) : Memory.wfAbove lo (Memory.write m k b) = true := by
  induction m generalizing lo with
  | nil =>
    unfold Memory.write
    split
    · rfl
    · cases lo <;> simp_all [Memory.wfAbove]
  | cons e rest ih =>
    obtain ⟨k', b'⟩ := e
    simp only [Memory.wfAbove, Bool.and_eq_true, decide_eq_true_eq] at h
    obtain ⟨⟨h1, h2⟩, h3⟩ := h
    unfold Memory.write
    split
    · subst_vars
      split
      · cases lo with
        | none => exact Memory.wfAbove_none h3
        | some l => exact Memory.wfAbove_mono h3 (Nat.le_of_lt (hk l rfl))
      · cases lo <;> simp_all [Memory.wfAbove]
    · split
      · split
        · cases lo <;> simp_all [Memory.wfAbove]
        · cases lo <;> simp_all [Memory.wfAbove]
      · have := ih h3 (by intro l hl; cases hl; omega)
        cases lo <;> simp_all [Memory.wfAbove]

/-- A byte written keeps the canonical form. -/
theorem Memory.wf_write {m : List Host.Cell} (k : Nat) (b : Byte) (h : Memory.wf m = true) : Memory.wf (Memory.write m k b) = true :=
  Memory.wfAbove_write k b h (by simp)

/-- Bytes written keep the canonical form. -/
theorem Memory.wf_writeList {m : List Host.Cell} (k : Nat) (bs : List Byte) (h : Memory.wf m = true) :
    Memory.wf (Memory.writeList m k bs) = true := by
  induction bs generalizing m k with
  | nil => exact h
  | cons b rest ih => exact ih (k + 1) (Memory.wf_write k b h)

theorem State.wf_store {s : State} (k n x : Nat) (h : Memory.wf s.mem = true) : Memory.wf (s.store k n x).mem = true :=
  Memory.wf_writeList k _ h

theorem State.wf_storeBytes {s : State} (k : Nat) (bs : List Byte) (h : Memory.wf s.mem = true) :
    Memory.wf (s.storeBytes k bs).mem = true :=
  Memory.wf_writeList k _ h

/-- Below its first address a canonical list holds nothing. -/
theorem Memory.read_below {lo j : Nat} {m : List Host.Cell} (h : Memory.wfAbove (some lo) m = true) (hj : j ≤ lo) :
    Memory.read m j = Memory.unlisted := by
  induction m generalizing lo with
  | nil => rfl
  | cons e rest ih =>
    obtain ⟨k', b'⟩ := e
    simp only [Memory.wfAbove, Bool.and_eq_true, decide_eq_true_eq] at h
    obtain ⟨⟨h1, -⟩, h3⟩ := h
    rw [Memory.read, if_neg (by omega)]
    exact ih h3 (by omega)

theorem Memory.read_write_above {lo : Option Nat} {m : List Host.Cell} (k : Nat) (b : Byte) (h : Memory.wfAbove lo m = true) :
    Memory.read (Memory.write m k b) k = b := by
  induction m generalizing lo with
  | nil =>
    unfold Memory.write
    split
    · simp_all [Memory.read]
    · simp [Memory.read]
  | cons e rest ih =>
    obtain ⟨k', b'⟩ := e
    simp only [Memory.wfAbove, Bool.and_eq_true, decide_eq_true_eq] at h
    obtain ⟨⟨-, h2⟩, h3⟩ := h
    unfold Memory.write
    split
    · subst_vars
      split
      · subst_vars; exact Memory.read_below h3 (Nat.le_refl _)
      · simp [Memory.read]
    · split
      · split
        · subst_vars
          rw [Memory.read, if_neg (by assumption)]
          exact Memory.read_below h3 (by omega)
        · simp [Memory.read]
      · rw [Memory.read, if_neg (by assumption)]
        exact ih h3

/-- The byte written is read. -/
theorem Memory.read_write_self {m : List Host.Cell} (k : Nat) (b : Byte) (h : Memory.wf m = true) :
    Memory.read (Memory.write m k b) k = b := Memory.read_write_above k b h

/-- Every other byte reads as before. -/
theorem Memory.read_write_ne (m : List Host.Cell) (k j : Nat) (b : Byte) (h : j ≠ k) :
    Memory.read (Memory.write m k b) j = Memory.read m j := by
  induction m with
  | nil =>
    unfold Memory.write
    split
    · rfl
    · simp [Memory.read, h.symm]
  | cons e rest ih =>
    obtain ⟨k', b'⟩ := e
    unfold Memory.write
    split
    · subst_vars
      split <;> simp [Memory.read, h.symm]
    · split
      · split <;> simp [Memory.read, h.symm]
      · simp [Memory.read, ih]

/-- Bytes outside a written range read as before. -/
theorem Memory.read_writeList_ne (m : List Host.Cell) (k j : Nat) (bs : List Byte) (h : j < k ∨ k + bs.length ≤ j) :
    Memory.read (Memory.writeList m k bs) j = Memory.read m j := by
  induction bs generalizing m k with
  | nil => rfl
  | cons b rest ih =>
    simp only [List.length_cons] at h
    rw [Memory.writeList, ih _ _ (by omega), Memory.read_write_ne _ _ _ _ (by omega)]

/-- A range written is read back. -/
theorem Memory.readList_writeList {m : List Host.Cell} (k : Nat) (bs : List Byte) (h : Memory.wf m = true) :
    Memory.readList (Memory.writeList m k bs) k bs.length = bs := by
  induction bs generalizing m k with
  | nil => rfl
  | cons b rest ih =>
    rw [Memory.writeList, List.length_cons, Memory.readList, ih (k + 1) (Memory.wf_write k b h),
      Memory.read_writeList_ne _ _ _ _ (by omega), Memory.read_write_self _ _ h]

@[simp] theorem toBytes_length (n x : Nat) : (toBytes n x).length = n := by
  induction n generalizing x with
  | zero => rfl
  | succ n ih => simp [toBytes, ih]

/-- Bytes and number agree. -/
theorem ofBytes_toBytes (n x : Nat) : ofBytes (toBytes n x) = x % 2 ^ (8 * n) := by
  induction n generalizing x with
  | zero => simp [toBytes, ofBytes, Nat.mod_one]
  | succ n ih =>
    rw [toBytes, ofBytes, ih, BitVec.toNat_ofNat, show 8 * (n + 1) = 8 + 8 * n by omega, Nat.pow_add,
      Nat.mod_mul, show (2 : Nat) ^ 8 = 256 from rfl]

/-- A value stored is loaded (R8). -/
theorem State.load_store {s : State} (k n x : Nat) (h : Memory.wf s.mem = true) : (s.store k n x).load k n = x % 2 ^ (8 * n) := by
  rw [State.load, State.store, ← ofBytes_toBytes]
  congr 1
  simpa using Memory.readList_writeList k (toBytes n x) h

/-- Reset lists nothing. -/
theorem State.reset_wf : Memory.wf State.reset.mem = true := rfl

end Sys2Proof.Machine
end

