-- ==== Sys2Proof/Laws/Traps.lean ====
section
/-! SUPPORT. What posting trap records, fault records and trace records does to the cores and slots. -/

namespace Sys2Proof.Machine

open Sys2Proof.Safety

/-- Counting flits leaves the cores as they are. -/
@[simp] theorem State.coreAt_countFlits (s : State) (core key n c : Nat) : (s.countFlits core key n).coreAt c = s.coreAt c := by
  unfold State.countFlits; split <;> rfl

/-- A trace record changes of a core only how many of its records were lost. -/
theorem State.coreAt_putTrace (s : State) (p core : Nat) (img : List Byte) (c : Nat) :
    ∃ n, (s.putTrace p core img).coreAt c = { s.coreAt c with traceLost := n } := by
  unfold State.putTrace
  simp only []
  repeat' split
  all_goals
    try simp only [State.coreAt_modPart, State.coreAt_storeBytes]
    first
      | exact ⟨(s.coreAt c).traceLost, rfl⟩
      | (by_cases h : c = core
         · subst h; simp only [State.coreAt_modCore, State.coreAt_storeBytes]; exact ⟨_, rfl⟩
         · rw [State.coreAt_modCore_ne _ _ _ _ h]; exact ⟨(s.coreAt c).traceLost, rfl⟩)

/-- The same of a record that leaves its source. -/
theorem State.coreAt_trace (s : State) (p kind slot pcore : Nat) (pc : Word) (pl : List Byte) (c : Nat) :
    ∃ n, (s.trace p kind slot pcore pc pl).coreAt c = { s.coreAt c with traceLost := n } := by
  unfold State.trace
  split
  · exact ⟨(s.coreAt c).traceLost, rfl⟩
  · unfold State.sendTrace
    simp only []
    split
    · obtain ⟨n, h⟩ := State.coreAt_putTrace (s.countFlits pcore (budgetKey p 4) 1) p _ _ c
      exact ⟨n, by rw [h, State.coreAt_countFlits]⟩
    · exact ⟨(s.coreAt c).traceLost, rfl⟩

@[simp] theorem State.slotAt_trace (s : State) (p kind slot pcore : Nat) (pc : Word) (pl : List Byte) (c k : Nat) :
    (s.trace p kind slot pcore pc pl).slotAt c k = s.slotAt c k := by
  obtain ⟨n, h⟩ := State.coreAt_trace s p kind slot pcore pc pl c
  unfold State.slotAt; rw [h]

/-- A function's access to the host leaves the cores as they are. -/
theorem State.coreAt_hostReach (s : State) (f : Nat) (pasid : BitVec 32) (ua n : Nat) (w : Bool) (c : Nat) :
    match s.hostReach f pasid ua n w with
    | .sendTo t _ => t.coreAt c = s.coreAt c
    | .refused t => t.coreAt c = s.coreAt c
    | .held t => t.coreAt c = s.coreAt c := by
  unfold State.hostReach
  cases bit pasid 31 with
  | false => rfl
  | true =>
    simp only [Bool.not_true, Bool.false_eq_true, if_false]
    generalize State.hostLook _ _ _ = a
    cases a <;> simp only [State.coreAt_modFn]

@[simp] theorem State.coreAt_sendRecords (s : State) (f : Nat) (rs : List (List Byte)) (c : Nat) :
    (s.sendRecords f rs).coreAt c = s.coreAt c := by
  induction rs generalizing s with
  | nil => simp only [State.sendRecords, State.coreAt_modFn]
  | cons r rest ih =>
    have h := State.coreAt_hostReach s f (s.fnAt f).areaPasid
      ((s.fnAt f).areaBase.toNat + 64 * ((s.fnAt f).index % 2 ^ (s.fnAt f).areaN)) 64 true c
    unfold State.sendRecords State.hostWrite
    split at h <;> rename_i heq <;> simp only [heq, ih, State.coreAt_modFn, State.coreAt_storeBytes, h]

@[simp] theorem State.coreAt_postFault (s : State) (f type func : Nat) (body : List Byte) (c : Nat) :
    (s.postFault f type func body).coreAt c = s.coreAt c := by
  unfold State.postFault
  simp only []
  split <;> simp only [State.coreAt_modFn, State.coreAt_sendRecords]

@[simp] theorem State.slotAt_postFault (s : State) (f type func : Nat) (body : List Byte) (c k : Nat) :
    (s.postFault f type func body).slotAt c k = s.slotAt c k := by
  unfold State.slotAt; rw [State.coreAt_postFault]

/-- Seating a strand changes one slot of one core. -/
theorem State.coreAt_seat (s : State) (c k : Nat) (x : Slot) :
    (s.seat c k x).coreAt c =
      { s.coreAt c with slots := (s.coreAt c).slots.set k { x with sid := s.serial, occupied := true } } := by
  have : (s.seat c k x).coreAt c = (s.setSlot c k { x with sid := s.serial, occupied := true }).coreAt c := rfl
  rw [this, State.setSlot, State.coreAt_modCore]

/-- A pushed record enters the queue of its core, or waits at its source (R364). -/
theorem State.pushTrap_queued (s : State) (c : Nat) (r : TrapRecord) : Queued s (s.pushTrap c r) c r := by
  unfold Queued State.pushTrap
  constructor
  · intro h; simp only [h, if_true, and_self]
    split
    · rw [State.startSupervisor, State.coreAt_seat, State.coreAt_setCore]; exact ⟨rfl, rfl⟩
    · simp
  · intro h; simp only [h, if_false, State.coreAt_setCore, and_self]

/-- A pushed record leaves the user slots as they are. -/
theorem State.slotAt_pushTrap (s : State) (c k : Nat) (r : TrapRecord) (hk : k < 15) :
    (s.pushTrap c r).slotAt c k = s.slotAt c k := by
  unfold State.pushTrap
  simp only []
  split
  · split
    · rw [State.startSupervisor, State.slotAt, State.coreAt_seat, State.coreAt_setCore]
      exact Map.get_set_ne _ _ _ _ _ (by omega)
    · simp [State.slotAt]
  · simp [State.slotAt]

end Sys2Proof.Machine
end

