-- ==== Sys2Proof/Tests/Slice0.lean ====
section
/-! SUPPORT. Tests: words of the spec decode to their instructions, ill-formed terms are refused, and states that meet the hypotheses of the
statements. Every expected result comes from the spec's tables and worked encodings. -/

namespace Sys2Proof.Tests

open Sys2Proof Sys2Proof.Machine Sys2Proof.Safety

-- One test at a time, so that their evaluations do not run together.
set_option Elab.async false

/-! ### Decoding: words written out from the spec's encoding tables, one for each family at least -/

/-- Table 9.9, op 0x01. -/
theorem test_decode_nop : (decode [0x00000004, 0]).toOption = some (.nop false) := by decide
/-- Table 9.9, op 0x09. -/
theorem test_decode_tret : (decode [0x00000024, 0]).toOption = some .tret := by decide
/-- The worked example of R412's TRAP: op 0x08. -/
theorem test_decode_trap : (decode [0x00000020, 0x00000040]).toOption = some (.trap 0x40) := by decide
/-- Worked encoding of chapter 9. -/
theorem test_decode_bne : (decode [0x02100818, 0x00000010]).toOption = some (.bCc .ne 1 2 16) := by decide
/-- Worked encoding of chapter 11. -/
theorem test_decode_bine : (decode [0x0020081D, 0xFFFFFFFE, 0x00000001]).toOption = some (.biCc .ne 2 1 0xFFFFFFFE) := by decide
/-- Worked encoding of chapter 11: rep 1, 4, 1. -/
theorem test_decode_rep : (decode [0x00000040, 0x00000818]).toOption = some (.rep 0 3 1) := by decide
/-- Worked encoding of chapter 9. -/
theorem test_decode_movi : (decode [0x000400A9, 0x23456789, 0x00000001]).toOption = some (.movi false 4 0x123456789) := by decide
/-- Table 9.10: op 0x20 = 0b00100000, fn 1, fd 5, fa 6, fb 7. -/
theorem test_decode_sub : (decode [0x07650880, 0]).toOption = some (.sub false 5 6 7) := by decide
/-- The same word with e, bit 10. -/
theorem test_decode_sub_elect : (decode [0x07650C80, 0]).toOption = some (.sub true 5 6 7) := by decide
/-- Worked encoding of chapter 9: ld.h.z.acq.pkg g3, 2(g7). -/
theorem test_decode_ld :
    (decode [0x00730100, 0x12B00002]).toOption = some (.ld false 3 7 { zx := true, size := .h, order := .acq, scope := .pkg, disp := 2 }) := by decide
/-- Worked encoding of chapter 9: FENCE with kinds u and e at pkg. -/
theorem test_decode_fence : (decode [0x00001924, 0x00300000]).toOption = some (.fence 3 .pkg) := by decide
/-- Table 9.12: op 0x60, fn 0, fd 1, fa 2, fc 3; size d, disp 8. -/
theorem test_decode_amo :
    (decode [0x30210180, 0x06000008]).toOption = some (.amo false .add 1 2 3 { zx := false, size := .d, order := .rlx, scope := .core, disp := 8 }) := by
  decide
/-- The copy of the worked example of chapter 12. -/
theorem test_decode_cpy :
    (decode [0x321501C2, 0x10018010, 0, 0]).toOption =
      some (.cpy 5 1 2 3 { sstr := 0, dstr := 0, yf := 0, xf := 0, scope := .quad, bph := 1, bv := true, boff := 0x10 }) := by decide
/-- Table 9.14: op 0x84. -/
theorem test_decode_exit : (decode [0x00000210, 0]).toOption = some .exit := by decide
/-- Worked encoding of chapter 13: chan g2, g3, g1, 8, 4. -/
theorem test_decode_chan : (decode [0x03120240, 0x00000003]).toOption = some (.chan 2 1 3 0 3) := by decide
/-- Worked encoding of chapter 9: vfadd.f32 v1, v2, v3. -/
theorem test_decode_vfadd :
    (decode [0x03210294, 0x00000780]).toOption = some (.vfadd 1 2 3 { imm := 0, aux := 0, sat := false, rnd := .dyn, type := .f32, mask := 0 }) := by
  decide
/-- Table 9.16: op 0xB0, fn 0, fd 1, fa 2, fb 3. -/
theorem test_decode_mand : (decode [0x032102C0, 0]).toOption = some (.mand 1 2 3) := by decide
/-- Table 9.17: op 0xC3, fn 2, fd 1, fa 2, fb 3. -/
theorem test_decode_dmul : (decode [0x0321130C, 0]).toOption = some (.dmul 1 2 3) := by decide
/-- Worked encoding of chapter 14. -/
theorem test_decode_mstrm :
    (decode [0x00060351, 0x00102001, 0]).toOption = some (.mstrm 6 { noff := 0, koff := 0, count := 1, row0 := 2, tb := 0, ta := 1 }) := by decide

/-- An op that no table lists, len 11, a length that is not the op's, a must-be-zero field, the elect bit and an unassigned fn are refused by name. -/
theorem test_refused :
    decode [0x00000000, 0] = .error .opcode ∧ decode [0x00000007, 0] = .error .length ∧ decode [0x00000005, 0, 0] = .error .wrongLen ∧
    decode [0x00000024, 1] = .error .mustBeZero ∧ decode [0x00000424, 0] = .error .electBit ∧ decode [0x00000824, 0] = .error .badFn :=
  ⟨rfl, rfl, rfl, rfl, rfl, rfl⟩

/-! ### WellFormed: a term that each check refuses -/

/-- A plain form M. -/
def mf : MForm := { zx := false, size := .b, order := .rlx, scope := .core, disp := 0 }
/-- A plain form V of a type. -/
def vf (t : ElemType) : VForm := { imm := 0, aux := 0, sat := false, rnd := .rne, type := t, mask := 0 }
/-- A form C without a barrier. -/
def cf : CForm := { sstr := 0, dstr := 0, yf := 0, xf := 0, scope := .core, bph := 0, bv := false, boff := 0 }
/-- A plain form T. -/
def tf : TForm := { noff := 0, koff := 0, count := 1, row0 := 0, tb := 0, ta := 0 }

/-- Integer limits: a field beyond bit 63, a shift immediate beyond 6 bits. -/
theorem test_ill_integer :
    (Instr.ext false 1 2 true 1 63).wf = false ∧ (Instr.ins false 1 2 63 1).wf = false ∧ (Instr.shli false 1 2 64).wf = false ∧
    (Instr.shri false 1 2 64).wf = false ∧ (Instr.sari false 1 2 64).wf = false ∧ (Instr.rori false 1 2 64).wf = false := by decide

/-- Memory limits: zx with size d, the order codes, an odd pair, a store with zx, the bit forms, and the size, zx and order of the plain rows. -/
theorem test_ill_memory :
    (Instr.ld false 2 3 { mf with size := .d, zx := true }).wf = false ∧ (Instr.ld false 2 3 { mf with order := .rel }).wf = false ∧
    (Instr.ld false 3 3 { mf with size := .q }).wf = false ∧ (Instr.st false 2 3 { mf with zx := true }).wf = false ∧
    (Instr.st false 2 3 { mf with order := .acq }).wf = false ∧ (Instr.st false 2 3 { mf with size := .q }).wf = false ∧
    (Instr.ldx false 3 2 2 { mf with size := .q }).wf = false ∧ (Instr.stx false 2 2 3 { mf with size := .q }).wf = false ∧
    (Instr.bld false 2 3 4 { mf with size := .h }).wf = false ∧ (Instr.bld false 2 3 4 { mf with disp := 0x00400 }).wf = false ∧
    (Instr.bst false 2 3 4 { mf with disp := 0x40000 }).wf = false ∧ (Instr.bst false 2 3 4 { mf with disp := 0x00020 }).wf = false ∧
    (Instr.pf 2 { mf with size := .h }).wf = false ∧ (Instr.cwb 2 { mf with order := .rel }).wf = false ∧
    (Instr.cinv 2 { mf with size := .d }).wf = false := by decide

/-- Atomics and barriers: sizes by operation, the pairs of CAS, the orders of RED, the plain rows, and the levels of NBAR. -/
theorem test_ill_atomics :
    (Instr.amo false .add 2 3 4 { mf with size := .h }).wf = false ∧ (Instr.amo false .faddF32 2 3 4 { mf with size := .d }).wf = false ∧
    (Instr.amo false .add 2 3 4 { mf with size := .d, zx := true }).wf = false ∧ (Instr.cas false 2 3 4 6 { mf with size := .h }).wf = false ∧
    (Instr.cas false 3 3 4 6 { mf with size := .q }).wf = false ∧ (Instr.cas false 2 3 5 6 { mf with size := .q }).wf = false ∧
    (Instr.cas false 2 3 4 7 { mf with size := .q }).wf = false ∧ (Instr.red false .faddBf16 3 4 { mf with size := .w }).wf = false ∧
    (Instr.red false .add 3 4 { mf with size := .w, order := .acq }).wf = false ∧ (Instr.binit 3 4 { mf with size := .h }).wf = false ∧
    (Instr.barr 3 4 { mf with order := .rel }).wf = false ∧ (Instr.bexp 3 4 { mf with size := .h }).wf = false ∧
    (Instr.bwait 3 4 5 { mf with size := .h }).wf = false ∧ (Instr.btest 3 4 5 { mf with size := .h }).wf = false ∧
    (Instr.arm 3 4 5 { mf with size := .h }).wf = false ∧ (Instr.nbar 3 .core 1).wf = false := by decide

/-- Copies, feeds and tasks: barrier fields without BV, and the fields that each row leaves zero or sets. -/
theorem test_ill_copies :
    (Instr.cpy 2 3 4 5 { cf with boff := 1 }).wf = false ∧ (Instr.cpy 2 3 4 5 { cf with xf := 1 }).wf = false ∧
    (Instr.cpy2 2 3 4 5 cf).wf = false ∧ (Instr.cpym 2 3 4 5 cf).wf = false ∧ (Instr.cpyq 2 3 4 5 { cf with yf := 1 }).wf = false ∧
    (Instr.isub 2 3 4 5 { cf with xf := 1 }).wf = false ∧ (Instr.osub 2 3 4 5 { cf with xf := 1, yf := 1, dstr := 0x800 }).wf = false ∧
    (Instr.taskr 2 3 4 5 { cf with dstr := 1 }).wf = false ∧ (Instr.join 2 { mf with zx := true }).wf = false ∧
    (Instr.jdec 2 { mf with size := .h }).wf = false := by decide

/-- Channels: registers that must differ. -/
theorem test_ill_channels :
    (Instr.chan 2 3 2 0 0).wf = false ∧ (Instr.snd 2 2 3).wf = false ∧ (Instr.sndb 2 2 3).wf = false ∧ (Instr.sndj 2 2 3).wf = false ∧
    (Instr.rcv 2 3 2 4).wf = false ∧ (Instr.rcv 2 3 3 4).wf = false ∧ (Instr.trcv 2 2 3 4).wf = false := by decide

/-- Vector instructions: types, immediates, sat and the fixed fields. -/
theorem test_ill_vector :
    (Instr.vld false 1 2 { vf .i32 with aux := 1 }).wf = false ∧ (Instr.vldRing false 1 2 (vf .i32)).wf = false ∧
    (Instr.vst 2 1 { vf .i32 with sat := true }).wf = false ∧ (Instr.vstRing 2 1 { vf .i32 with aux := 8, imm := 0x100 }).wf = false ∧
    (Instr.vldg false 1 2 3 { vf .i32 with aux := 4 }).wf = false ∧ (Instr.vsts 2 1 3 { vf .i32 with aux := 8 }).wf = false ∧
    (Instr.vadd 1 2 3 (vf .f32)).wf = false ∧ (Instr.vadd 1 2 3 { vf .i32 with aux := 1 }).wf = false ∧
    (Instr.vand 1 2 3 { vf .i32 with sat := true }).wf = false ∧ (Instr.vfadd 1 2 3 (vf .i32)).wf = false ∧
    (Instr.vfma 1 2 3 4 { vf .f32 with imm := 1 }).wf = false ∧ (Instr.vcvt 1 2 { vf .f32 with aux := 3 }).wf = false ∧
    (Instr.vcmpCc .ltN 1 2 3 (vf .f32)).wf = false ∧ (Instr.vsel 1 2 3 1 (vf .i8)).wf = false ∧ (Instr.vperm 1 2 3 (vf .f32)).wf = false ∧
    (Instr.vbc 1 2 (vf .i16)).wf = false ∧ (Instr.vmvgToG false 1 2 { vf .i32 with aux := 1 }).wf = false ∧
    (Instr.vmvgToV false 1 2 (vf .i32)).wf = false ∧ (Instr.vred false .and 1 2 (vf .f32)).wf = false ∧
    (Instr.vhad 1 2 3 4 (vf .f16)).wf = false ∧ (Instr.qnt 1 2 3 (vf .f32)).wf = false := by decide

/-- Distribution and truss instructions: the fixed fields. -/
theorem test_ill_truss :
    (Instr.dfrom 1 2 3 (vf .f32)).wf = false ∧ (Instr.dld false 1 2 3 (vf .i32)).wf = false ∧ (Instr.dst 2 1 { vf .f32 with aux := 1 }).wf = false ∧
    (Instr.dmom false 1 2 (vf .f32)).wf = false ∧ (Instr.dqnt false 1 2 { vf .f32 with imm := 0x8001 }).wf = false ∧
    (Instr.lsta 1 { tf with count := 0x10 }).wf = false ∧ (Instr.mstrm 1 { tf with tb := 1 }).wf = false ∧
    (Instr.mstrmRing 1 2 { tf with noff := 1 }).wf = false ∧ (Instr.mout 1 true { tf with tb := 1 }).wf = false ∧
    (Instr.moutRing 1 2 true { tf with noff := 1 }).wf = false ∧ (Instr.mzero 1 { tf with koff := 1 }).wf = false := by decide

/-! ### States that meet the hypotheses of the statements -/

/-- A strand without history, its registers zero. -/
def strand : Slot := { Slot.vacant with occupied := true, sid := 1, pc := 0x1000, entered := false }
/-- Partition 0: quad 0, with core c as VCN c. -/
def part0 : Sys2Proof.Machine.Part := { Sys2Proof.Machine.Part.none with exists_ := true, quads := [0], vcnMap := [(0, 0), (1, 1), (2, 2), (3, 3)] }
/-- Core c of quad 0, out of reset, with slots. -/
def core0 (c : Nat) (xs : Map Slot) : Core := { Core.off with up := true, vcn := some c, framing := 2 ^ 20, slots := xs }
/-- The machine whose core 0 has the strand `x` in slot `k`, which issues. -/
def machine (k : Nat) (x : Slot) : State :=
  { State.reset with
    serial := 9, core := 0, slot := k, sys := { Sys.off with powered := true, stage := 2 }, parts := [(0, part0)]
    dies := [(0, { Die.empty with regions := [(0, placedRegion)] })]
    cores := [(0, core0 0 [(k, x)]), (1, core0 1 []), (2, core0 2 []), (3, core0 3 [])] }
/-- A user strand. -/
def user : State := machine 3 strand
/-- The supervisor. -/
def super : State := machine 15 strand
/-- A register of the issuing strand is set. -/
def withReg (s : State) (r : GReg) (v : Word) : State := s.modCur fun x => x.setG r v
/-- The issuing strand is the elected member of a gang. -/
def ganged (s : State) : State := s.modCur fun x => { x with status := 0x18000 }
/-- A REP block of one instruction is in progress, which reads no general register. -/
def repeating (s : State) : State := s.modCur fun x => { x with reps := 0x8000000000000000, block := [.vadd 1 2 3 (vf .i32)] }

theorem ready_of {s : State} {ahead : Bool} {rs ds : List GReg} (hp : s.cur.pend = 0) (ht : s.cur.tags = 0) (hr : s.cur.inRep = false) :
    Ready s false ahead rs ds :=
  ⟨fun r _ => by simp [hp], fun r _ => by simp [ht], fun h => by simp [hr] at h, fun h => by simp at h⟩

/-! ### Witnesses: states and operands that meet the hypotheses of each statement, clause by clause, at a value where the clause begins -/

/-- Two registers of a strand. -/
def two (s : State) (a b : Word) : State := withReg (withReg s 4 a) 6 b
/-- The issuing strand, changed. -/
def own (f : Slot → Slot) (s : State) : State := s.modCur f
/-- Bytes at an offset of core 0's local store. -/
def bytesAt (off n : Nat) (s : State) : State := s.storeBytes (2 ^ 52 + off) ((List.range n).map fun i => BitVec.ofNat 8 (37 * i + 200))
/-- The strand stands in its first delay slot. -/
def inSlot : State := own (fun x => { x with status := 4, slotPos := 1, xtgt := 0x44 }) user
/-- The supervisor, with XSEL, and a user strand in slot 3. -/
def watching (k : BitVec 4) (x : Slot) : State := (super.modSlot 0 3 fun _ => x).modCore 0 fun c => { c with xsel := k }

theorem ready_elect {s : State} {ahead : Bool} {rs ds : List GReg} (hp : s.cur.pend = 0) (ht : s.cur.tags = 0) (hr : s.cur.inRep = false)
    (he : Elected s) : Ready s true ahead rs ds :=
  ⟨fun r _ => by simp [hp], fun r _ => by simp [ht], fun h => by simp [hr] at h, fun _ => he⟩

theorem ready_ahead {s : State} {rs ds : List GReg} (hp : s.cur.pend = 0) (ht : s.cur.tags = 0) (hk : s.cur.block ≠ []) (ha : s.cur.aheadN < 16)
    (hb : blockReads s.cur.block = []) : Ready s false true rs ds :=
  ⟨fun r _ => by simp [hp], fun r _ => by simp [ht], fun _ => ⟨rfl, hk, ha, fun r _ => by simp [hb]⟩, fun h => by simp at h⟩

theorem mayJump_of {s : State} {rs ds : List GReg} (h : Ready s false true rs ds) (hn : NoSlot s) : MayJump s rs ds := ⟨h.1, h.2.1, hn, h.2.2.1⟩

theorem elected_ganged : Elected (ganged user) := by unfold Elected NoSlot; decide

theorem ready_user {ahead : Bool} {rs ds : List GReg} : Ready user false ahead rs ds := ready_of (by decide) (by decide) (by decide)
theorem ready_super {ahead : Bool} {rs ds : List GReg} : Ready super false ahead rs ds := ready_of (by decide) (by decide) (by decide)
theorem ready_ganged {ahead : Bool} {rs ds : List GReg} : Ready (ganged user) true ahead rs ds :=
  ready_elect (by decide) (by decide) (by decide) elected_ganged
theorem ready_repeating {rs ds : List GReg} : Ready (repeating user) false true rs ds :=
  ready_ahead (by decide) (by decide) (by decide) (by decide) (by decide)
theorem noSlot_user : NoSlot user := by unfold NoSlot; decide

/-- With and without a REP block, elected, and with a field that ends at bit 63. -/
theorem witness_IntegerResult :
    Ready user false true [4, 6] [5] ∧ Ready (repeating user) false true [4, 6, 7] [5] ∧ Ready (ganged user) true true [4, 6] [5] ∧
    Ready user false true [4] [5] ∧ (0 : BitVec 6).toNat + (63 : BitVec 6).toNat + 1 ≤ 64 :=
  ⟨ready_user, ready_repeating, ready_ganged, ready_user, by decide⟩

/-- A strand at an aligned place. -/
theorem witness_AdvanceOverDelaySlots : strand.ds = 0 := by decide

/-- Each transfer, ahead of a REP block too. -/
theorem witness_ControlTransferResult : MayJump user [] [] ∧ MayJump user [4, 6] [] ∧ MayJump (repeating user) [4] [5] :=
  ⟨mayJump_of ready_user noSlot_user, mayJump_of ready_user noSlot_user, mayJump_of ready_repeating (by unfold NoSlot; decide)⟩

/-- Both delay slots. -/
theorem witness_DelaySlotRestriction :
    (inSlot.cur.slotPos ≠ 0 ∧ inSlot.cur.inRep = false ∧ inSlot.cur.pend = 0) ∧
    (own (fun x => { x with slotPos := 2 }) user).cur.slotPos ≠ 0 := by decide

/-- A trap of a user strand, of the last user slot, and of the supervisor. -/
theorem witness_TrapEntry : user.slot < 15 ∧ (machine 14 strand).slot < 15 ∧ super.slot = 15 := by decide

theorem witness_TrapInstructions :
    NoSlot user ∧ user.cur.inRep = false ∧ user.cur.osc = 0 ∧ NoSlot super ∧ super.cur.inRep = false ∧
    NoSlot (own (fun x => { x with osc := 1 }) user) ∧ (own (fun x => { x with osc := 1 }) user).cur.inRep = false ∧
    (own (fun x => { x with osc := 1 }) user).cur.osc ≠ 0 := by
  unfold NoSlot; decide

/-- The strand of slot 3 suspended, and not; the supervisor's own trap, and none. -/
theorem witness_TrapReturn :
    (NoSlot user ∧ user.cur.inRep = false ∧ user.slot < 15) ∧
    (let s := watching 3 { strand with trapped := true, xpc := 0x40 }
     NoSlot s ∧ s.cur.inRep = false ∧ s.slot = 15 ∧ (s.coreAt 0).xsel.toNat = 3 ∧ (s.slotAt 0 3).occupied = true ∧ (s.slotAt 0 3).trapped = true) ∧
    (let s := watching 3 strand
     NoSlot s ∧ s.slot = 15 ∧ ¬ ((s.slotAt 0 3).occupied = true ∧ (s.slotAt 0 3).trapped = true)) ∧
    (let s := super.modCore 0 fun c => { c with inTrap := true, xsel := 15 }
     NoSlot s ∧ s.slot = 15 ∧ (s.coreAt 0).xsel.toNat = 15 ∧ (s.coreAt 0).inTrap = true) ∧
    (let s := super.modCore 0 fun c => { c with xsel := 15 }
     NoSlot s ∧ s.slot = 15 ∧ (s.coreAt 0).xsel.toNat = 15 ∧ (s.coreAt 0).inTrap = false) := by
  unfold NoSlot; decide

theorem witness_StrandControlResult :
    Ready (ganged user) true true [] [] ∧ Ready user false true [] [] ∧ Ready user false false [] [] ∧ user.cur.osc = 0 :=
  ⟨ready_ganged, ready_user, ready_user, by decide⟩

/-- A live launch of partition 0, the strand's own. -/
def launch5 : Launch where
  phase := .live
  ticket := 7
  ticketed := true
  prio := 1
  block := 0x100
  entry := 0x4000
  cores := 1
  slots := 1
  tolerant := true
  mflag := false
  asid := 0
  parent := none
  lnum := 5
  numbered := true
  tag := 3
  pending := 1
  failed := 0
  outcome := none
  vcns := [0]
  placed := 1
  ops := 0
  bytes := 0
  call := none
/-- The issuing strand belongs to the launch. -/
def inLaunch (s : State) : State :=
  own (fun x => { x with member := true, lnum := 5 }) (s.modPart 0 fun p => { p with launches := [launch5], vst := [(3, 0x60000005)] })
/-- A record of a trap queue. -/
def record : TrapRecord := { w0 := 3, w1 := 4 }
/-- The supervisor of partition 0 with a record and a call at their heads. -/
def serving : State :=
  ((watching 3 { strand with trapped := true }).modCore 0 fun c => { c with trapQ := [record] }).modPart 0 fun p => { p with callQ := [2] }

/-- The first and the last number of each range, read and refused, in the slots that may and may not. -/
theorem witness_RegisterReadAndRefusal :
    (Ready user false false [] [5] ∧ Ready (ganged user) true false [] [5]) ∧
    (Selects user 3 ∧ Selects serving 3 ∧ serving.slot = 15 ∧ Selects (watching 15 strand) 15) ∧ (∀ k, ¬ Selects (watching 3 strand) k) ∧
    ((user.partAt user.myPart).replay = .off ∧ user.cur.member = false) ∧
    ((inLaunch user).cur.member = true ∧ ((inLaunch user).partAt 0).liveLaunch 5 = some launch5) ∧
    ((serving.coreAt 0).trapQ = record :: [] ∧ super.cur.pend = 0 ∧ (super.coreAt 0).trapQ = []) ∧ (serving.callQ 1 = 2 :: [] ∧ super.callQ 1 = []) ∧
    (¬ Assigned 0x00F ∧ ¬ Assigned 0x843 ∧ ¬ Assigned 0xFFF ∧ Assigned 0x88E) ∧ (Assigned 0x004 ∧ Assigned 0x840 ∧ user.slot ≠ 15) ∧
    (Ready user false false [4] [] ∧ Assigned 0x000 ∧ Ready serving false false [4] []) := by
  refine ⟨⟨ready_user, ready_ganged⟩, ?_, ?_, by decide, by decide, by decide, by decide, ?_, ?_, ready_user, ?_, ready_of (by decide) (by decide) (by decide)⟩
  · refine ⟨.inl (by decide), .inr (by decide), by decide, .inr (by decide)⟩
  · rintro k (⟨h, -⟩ | ⟨-, rfl, h⟩)
    · exact absurd (by decide) h
    · revert h; decide
  all_goals unfold Assigned; decide

/-- Each value at the bounds of its register. -/
theorem witness_RegisterWrite :
    (Ready user false false [4] [] ∧ Ready super false false [4] [] ∧ super.slot = 15) ∧
    (reg (withReg user 4 3) 4).toNat < 4 ∧ (reg (withReg user 4 0x810) 4 &&& 0xFF0 = 0x810 ∧ (0x810 : Word).toNat / 2 ^ 9 ≤ 4) ∧
    ((0x8000000000000000 : Word).toNat % 2 ^ 59 = 0 ∧ (0x8000000000000000 : Word).toNat / 2 ^ 59 ≤ 16) ∧
    ((0x1FFFFFFFFFFFFFC : Word).toNat < 2 ^ 57 ∧ (0x1FFFFFFFFFFFFFC : Word).toNat % 4 = 0) ∧
    ((0x80000000FFFFFFFF : Word) &&& 0x7FFFFFFF00000000) = 0 ∧
    ((0xFFFFFFFFFF000 : Word).toNat < 2 ^ 52 ∧ (0xFFFFFFFFFF000 : Word).toNat % 2 ^ 12 = 0) ∧ (16 ≤ (24 : Word).toNat ∧ (24 : Word).toNat ≤ 24) ∧
    (Selects (watching 3 { strand with trapped := true }) 3 ∧ Selects (watching 15 strand) 15) ∧
    (let v : Word := 0xFFFFFFE000000000
     v.toNat % 2 ^ 37 = 0 ∧ (v >>> 40).toNat % 2 ^ 8 ≤ (v >>> 52).toNat % 2 ^ 8 ∧ (v >>> 37).toNat % 2 ^ 3 ≤ (v >>> 60).toNat % 2 ^ 3) := by
  exact ⟨⟨ready_user, ready_super, by decide⟩, by decide, by decide, by decide, by decide, by decide, by decide, by decide,
    ⟨.inr (by decide), .inr (by decide)⟩, by decide⟩

set_option maxRecDepth 100000

/-- The supervisor, with a value in g4. -/
def sup (v : Word) : State := withReg super 4 v
/-- The supervisor and a user strand in slot 3. -/
def watched (v : Word) (x : Slot) : State := withReg (watching 3 x) 4 v
/-- A frame of a call that awaits its reply at 0x9000. -/
def callFrame : Frame := { bytes := List.replicate 16 0 ++ [0, 0x90], popped := true, replied := false, peer := none }
/-- Calls in frame slot 2 of partition 0. -/
def called (v : Word) : State := (sup v).modPart 0 fun p => { p with frames := [(2, callFrame)], callQ := [2] }

/-- Registers with behaviour of their own. -/
theorem witness_ActionWrites_control :
    (Ready (sup 0) false false [4] [] ∧ (sup 0).slot = 15) ∧
    (let s := { sup 255 with sys := { Sys.off with ast := [(255, 1)] } }
     let e := s.sys.ast.get 0 (reg s 4).toNat
     (reg s 4).toNat < 256 ∧ e.getLsbD 0 = true ∧ e.toNat / 4 % 32 = s.myPart) ∧
    (0x7FFF7FFF0 : Word) &&& 0x7FFF7FFF0 = 0x7FFF7FFF0 ∧ ((sup 0).coreAt 0).held = [] ∧ ((super.modCore 0 fun c => { c with held := [record] }).coreAt 0).held ≠ [] ∧
    (let s := watched 0x13 strand
     let v := reg s 4
     v &&& 0x1F = v ∧ v.toNat % 16 ≠ 15 ∧ v.getLsbD 4 = true ∧ (s.slotAt 0 3).occupied = true ∧ (s.slotAt 0 3).stopped = false) ∧
    (let s := watched 0x13 { strand with stopped := true }
     (s.slotAt 0 ((reg s 4).toNat % 16)).stopped = true) ∧
    (let s := watched 0x03 { strand with stopped := true }
     let v := reg s 4
     v &&& 0x1F = v ∧ v.getLsbD 4 = false ∧ (s.slotAt 0 3).stopped = true ∧ ((watched 3 strand).slotAt 0 3).stopped = false) ∧
    (let s := watched 15 { strand with trapped := true, g := Vector.replicate 16 0x1000005 }
     (reg s 4).toNat < 16 ∧ Selects s 3 ∧ (s.slotAt 0 3).g[15]!.toNat / 2 ^ 24 % 4 ≠ 0 ∧ (s.slotAt 0 3).g[15]!.toNat / 2 ^ 26 % 64 = 0) ∧
    (let s := watched 0 { strand with trapped := true, g := Vector.replicate 16 0x5000005 }
     Selects s 3 ∧ (s.slotAt 0 3).g[0]!.toNat / 2 ^ 26 % 64 ≠ 0) ∧
    (let s := watched 0x103 { strand with trapped := true }
     let v := reg s 4
     v &&& 0x10F = v ∧ v.toNat % 16 ≠ 15 ∧ s.cur.op = .idle ∧ (s.slotAt 0 3).occupied = true ∧ (s.slotAt 0 3).trapped = true) ∧
    (let s := watched 0x10E strand
     reg s 4 &&& 0x10F = reg s 4 ∧ s.cur.op = .idle ∧ (s.slotAt 0 14).occupied = false) := by
  unfold Selects
  refine ⟨⟨ready_of ?_ ?_ ?_, ?_⟩, ?_, ?_, ?_, ?_, ?_, ?_, ?_, ⟨?_, .inr ?_, ?_⟩, ⟨.inr ?_, ?_⟩, ?_, ?_⟩ <;> decide

/-- The supervisor of a partition that owns ASIDs 0 and 255. -/
def named_ : State := { super with sys := { Sys.off with ast := [(0, 1), (255, 1)] } }

theorem except_ok {ε α : Type} {x : Except ε α} (h : x.toOption.isSome = true) : ∃ a, x = .ok a := by
  cases x with
  | ok a => exact ⟨a, rfl⟩
  | error e => cases h

theorem replies_called :
    ((begun (called 0x200000100)).replyFrame 1 2 (Memory.readList (called 0x200000100).mem (lsKey 0 0x100) 32)).toOption.isSome = true := by
  decide +kernel

/-- Registers of the partition, of the directory and of the call area, and the forms of INVD. -/
theorem witness_ActionWrites_partition :
    (let s := sup 0xFFFFFFFFFF800
     (reg s 4).toNat < 2 ^ 52 ∧ (reg s 4).toNat % 2 ^ 11 = 0 ∧ (s.partAt 0).shos.getLsbD 5 = false ∧ (s.partAt 0).shadowIdle = true) ∧
    ((super.modPart 0 fun p => { p with shos := 0x24 }).partAt 0).shos.getLsbD 5 = true ∧
    ((super.modPart 0 fun p => { p with vst := [(3, 0x60000005)] }).partAt 0).shadowIdle = false ∧
    ((51 : Word).toNat < 64 ∧ 4 ≤ (51 : Word).toNat % 32 ∧ (51 : Word).toNat % 32 ≤ 19 ∧ (super.partAt super.myPart).shob.toNat % 2 ^ (51 % 32 + 11) = 0 ∧
      (super.partAt super.myPart).shadowIdle = true ∧ (4 : Word).toNat % 32 = 4 ∧ (4 : Word).getLsbD 5 = false) ∧
    ((0xFFFFFFFF00001 : Word).toNat < 2 ^ 52 ∧ (0xFFFFFFFF00001 : Word).toNat / 2 % 2 ^ 19 = 0 ∧ super.savingPart 0 = false ∧
      (super.modCore 0 fun c => { c with saving := some 1 }).savingPart 0 = true) ∧
    (let s := sup 0x0050000000000040
     (reg s 4).toNat % 64 = 0 ∧ s.homeQuadOf ((reg s 4).toNat / 2 ^ 6 % 2 ^ 46 * 64) = s.core / 4) ∧
    (let s := sup 0x40
     (reg s 4).toNat < 2 ^ 52 ∧ (reg s 4).toNat % 64 = 0 ∧ s.homeQuadOf ((reg s 4).toNat / 2 ^ 6 % 2 ^ 46 * 64) = s.core / 4) ∧
    (let s := (sup 0x41).modDie 0 fun d => { d with dir := [(1, 0x20000000000000)] }
     (reg s 4).toNat < 2 ^ 52 ∧ (reg s 4).toNat % 64 = 1 ∧ s.homeQuadOf ((reg s 4).toNat / 2 ^ 6 % 2 ^ 46 * 64) = s.core / 4 ∧
       (s.dirAt ((reg s 4).toNat / 2 ^ 6 % 2 ^ 46)).getLsbD 53 = true) ∧
    ((0x7FFC0 : Word).toNat < 2 ^ 19 ∧ (0x7FFC0 : Word).toNat % 64 = 0 ∧ super.cur.osc = 0) ∧
    (let s := called 0x200000100
     let v := reg s 4
     v = BitVec.ofNat 64 (2 * 2 ^ 32 + v.toNat % 2 ^ 19) ∧ v.toNat % 32 = 0 ∧ s.cur.osc = 0 ∧ (s.frames 1).find 2 = some callFrame ∧
       callFrame.replied = false ∧ hdrReply callFrame.bytes ≠ 0 ∧
       ∃ t, (begun s).replyFrame 1 2 (Memory.readList s.mem (lsKey 0 0x100) 32) = .ok t) ∧
    ([(0x0 : Word), 0x1E0001, 0xFF02, 0x3].all fun v => decide (
      v.toNat < 2 ^ 22 ∧ v.toNat / 4 % 64 = 0 ∧ (v.toNat % 4 = 1 → v.toNat / 2 ^ 16 % 64 ≤ 30) ∧
        (v.toNat % 4 = 3 → v.toNat / 2 ^ 8 % 2 ^ 8 = 0) ∧
        (v.toNat % 4 ≠ 3 → (named_.sys.ast.get 0 (BitVec.ofNat 8 (v.toNat / 2 ^ 8)).toNat).toNat / 4 % 32 = named_.myPart) ∧
        named_.cur.op = .idle)) = true ∧
    (own (fun x => { x with op := .done 0 }) super).cur.op = .done 0 := by
  and_intros
  all_goals first
    | decide +kernel
    | exact except_ok replies_called

/-- A strand with no occurrence due is held back by none of its reductions, -/
theorem unreduced_of {s : State} {o : Order} (h : s.events = []) : Unreduced s o := fun r m => by rw [h] at m; cases m
/-- and its access starts where none is in progress. -/
theorem unheld_of {s : State} {o : Order} (h : s.events = []) (ha : AtStart s) : Unheld s o := ⟨ha, unreduced_of h⟩

/-- Every size at the ends of the local store: byte 0, across a line, at the end of the program range, and the supervisor's last bytes. -/
theorem witness_LocalLoadStoreResult :
    (Ready user false false [4, 6] [5, 6] ∧ Ready (ganged user) true false [4, 6] [5, 6]) ∧
    OwnStore (two user 0x7E0000000000 0) (address (two user 0x7E0000000000 0) 4 { mf with size := .q }) 0 16 ∧
    OwnStore (two user 0x7E000006FFF8 0) (address (two user 0x7E000006FFF8 0) 4 { mf with size := .q, disp := 0xFFFF8 }) 0x6FFF0 16 ∧
    OwnStore (two super 0x7E000007FFFF 0) (address (two super 0x7E000007FFFF 0) 4 mf) 0x7FFFF 1 ∧
    OwnStore (two user 0x7E000000003E 0xFFFFFFFFFFFFFFFF) (indexed (two user 0x7E000000003E 0xFFFFFFFFFFFFFFFF) 4 6 { mf with size := .d, disp := 9 }) 0x3F 8 ∧
    InOrder user .rlx ∧ InOrder user .rel ∧ InOrder (own (fun x => { x with osc := 3 }) user) .acq := by
  refine ⟨⟨ready_user, ready_ganged⟩, ?_, ?_, ?_, ?_, ?_⟩
  all_goals first
    | (unfold OwnStore; decide)
    | exact ⟨⟨by unfold Released; decide, unheld_of rfl ⟨rfl, rfl⟩⟩, ⟨by unfold Released; decide, unheld_of rfl ⟨rfl, rfl⟩⟩, by unfold Released; decide,
        unheld_of rfl ⟨rfl, rfl⟩⟩

/-- Aligned and misaligned atomics, and bits at the ends of their words and planes. -/
theorem witness_LocalAtomicAndBitResult :
    (let s := two user 0x7E0000000040 5
     Ready s false false [4, 6] [5] ∧ (∀ z ∈ [Size.b, .h, .w, .d], (address s 4 { mf with size := z }).toNat % z.bytes = 0) ∧
     OwnStore s (address s 4 { mf with size := .d }) 0x40 8 ∧ InOrder s .ar ∧ s.cur.osc ≠ 65535 ∧ (s.partAt s.myPart).replay ≠ .replay) ∧
    (let s := two user 0x7E0000000040 5
     Ready s false false (4 :: sizeRegs { mf with size := .q } 6 ++ sizeRegs { mf with size := .q } 8) (sizeRegs { mf with size := .q } 10) ∧
     (address s 4 { mf with size := .q }).toNat % 16 = 0 ∧ OwnStore s (address s 4 { mf with size := .q }) 0x40 16) ∧
    (address (two user 0x7E0000000041 5) 4 { mf with size := .h }).toNat % 2 ≠ 0 ∧
    (let s := two user 0x7E0000000000 31
     Ready s false false [4, 6, 7] [5] ∧ OwnStore s (BitVec.ofNat 64 ((8 * (reg s 4).toNat + (reg s 6).toNat) % 2 ^ 67 / 32 * 4)) 0 (4 * ((31 + 32 + 31) / 32))) ∧
    (let s := two user 0x7E0000000000 64
     ¬ ((0x0001F : BitVec 20).toNat / 2 ^ 18 % 4 = 1) ∧ (0x403FF : BitVec 20).toNat / 2 ^ 18 % 4 = 1 ∧
     OwnStore s (reg s 4 + BitVec.ofNat 64 ((reg s 6).toNat / 64 * (8 * 32))) 256 (8 * 32)) := by
  refine ⟨⟨ready_of rfl rfl rfl, by decide, ?_, ⟨by unfold Released; decide, unheld_of rfl ⟨rfl, rfl⟩⟩, by decide, by decide⟩, ⟨ready_of rfl rfl rfl, by decide, ?_⟩, by decide, ⟨ready_of rfl rfl rfl, ?_⟩, ⟨by decide, by decide, ?_⟩⟩
  all_goals (unfold OwnStore; decide)

/-- A cached translation of a page of physical memory. -/
def page (va leaf : Nat) : TlbEntry := { asid := 0, part := 0, page := va / 4096, log2 := 12, leaf := BitVec.ofNat 64 (0x20 * 2 ^ 13 + leaf) }
/-- The strand reaches 0x20000 at 0x5000, and nothing else. -/
def paged (a : Word) (leaf : Nat) : State :=
  withReg ({ user with sys := { user.sys with ast := [(0, 1)] } }.modCore 0 fun c => { c with l1tlb := [page 0x5000 leaf] }) 4 a

theorem pairs {α β : Type} {l : List (α × β)} {P : α → β → Prop} (h : ∀ e ∈ l, P e.1 e.2) : ∀ a b, (a, b) ∈ l → P a b := fun _ _ m => h _ m

/-- A home that has nothing of a line or its granule, and room for a tag. -/
theorem homeReady_of {s : State} {line : Nat}
    (h : let die := s.dieAt (dieOf (line * 64))
      (die.tags.filter fun t => s.sameSet t.gran (line / 32)).length + (die.shadows.filter fun w => s.sameSet w.gran (line / 32)).length < 12 ∧
        s.verOf (line / 32) = Ver.none ∧ die.lists = [] ∧ s.dirAt line = 0 ∧ (∀ w ∈ die.shadows, w.gran ≠ line / 32) ∧
        ∀ e ∈ s.parts, (∀ w ∈ e.2.spills, w.gran ≠ line / 32) ∧ (s.partAt e.1).shos.getLsbD 5 = false) : HomeReady s line :=
  ⟨.inr h.1, h.2.1, h.2.2.1, h.2.2.2.1, h.2.2.2.2.1, pairs h.2.2.2.2.2⟩
/-- Caches with a free way of the line's set. -/
theorem cacheRoom_of {s : State} {core part line : Nat}
    (h : ((s.coreAt core).l1.filter fun e => e.1 % 2048 == line % 2048).length < 12 ∧
      ∃ w ∈ s.rdcWaysOf part (core / 256), ∀ e ∈ (s.dieAt (core / 256)).rdc, rdcSet e.1 = rdcSet line → e.2.way ≠ w) : CacheRoom s core part line :=
  ⟨h.1, .inr h.2⟩
theorem reachable_of {s : State} {va : Word} {n : Nat} {w : Bool} {pa : Nat} (t : TlbEntry) (hh : HomeReady s (pa / 64)) (hc : CacheRoom s s.core s.myPart (pa / 64))
    (hv : (va.toNat < 0x7E0000000000 ∧ va.toNat % 64 + n ≤ 64 ∧ 0 < n ∧ s.asidOwned s.me.asid s.myPart = true) ∧
      s.tlbFind s.core s.myPart s.me.asid va.toNat = some t ∧ (t.leaf.getLsbD (if w then 2 else 1) = true ∧ (w = true → t.leaf.getLsbD 11 = true)) ∧
      (t.leaf.toNat / 2 ^ 4 % 4 < 2 ∧ t.leaf.getLsbD 8 = false) ∧ (t.leaf.getLsbD 6 = true ∨ s.me.tag = 0) ∧
      6 ≤ t.log2 ∧ pa = t.leaf.toNat / 2 ^ 13 % 2 ^ 39 * 2 ^ 12 + va.toNat % 2 ^ t.log2 ∧ pa % 64 = va.toNat % 64)
    (hl : ∀ l, (s.coreAt s.core).l1.find (pa / 64) = some l → l.uo = false ∧ l.state ≠ .updateOnly) (ha : AtStart s)
    (hp : s.homeCheck s.myPart pa = .ok ∧ (s.quadAt (s.core / 4)).budget.get 0 (s.myPart * 8 + 0) = 0 ∧
      (s.quadAt (4 * s.homeQuadOf pa / 4)).budget.get 0 (s.myPart * 8 + 0) = 0 ∧ s.cur.osc = 0 ∧ s.cur.isMig = false) (he : s.events = []) :
    Reachable s va n w pa :=
  ⟨hv.1.1, hv.1.2.1, hv.1.2.2.1, hv.1.2.2.2, ⟨t, hv.2⟩, hp.1, hh, hc, hl, ha, hp.2.1, hp.2.2.1, hp.2.2.2.1, hp.2.2.2.2, fun _ m => by rw [he] at m; cases m⟩

/-- The last bytes of a line, for reading and for writing. -/
theorem witness_PhysicalLoadStoreResult :
    Ready (paged 0x5038 0xC0F) false false [4, 6] [5] ∧ Reachable (paged 0x5038 0xC0F) (address (paged 0x5038 0xC0F) 4 mf) 8 true 0x20038 ∧
    Reachable (paged 0x5000 0xC0F) (address (paged 0x5000 0xC0F) 4 mf) 16 false 0x20000 ∧
    Reachable (paged 0x503F 0xC0F) (address (paged 0x503F 0xC0F) 4 mf) 1 true 0x2003F :=
  ⟨ready_of rfl rfl rfl, reachable_of (page 0x5000 0xC0F) (homeReady_of (by decide +kernel)) (cacheRoom_of (by decide +kernel)) (by decide +kernel) (fun _ h => (by cases h)) ⟨rfl, rfl⟩
      (by decide +kernel) rfl,
    reachable_of (page 0x5000 0xC0F) (homeReady_of (by decide +kernel)) (cacheRoom_of (by decide +kernel)) (by decide +kernel) (fun _ h => (by cases h)) ⟨rfl, rfl⟩
      (by decide +kernel) rfl,
    reachable_of (page 0x5000 0xC0F) (homeReady_of (by decide +kernel)) (cacheRoom_of (by decide +kernel)) (by decide +kernel) (fun _ h => (by cases h)) ⟨rfl, rfl⟩
      (by decide +kernel) rfl⟩

/-- The first address above bit 56, a page without W, one of KIND 11, and the first byte beyond the program range. -/
theorem witness_AccessTraps :
    (∀ s ∈ [two user 0x200000000000000 0, paged 0x503F 0xC0B, paged 0x5000 0xC3F, two user 0x7E0000070000 0],
      s.cur.pend = 0 ∧ s.cur.tags = 0 ∧ s.cur.inRep = false ∧ s.cur.osc = 0 ∧ (address s 4 mf).toNat % 64 + 1 ≤ 64 ∧
        (s.partAt s.myPart).trOn = false ∧ s.slot < 15 ∧ s.events = []) ∧ (paged 0x5000 0xC3F).asidOwned 0 0 = true ∧
    2 ^ 57 ≤ (address (two user 0x200000000000000 0) 4 mf).toNat ∧
    (let s := paged 0x503F 0xC0B
     (address s 4 mf).toNat < 0x7E0000000000 ∧ s.tlbFind 0 0 0 0x503F = some (page 0x5000 0xC0B) ∧ (page 0x5000 0xC0B).leaf.getLsbD 11 = true ∧
       (page 0x5000 0xC0B).leaf.getLsbD 2 = false) ∧
    (let s := paged 0x5000 0xC3F
     s.tlbFind 0 0 0 0x5000 = some (page 0x5000 0xC3F) ∧ (page 0x5000 0xC3F).leaf.getLsbD 1 = true ∧ (page 0x5000 0xC3F).leaf.toNat / 2 ^ 4 % 4 = 3) ∧
    (address (two user 0x7E0000070000 0) 4 mf = BitVec.ofNat 64 (0x7E0000000000 + 0x70000) ∧ 0x70000 + 1 ≤ 2 ^ 19 ∧ 0x70000 < 0x70000 + 1) := by decide +kernel

/-- A line that a page of kind UO brought. -/
def uoLine : CacheLine where
  state := .exclusive
  uo := true
  vtag := 0
  valid := 15
  dirty := 5
  data := 0x123456789
  op := .add
  size := .w
  touch := 0
  part := 0
  sharers := []
  bcast := false
  way := 0
/-- Core 0 holds the line of 0x20000. -/
def holding : State := (paged 0x5000 0xC0F).modCore 0 fun c => { c with l1 := [(0x800, uoLine)] }

/-- What a resolution found is physical memory, whose line the core can give back. -/
def givenBack (ag : Agent) : Except Stop (Place × State) → Bool
  | .ok (.phys pa _, u) => (giveBack ag (pa / 64) u).toOption.isSome
  | _ => false
theorem ok_unit {r : Except Stop (Unit × State)} (h : r.toOption.isSome = true) : ∃ v, r = .ok ((), v) := by
  obtain ⟨⟨⟨⟩, v⟩, e⟩ := except_ok h
  exact ⟨v, e⟩
theorem givenBack_ok {ag : Agent} {r : Except Stop (Place × State)} (h : givenBack ag r = true) :
    ∃ pa leaf u v, giveBack ag (pa / 64) u = .ok ((), v) ∧ r = .ok (.phys pa leaf, u) := by
  cases r with
  | error e => cases h
  | ok p =>
    obtain ⟨pl, u⟩ := p
    cases pl with
    | phys pa leaf =>
      obtain ⟨v, e⟩ := ok_unit h
      exact ⟨_, _, _, v, e, rfl⟩
    | _ => cases h

theorem witness_LineOperationAndFenceResult :
    (Ready user false false [4] [] ∧ user.cur.occupied = true ∧ OwnStore (two user 0x7E000007FFFF 0) (address (two user 0x7E0000000000 0) 4 mf) 0 1 ∧
      user.cur.osc = 0 ∧ user.cur.pend = 0 ∧ (∀ x ∈ user.sys.transit, x.sid = user.cur.sid → x.landed = true) ∧
      (0xE : BitVec 4).getLsbD 0 = false ∧ (0xF : BitVec 4).getLsbD 0 = true ∧ Scope.pkg ≠ .core) ∧
    (let s := begun (paged 0x5000 0xC0F)
     (∃ pa leaf u v, giveBack s.me (pa / 64) u = .ok ((), v) ∧ resolve s.me .writeBack 0x5000 1 s = .ok (.phys pa leaf, u)) ∧
     (∃ pa leaf u v, giveBack s.me (pa / 64) u = .ok ((), v) ∧ resolve s.me .invalidate 0x5000 1 s = .ok (.phys pa leaf, u))) ∧
    (∃ u, giveBackAll (begun holding).me ((begun holding).dirtyUo 0) (begun holding) = .ok ((), u)) ∧ user.cur.inRep = false ∧
    (∀ l ∈ (user.coreAt 0).l1, l.2.uo = true → l.2.dirty = 0) ∧
    (MemOk holding ∧ (holding.coreAt 0).l1.find 0x800 = some uoLine ∧ uoLine.vtag = 0 ∧ uoLine.uo = true ∧ uoLine.state ≠ .updateOnly ∧
      HomeReady holding 0x800 ∧ 0 / 256 = dieOf (0x800 * 64)) := by
  refine ⟨⟨ready_user, by decide, by unfold OwnStore; decide, by decide, by decide, by decide, by decide, by decide, by decide⟩,
    ⟨givenBack_ok (by decide +kernel), givenBack_ok (by decide +kernel)⟩, ok_unit (by decide +kernel), by decide, by decide, ?_⟩
  exact ⟨by unfold MemOk; decide +kernel, by decide +kernel, by decide, by decide, by decide,
    ⟨.inr (by decide +kernel), by decide +kernel, by decide +kernel, by decide +kernel, fun _ h => (by cases h), pairs (by decide +kernel)⟩, by decide⟩

/-- A barrier object at 0x100 of a core's local store, its address in g4 and a second operand in g6. -/
def barrier (core phase pend reload ov : Nat) (count a b : Word) : State :=
  two ((user.store (2 ^ 52 + core * 2 ^ 19 + 0x100) 8 (phase + pend * 2 ^ 12 + reload * 2 ^ 28 + ov * 2 ^ 44)).store
    (2 ^ 52 + core * 2 ^ 19 + 0x108) 8 count.toNat) a b
theorem ready_barrier {core phase pend reload ov : Nat} {count a b : Word} {rs ds : List GReg}
    (hp : (barrier core phase pend reload ov count a b).cur.pend = 0) (ht : (barrier core phase pend reload ov count a b).cur.tags = 0)
    (hr : (barrier core phase pend reload ov count a b).cur.inRep = false) : Ready (barrier core phase pend reload ov count a b) false false rs ds :=
  ready_of hp ht hr

/-- The packets to another core's store pass where no router meters any. -/
theorem passes_far : Passes (barrier 1 1 0 1 0 5 0x7F0000080100 0xFFFFFFFFFFFFFFFB) 1 :=
  .inr (fun c h => by
    have : c = 0 ∨ c = 1 := h
    rcases this with rfl | rfl <;> exact ⟨by unfold Unmetered; decide, by decide⟩)

/-- By offset, through the alias and through a window; the last phase, counts at 0 and below, and the ends of what is past and to come. -/
theorem witness_BarrierResult :
    (let s := barrier 0 4095 1 65535 0 0 0x100 0x1FFFF
     MemOk s ∧ BarrierAt s (address s 4 mf) 0 0x100 ∧ Unattended s 0 0x100 ∧ Ready s false false [4, 6] [5] ∧ s.cur.osc = 0 ∧ Passes s 0 ∧ Unreduced s .rlx ∧ Unreduced s .acq ∧
       ObjectIs s 0 0x100 4095 1 65535 false 0 ∧ (reg s 6).toNat = 65535 + true.toNat * 2 ^ 16) ∧
    (let s := barrier 1 1 0 1 0 5 0x7F0000080100 0xFFFFFFFFFFFFFFFB
     BarrierAt s (address s 4 mf) 1 0x100 ∧ Passes s 1 ∧ ObjectIs s 1 0x100 1 0 1 false 5 ∧ 5 + reg s 6 = 0) ∧
    (let s := barrier 0 1 0 1 1 0xFFFFFFFFFFFFFFFB 0x7E0000000100 1
     BarrierAt s (address s 4 mf) 0 0x100 ∧ ObjectIs s 0 0x100 1 0 1 true 0xFFFFFFFFFFFFFFFB ∧ (0xFFFFFFFFFFFFFFFB + reg s 6).toInt < 0 ∧
       (0xFFFFFFFFFFFFFFFB : Word).toInt < 0) ∧
    (let s := barrier 0 1 2 1 0 5 0x100 (1 + 4096 - 2047)
     ObjectIs s 0 0x100 1 2 1 false 5 ∧ 1 < 2 ∧ (reg s 6).toNat < 4096 ∧ (1 + 4096 - (reg s 6).toNat) % 4096 = 2047) ∧
    (let s := barrier 0 1 1 1 0 5 0x100 1
     ObjectIs s 0 0x100 1 1 1 false 5 ∧ 0 < (5 : Word).toInt ∧ (1 + 4096 - (reg s 6).toNat) % 4096 = 0) ∧
    (let s := barrier 0 1 1 1 0 0xFFFFFFFFFFFFFFFF 0x100 1
     ObjectIs s 0 0x100 1 1 1 false 0xFFFFFFFFFFFFFFFF ∧ (0xFFFFFFFFFFFFFFFF : Word).toInt < 0) ∧
    (let s := withReg (barrier 0 4095 1 0 0 5 0x100 0x7FE) 7 0x6FFE0
     BarrierAt s (address s 4 mf) 0 0x100 ∧ ObjectIs s 0 0x100 4095 1 0 false 5 ∧ reg s 6 = BitVec.ofNat 64 (0x7FE + 0 * 2 ^ 12) ∧
       (reg s 7).toNat % 32 = 0 ∧ (reg s 7).toNat + 32 ≤ 0x70000 ∧ (0x7FE + 4096 - 4095) % 4096 = 2047 ∧ (s.coreAt 0).armed.length < 16) ∧
    (let s := withReg (barrier 0 4095 1 0 0 5 0x100 0x17FF) 7 0x6FFC0
     reg s 6 = BitVec.ofNat 64 (0x7FF + 1 * 2 ^ 12) ∧ (reg s 7).toNat % 64 = 0 ∧ (reg s 7).toNat + 64 ≤ 0x70000 ∧ (0x7FF + 4096 - 4095) % 4096 = 2048) ∧
    (let s := withReg (barrier 0 4095 1 0 0 5 0x100 0x2FFF) 7 255
     reg s 6 = BitVec.ofNat 64 (0xFFF + 2 * 2 ^ 12) ∧ (reg s 7).toNat < 256 ∧ (0xFFF + 4096 - 4095) % 4096 = 0) := by
  refine ⟨⟨?_, ?_, ?_, ready_barrier (by decide) (by decide) (by decide), by decide, .inl rfl, unreduced_of rfl, unreduced_of rfl, ?_⟩, ⟨?_, passes_far, ?_⟩, ⟨?_, ?_⟩, ?_, ?_, ?_, ⟨?_, ?_⟩, by decide +kernel, by decide +kernel⟩
  · unfold MemOk; decide +kernel
  · refine ⟨.inl (by decide), by decide, by decide, .inr (by decide)⟩
  · unfold Unattended; decide +kernel
  · unfold ObjectIs; decide +kernel
  · exact ⟨.inr (.inr ⟨1, by decide, by decide, by decide⟩), by decide, by decide, .inr (by decide)⟩
  · unfold ObjectIs; decide +kernel
  · exact ⟨.inr (.inl (by decide)), by decide, by decide, .inr (by decide)⟩
  · unfold ObjectIs; decide +kernel
  · unfold ObjectIs; decide +kernel
  · unfold ObjectIs; decide +kernel
  · unfold ObjectIs; decide +kernel
  · exact ⟨.inl (by decide), by decide, by decide, .inr (by decide)⟩
  · unfold ObjectIs; decide +kernel

/-- A network barrier group. -/
def group (came phases : Nat) (ws : List (Nat × Nat)) : NbarGroup := { expect := 2, came := came, phases := BitVec.ofNat 32 phases, waiters := ws }
/-- The user strand, with group 1 of its quad and of its pod. -/
def grouped (g : NbarGroup) : State :=
  user.modPart 0 fun p => { p with nbars := (p.nbars.set (nbarKey 0 .quad 1) g).set (nbarKey 0 .pod 1) g }

theorem witness_NetworkBarrierResult :
    Ready user false false [] [5] ∧ (user.partAt user.myPart).nbars.find (nbarKey 0 .quad 1) = none ∧
    (let g := group 0 4 [(1, 3)]
     ((grouped g).partAt 0).nbars.find (nbarKey 0 .quad 1) = some g ∧ g.waiters.find? (fun w => w.1 == (grouped g).cur.sid) = some (1, 3) ∧ 3 ≠ g.phases.toNat) ∧
    (let g := group 1 3 [(1, 3)]
     ((grouped g).partAt 0).nbars.find (nbarKey 0 .pod 1) = some g ∧ g.waiters.find? (fun w => w.1 == (grouped g).cur.sid) = some (1, 3) ∧ 3 = g.phases.toNat) ∧
    (let g := group 1 3 [(7, 3)]
     ((grouped g).partAt 0).nbars.find (nbarKey 0 .quad 1) = some g ∧ g.waiters.find? (fun w => w.1 == (grouped g).cur.sid) = none ∧
       (grouped g).cur.osc = 0 ∧ g.expect ≤ g.came + 1) ∧
    (let g := group 0 3 []
     g.waiters.find? (fun w => w.1 == (grouped g).cur.sid) = none ∧ g.came + 1 < g.expect) ∧
    ((user.modPart 0 fun p => { p with nbars := [(1025, group 1 3 [])] }).partAt 0).nbars.find (1024 + 1) = some (group 1 3 []) :=
  ⟨ready_user, by decide, by decide, by decide, by decide, by decide, by decide⟩

/-- A ring descriptor of ring 1, and a value in g4. -/
def ringed (d : Nat) (v : Word) : State := withReg (user.store (2 ^ 52 + 0x78010) 16 d) 4 v

/-- The largest and a refused layout; a push of the last free slot and a pop of the last filled one, with HEAD about to wrap; refusals. -/
theorem witness_RingResult :
    (let s := ringed 0 0x800000020006FE00
     let n := (reg s 4).toNat
     Ready s false false [4] [5] ∧ Unreduced s .rlx ∧ Unreduced s .acq ∧ s.cur.osc = 0 ∧ ¬ (n % 2 ^ 19 % 64 = 0 ∧ n % 2 ^ 19 + 2 ^ (n / 2 ^ 26 % 16 + 6 + n / 2 ^ 30 % 16) ≤ 0x70000 ∧ n / 2 ^ 37 % 8 < 4 ∧ n / 2 ^ 34 % 8 < 4 ∧ n / 2 ^ 19 % 2 ^ 7 = 0 ∧ n / 2 ^ 26 % 16 ≤ 10)) ∧
    (let s := ringed 0 9223372509301620736
     let n := (reg s 4).toNat
     n / 2 ^ 40 % 2 ^ 23 = 0 ∧ n / 2 ^ 19 % 2 ^ 7 = 0 ∧ n / 2 ^ 26 % 16 ≤ 10 ∧ n / 2 ^ 30 % 16 ≤ 8 ∧ n % 2 ^ 19 % 64 = 0 ∧
       n % 2 ^ 19 + 2 ^ (n / 2 ^ 26 % 16 + 6 + n / 2 ^ 30 % 16) ≤ 0x70000 ∧ n / 2 ^ 37 % 8 < 4 ∧ n / 2 ^ 34 % 8 < 4 ∧ s.ringNamed s.core 1 = false) ∧
    (let s := ringed (2 ^ 63 + 3 * 2 ^ 30 + 65535 * 2 ^ 64 + 65533 * 2 ^ 80) 6
     let d := s.load (ownKey s 0x78010) 16
     d / 2 ^ 63 % 2 = 1 ∧ d / 2 ^ 34 % 8 = 0 ∧ 1 ≤ (reg s 4).toNat ∧ (reg s 4).toNat ≤ 2 ^ (d / 2 ^ 30 % 16) - (d / 2 ^ 64 % 2 ^ 16 + 2 ^ 16 - d / 2 ^ 80 % 2 ^ 16) % 2 ^ 16) ∧
    (let s := ringed (2 ^ 63 + 3 * 2 ^ 30 + 65535 * 2 ^ 64 + 65533 * 2 ^ 80) 2
     let d := s.load (ownKey s 0x78010) 16
     d / 2 ^ 63 % 2 = 1 ∧ d / 2 ^ 37 % 8 = 0 ∧ (reg s 4).toNat ≤ (d / 2 ^ 64 % 2 ^ 16 + 2 ^ 16 - d / 2 ^ 80 % 2 ^ 16) % 2 ^ 16) ∧
    (let s := ringed (2 ^ 63 + 2 ^ 34 + 2 ^ 37) 1
     let d := s.load (ownKey s 0x78010) 16
     ¬ d / 2 ^ 34 % 8 = 0 ∧ ¬ d / 2 ^ 37 % 8 = 0) := by
  refine ⟨⟨ready_of (by decide) (by decide) (by decide), unreduced_of rfl, unreduced_of rfl, by decide +kernel⟩, by decide +kernel, by decide +kernel, by decide +kernel, by decide +kernel⟩

/-- The outcome is a next state in which the strand of slot 3 has taken no trap. -/
def runsOn (o : Host.Outcome State Fault Refusal) : Bool :=
  match o with
  | .next t => ! (t.slotAt 0 3).trapped
  | _ => false
theorem runs_without_trap {i : Instr} {s : State} (h : runsOn (exec i s) = true)
    (ht : ∀ c v mal, ((s.takeTrap s.core s.slot c v mal).slotAt 0 3).trapped = true) :
    ∃ t, exec i s = .next t ∧ ∀ c v mal, t ≠ s.takeTrap s.core s.slot c v mal := by
  generalize exec i s = o at h
  cases o with
  | next t => exact ⟨t, rfl, fun c v mal e => by simp [runsOn, e, ht] at h⟩
  | fault => cases h
  | refused => cases h

theorem witness_RegisterFrame :
    (IsInteger (.add false 5 4 6) ∧ (encode (.add false 5 4 6)).head? = some 0x06450080 ∧ (0x06450080 : BitVec 32).getLsbD 10 = false ∧
      ∃ t, exec (.add false 5 4 6) user = .next t ∧ ∀ c v mal, t ≠ user.takeTrap user.core user.slot c v mal) ∧
    (vectorDests (.mset 3 4) = some (none, none, some 3, none) ∧
      ∃ t, exec (.mset 3 4) user = .next t ∧ ∀ c v mal, t ≠ user.takeTrap user.core user.slot c v mal) := by
  refine ⟨⟨trivial, by decide, by decide, ?_⟩, rfl, ?_⟩
  all_goals exact runs_without_trap (by decide +kernel) (fun _ _ _ => rfl)

/-- A ring descriptor of a quad's core 0, its registers in g4 and g6. -/
def ringAt (q : Nat) (a b c : Word) : State :=
  withReg (two ((user.store (2 ^ 52 + 0x78010) 16 (2 ^ 63 + 2 ^ 30 + 2 ^ 37 + 0x1000)).store (2 ^ 52 + 0x78000 + 16 * q) 16 (2 ^ 63 + 2 ^ 30 + 2 ^ 34 + 0x2000)) a b) 8 c
/-- A copy of a form. -/
def barriered : CForm := { cf with bv := true, boff := 0x6FF, bph := 3 }

/-- A copy with bytes and one of none; from a ring, to a ring, two-dimensional, and to peers, at the last offset and the longest length. -/
theorem witness_CopyKickResult :
    (MayKick user 5 ∧ (user.quadAt (user.core / 4)).copies.length < 32 ∧ Ready user false false [4, 6, 8] []) ∧
    (let s := ringAt 3 64 128 0xFFFFFFFF
     copyCheck s s.core (.cpy 5 4 6 8 barriered) (reg s 4) (reg s 6) (reg s 8) = none ∧ (reg s 8).toNat ≠ 0) ∧
    (let s := ringAt 3 64 128 0
     copyCheck s s.core (.cpy 5 4 6 8 cf) (reg s 4) (reg s 6) (reg s 8) = none ∧ (reg s 8).toNat = 0) ∧
    (let s := ringAt 3 64 0xFF00000000000001 64
     copyCheck s s.core (.cpy 5 4 6 8 cf) (reg s 4) (reg s 6) (reg s 8) = none) ∧
    (let s := ringAt 3 64 128 1
     copyCheck s s.core (.cpy2 5 4 6 8 { cf with yf := 0xFF }) (reg s 4) (reg s 6) (reg s 8) = none) ∧
    (let s := ringAt 3 0x6FFFF 128 1
     copyCheck s s.core (.cpym 5 4 6 8 { cf with xf := 0xF }) (reg s 4) (reg s 6) (reg s 8) = none) ∧
    (let s := ringAt 3 0 128 64
     copyCheck s s.core (.cpyq 5 3 6 8 cf) 0 (reg s 6) (reg s 8) = none) ∧
    (let s := ringAt 3 0 128 0x100000000
     copyCheck s s.core (.cpy 5 4 6 8 cf) (reg s 4) (reg s 6) (reg s 8) ≠ none ∧ s.cur.tags.getLsbD 5 = false ∧
       copyCheck s s.core (.cpyq 5 2 6 8 cf) 0 (reg s 6) (reg s 8) ≠ none) := by
  refine ⟨⟨by unfold MayKick; decide, by decide, ready_user⟩, ?_, ?_, ?_, ?_, ?_, ?_, ?_⟩ <;> decide +kernel

/-- A command of the strand of slot 3, `done` of whose bytes are copied. -/
def command (i : Instr) (done len : Nat) : CopyCmd :=
  { CopyCmd.of i (BitVec.ofNat 64 (0x7E0000000000 + 0x6FF00)) (BitVec.ofNat 64 (0x7E0000000000 + 0x1003)) (BitVec.ofNat 64 len) user.owner (.reg 5) none with
    index := 31, done := done }
/-- The quad's engine holds a command, whose register awaits its token. -/
def copying (k : CopyCmd) : State := own (fun x => { x with pend := 0x20 }) (user.modQuad 0 fun q => { q with copies := [k] })

/-- A chunk that is not the last, and the last, which ends at the end of the program range. -/
theorem witness_CopyChunkResult :
    (let k := command (.cpy 5 4 6 8 cf) 0 513
     let s := copying { k with a := BitVec.ofNat 64 (0x7E0000000000 + 0x3001) }
     MemOk s ∧ (s.progOf (s.copyAgent 0 k) = Progress.none ∧ s.hostOf (s.copyAgent 0 k) = none ∧ k.buf = none) ∧ Seated s k.owner 3 ∧ EngineReach s 0 0x1003 512 ∧ EngineReach s 0 0x3001 512 ∧ 0 + 512 < k.c.toNat) ∧
    (let k := command (.cpy 5 4 6 8 cf) 3 0x100
     let s := copying k
     MemOk s ∧ (s.quadAt 0).copy 31 = some k ∧ k.instr = .cpy 5 4 6 8 cf ∧ cf.bv = false ∧ k.susp = none ∧ k.quiesced = false ∧
       k.waiting = false ∧ k.owner.super = false ∧ k.token = .reg 5 ∧ k.dropped = false ∧ k.dtask = none ∧ Seated s k.owner 3 ∧
       (s.partAt k.owner.part).sealed = false ∧ k.b = BitVec.ofNat 64 (0x7E0000000000 + 0x1003) ∧
       k.a = BitVec.ofNat 64 (0x7E0000000000 + 0x6FF00) ∧ k.done < k.c.toNat ∧ EngineReach s 0 (0x1003 + 3) 0xFD ∧
       EngineReach s 0 (0x6FF00 + 3) 0xFD ∧ 3 + 0xFD = k.c.toNat ∧ (s.slotAt 0 3).pend.getLsbD 5 = true) := by
  unfold MemOk Seated EngineReach; decide +kernel

/-- A count that leaves the phase open, overruns it or ends it, in the last phase; one to come, at both ends, and one past; a copy that waits. -/
theorem witness_BarrierDelivery :
    (let s := barrier 0 4095 1 65535 0 5 0 0
     MemOk s ∧ Unattended s 0 0x100 ∧ (0x100 < 0x70000 ∧ 0x100 % 16 = 0) ∧ (s.coreAt 0).firstSealed 0x100 16 = none ∧
       ObjectIs s 0 0x100 4095 1 65535 false 5 ∧ (4095 + 4096 - 4095) % 4096 = 0 ∧ (2046 + 4096 - 4095) % 4096 = 2047 ∧ (0 + 4096 - 4095) % 4096 = 1 ∧
       (2047 + 4096 - 4095) % 4096 = 2048 ∧ s.deferredRoom 0 ≠ []) ∧
    (let s := barrier 0 4095 0 65535 1 1 0 0
     MemOk s ∧ Unattended s 0 0x100 ∧ ObjectIs s 0 0x100 4095 0 65535 true 1 ∧ (1 : Word) - BitVec.ofNat 64 1 = 0 ∧
       ((1 : Word) - BitVec.ofNat 64 (2 ^ 32 - 1)).toInt < 0) ∧
    (let k := { command (.cpy 5 4 6 8 barriered) 0 513 with waiting := true }
     let s := copying k
     ((s.quadAt 0).copies.filter fun k => k.waiting && k.susp.isNone && ! k.quiesced) = [k] ∧ k.instr = .cpy 5 4 6 8 barriered ∧
       k.owner.super = false ∧ (s.barrierCore { s.agentOf k.owner with core := k.store } k.dest = 0 ∧ k.dest.toNat % 2 ^ 19 + k.chunk s ≤ 2 ^ 19 ∧
         (s.coreAt 0).locked (16 * barriered.boff.toNat) 16 = false ∧ s.roomFor [0] (16 * barriered.boff.toNat) barriered.bph.toNat false = true) ∧
       k.done + k.chunk s < k.total) ∧
    ((user.quadAt 0).copies.filter fun k => k.waiting && k.susp.isNone && ! k.quiesced) = [] := by
  unfold MemOk Unattended ObjectIs
  refine ⟨⟨?_, ?_, ?_, ?_, ?_, ?_⟩, ⟨?_, ?_, ?_, ?_⟩, ?_, ?_⟩ <;> decide +kernel

/-- A stencil task that waits, a released record task, and a task that waits for it. -/
def deps : List (Nat × DepEntry) :=
  [(0, { DepEntry.fresh true false 0x40 .core with state := .waiting, rbase := 1, rlen := 4, wbase := 8, wlen := 2, x := 3, y := 4 }),
   (1, { DepEntry.fresh false false 0x20 .core with state := .released, rbase := 1, rlen := 4, wbase := 8, wlen := 2, owner := user.owner }),
   (2, { DepEntry.fresh true false 0x40 .core with state := .waiting, waits := [1, 0], x := 2 })]
/-- The quad's table holds entries. -/
def tabled (l : List (Nat × DepEntry)) (st : Bool) (a b : Word) : State := two (user.modQuad 0 fun q => { q with dep := l, stencil := st }) a b

/-- The empty table in either mode and the next entry of another; the last record and image; a task retired, and one that is none. -/
theorem witness_TaskResult :
    (let s := tabled [] true 0x6FFE0 0
     s.cur.osc = 0 ∧ (∀ e : DepEntry, (0, e) ∉ (s.quadAt 0).dep) ∧ reg s 4 = BitVec.ofNat 64 (false.toNat * 2 ^ 63 + false.toNat * 2 ^ 62 + 0x6FFE0) ∧
       0x6FFE0 + 32 ≤ 0x70000 ∧ 0x6FFE0 % 32 = 0 ∧ Ready s false false [4, 6, 8] [5] ∧ ∀ j, ¬ ∃ e, (j, e) ∈ (s.quadAt 0).dep ∧ e.state ≠ .free) ∧
    (let s := tabled deps true 0xC00000000006FFC0 0xFBFF
     (∀ e, (3, e) ∉ (s.quadAt 0).dep) ∧ (∀ j < 3, ∃ e, (j, e) ∈ (s.quadAt 0).dep ∧ e.state ≠ .free) ∧
       reg s 4 = BitVec.ofNat 64 (true.toNat * 2 ^ 63 + true.toNat * 2 ^ 62 + 0x6FFC0) ∧ 0x6FFC0 + 64 ≤ 0x70000 ∧ 0x6FFC0 % 64 = 0 ∧
       (s.quadAt 0).stencil = true ∧ (reg s 6).toNat < 2 ^ 16 ∧ (reg s 6).getLsbD 10 = false) ∧
    (let s := tabled deps false 0x1 0
     Ready s false false [4] [] ∧ s.cur.osc = 0 ∧ (reg s 4).toNat < 2 ^ 43 ∧ s.vcnCore s.myPart ((reg s 4).toNat / 2 ^ 32 % 2 ^ 11) = some 0 ∧
       ((s.quadAt 0).depAt 1).state = .released ∧ ((s.quadAt 0).depAt 1).image = false ∧ ((s.quadAt 0).depAt 1).owner.core = 0 ∧
       (s.quadAt 0).dep.find 2 = deps[2]?.map (·.2)) ∧
    (let s := tabled (deps.drop 1) false 0x1 0
     ∀ j f, (j, f) ∈ (s.quadAt 0).dep → f.state = .waiting → f.waits.filter (· != 1) ≠ []) ∧
    ¬ ((((tabled deps false 0x2 0).quadAt 0).depAt 2).state = .released) := by
  have ready {s : State} {rs ds : List GReg} (h : s.cur.pend = 0 ∧ s.cur.tags = 0 ∧ s.cur.inRep = false) : Ready s false false rs ds :=
    ready_of h.1 h.2.1 h.2.2
  refine ⟨⟨?_, ?free, ?_, ?_, ?_, ready ?_, ?busy⟩, ⟨?other, ?all, ?_⟩, ⟨ready ?_, ?_⟩, pairs ?_, ?_⟩
  any_goals decide +kernel
  case free => intro e h; cases h
  case busy => rintro j ⟨e, h, -⟩; cases h
  case other => exact fun e h => pairs (P := fun a (_ : DepEntry) => a ≠ 3) (by decide) _ _ h rfl
  case all =>
    intro j h
    obtain ⟨e, m, he⟩ := List.any_eq_true.mp
      ((show ∀ j < 3, (deps.any fun e => decide (e.1 = j ∧ e.2.state ≠ .free)) = true by decide) j h)
    obtain ⟨hj, hf⟩ := of_decide_eq_true he
    exact ⟨e.2, hj ▸ m, hf⟩

/-- A descriptor of a tensor of 3 rows of 40 elements in the local store. -/
def desc : Desc := BitVec.ofNat 512 (0x7E0000002000 + 2 ^ 192 * 40 + 2 ^ 208 * 3 + 2 ^ 256 * 4 + 2 ^ 288 * 160 + 2 ^ 384 * (2 + 64 * 2))
/-- Ring 1 of core 0, of 4 slots of 64 bytes whose two sides are of the feed kind, and the descriptor 3. -/
def feeding (head tail : Nat) (l : List FeedSub) (a b : Word) : State :=
  two (((user.store (2 ^ 52 + 0x78010) 16 (tail * 2 ^ 80 + head * 2 ^ 64 + 2 ^ 63 + 2 * 2 ^ 37 + 2 * 2 ^ 34 + 2 * 2 ^ 30 + 0x4000)).modCore 0
    fun c => { c with descs := [(3, desc)] }).modDie 0 fun d => { d with feeds := l }) a b
/-- A subscription of the strand to tiles of one row of 16 elements. -/
def feed (inward : Bool) (n : Nat) : FeedSub where
  index := 0
  inward := inward
  ringCore := 0
  ring := 1
  desc := desc
  tr := 1
  tc := 16
  first := 1
  count := 7
  n := n
  owner := user.owner
  token := 5
  scope := .core
  unsub := false
  susp := none
/-- The fields of an ISUB of such tiles. -/
def feedForm : CForm := { cf with sstr := 3, dstr := 0, xf := 1, yf := 16 }
theorem served {o : Except Stop (Nat × State)} {d : Nat} {s : State}
    (h : (match o with
      | .ok p => decide (p = (d, s))
      | .error _ => false) = true) : o = .ok (d, s) := by
  cases o with
  | error => cases h
  | ok p => exact congrArg _ (of_decide_eq_true h)

/-- The last tile of the tensor and one beyond it, no tiles, a second subscription, a ring that is none; a mark, a handle, and none; a tile each
way at the ring's wrap, and a marked subscription. -/
theorem witness_FeedResult :
    (let s := feeding 0 0 [] 1 8
     Ready s false false [4, 6] [] ∧ MayKick s 5 ∧ s.vcnCore s.myPart (feedForm.dstr.toNat % 2 ^ 11) = some 0 ∧ (s.ring 0 1).valid = true ∧
       (s.ring 0 1).pkind = 2 ∧ (s.ring 0 1).ckind = 2 ∧
       feedRefused (s.descAt 0 3) (s.ring 0 1).slotBytes 1 16 (reg s 4) (reg s 6) = false ∧ servingDie (s.descAt 0 3) (begun s) = .ok (0, begun s) ∧
       StrandIs s (begun s) (begun s).cur ∧ (∀ g ∈ ((begun s).dieAt 0).feeds, ¬ (g.inward = true ∧ g.index = 0)) ∧ reg s 6 ≠ 0) ∧
    (let s := feeding 0 0 [] 1 0
     feedRefused (s.descAt 0 3) (s.ring 0 1).slotBytes 1 16 (reg s 4) (reg s 6) = false ∧ reg s 6 = 0) ∧
    (let s := feeding 0 0 [feed true 0] 1 9
     feedRefused (s.descAt 0 3) (s.ring 0 1).slotBytes 1 16 (reg s 4) (reg s 6) = true) ∧
    (let s := feeding 0 0 [feed true 0] 1 8
     feedRefused (s.descAt 0 3) (s.ring 0 1).slotBytes 1 16 (reg s 4) (reg s 6) = false ∧
       (∃ g ∈ ((begun s).dieAt 0).feeds, g.inward = true ∧ g.index = 0) ∧ (∀ g ∈ ((begun s).dieAt 0).feeds, ¬ (g.inward = true ∧ g.index = 1)) ∧
       ¬ ((s.ring 0 3).valid = true)) ∧
    (Ready user false false [] [] ∧ Ready user false false [4] [5] ∧ user.slot ≠ 15) ∧
    (let k := { command (.cpy 5 4 6 8 cf) 0 513 with index := 2, susp := some 0x10 }
     (let s := withReg (super.modQuad 0 fun q => { q with copies := [k] }) 4 0x10002
      Ready s false false [4] [5] ∧ s.slot = 15 ∧ (reg s 4).toNat < 2 ^ 17 ∧
        ((begun s).resumeCommand s.core ((reg s 4).setWidth 16) ((reg s 4).getLsbD 16)).isSome = true) ∧
     (let s := sup 0x1FFFF
      (reg s 4).toNat < 2 ^ 17 ∧ ((begun s).resumeCommand s.core ((reg s 4).setWidth 16) ((reg s 4).getLsbD 16)).isNone = true) ∧
     2 ^ 17 ≤ (reg (sup 0x20000) 4).toNat) ∧
    (let s := feeding 65535 65532 [feed true 0] 0 0
     let f := feed true 0
     let r := s.ring f.ringCore f.ring.toNat
     s.feedAt true 0 0 = some f ∧ f.susp = none ∧ f.unsub = false ∧ MemOk s ∧ s.ringAway 0 = false ∧ f.owner.super = false ∧
       f.rows = [(0, BitVec.ofNat 64 (0x7E0000000000 + 0x2040), 64)] ∧ 64 ≤ r.slotBytes ∧ EngineReach s 0 0x2040 64 ∧
       EngineReach s 0 (r.slotOff r.head) r.slotBytes ∧ r.free ≠ 0 ∧ f.n + 1 < f.count ∧ r.lsize ≤ 10 ∧
       s.progOf (s.feedAgent 0 f) = Progress.none ∧ s.hostOf (s.feedAgent 0 f) = none) ∧
    (let s := feeding 0 65535 [feed false 1] 0 0
     let f := feed false 1
     let r := s.ring f.ringCore f.ring.toNat
     s.feedAt false 0 0 = some f ∧ MemOk s ∧ f.rows = [(0, BitVec.ofNat 64 (0x7E0000000000 + 0x2080), 32)] ∧ EngineReach s 0 0x2080 32 ∧
       EngineReach s 0 (r.slotOff r.tail) r.slotBytes ∧ r.filled ≠ 0 ∧ f.n + 1 < f.count ∧
       s.progOf (s.feedAgent 0 f) = Progress.none ∧ s.hostOf (s.feedAgent 0 f) = none) ∧
    (let f := { feed true 1 with unsub := true }
     let s := own (fun x => { x with pend := setBit x.pend 5 true }) (feeding 0 0 [f] 0 0)
     let r := s.ring f.ringCore f.ring.toNat
     s.feedAt true 0 0 = some f ∧ f.susp = none ∧ MemOk s ∧ f.rows = [(0, BitVec.ofNat 64 (0x7E0000000000 + 0x2080), 32)] ∧ 32 ≤ r.slotBytes ∧
       EngineReach s 0 0x2080 32 ∧ EngineReach s 0 (r.slotOff r.head) r.slotBytes ∧ r.free ≠ 0 ∧ Seated s f.owner 3 ∧
       (s.slotAt f.owner.core 3).pend.getLsbD f.token.toNat = true) := by
  refine ⟨⟨ready_of rfl rfl rfl, by unfold MayKick; decide, by decide +kernel, by decide +kernel, by decide +kernel, by decide +kernel, by decide +kernel, ?_,
    ⟨rfl, rfl, rfl⟩, by decide, by decide⟩, by decide +kernel, by decide +kernel, by decide +kernel, ⟨ready_user, ready_user, by decide⟩, ⟨⟨ready_of rfl rfl rfl, by decide +kernel⟩, by decide +kernel, by decide +kernel⟩, ?_, ?_, ?_⟩
  · exact served (by decide +kernel)
  iterate 2 unfold MemOk EngineReach; decide +kernel
  unfold MemOk EngineReach Seated; decide +kernel

/-- A joint of a kind, a number and an incarnation. -/
def jointWord (kind n inc : Nat) : Word := BitVec.ofNat 64 (inc * 2 ^ 32 + kind * 2 ^ 24 + n)
/-- A register of the issuing strand holds a joint. -/
def withJoint (s : State) (r : GReg) (w : Word) : State := own (fun x => x.setJoint r w) s
/-- Core 0 holds records. -/
def recorded (m : List (Nat × ChanRec)) (s : State) : State := m.foldl (fun t e => t.putRec 0 e.1 e.2) s
/-- A tenon's record of incarnation 7. -/
def tenon (n : Nat) (st : RecState) (es ld : Nat) (nx ak by_ : Nat) : ChanRec :=
  { ChanRec.blank .tenon (BitVec.ofNat 24 n) 7 with
    state := st, esize := BitVec.ofNat 3 es, ldepth := BitVec.ofNat 4 ld, next := BitVec.ofNat 32 nx, ackd := BitVec.ofNat 32 ak
    bytes := BitVec.ofNat 32 by_, route := 2, move := 3 }
/-- A mortise's record of incarnation 7. -/
def mortise (n : Nat) (st : RecState) (es ld : Nat) (cons pres base : Nat) : ChanRec :=
  { ChanRec.blank .mortise (BitVec.ofNat 24 n) 7 with
    state := st, esize := BitVec.ofNat 3 es, ldepth := BitVec.ofNat 4 ld, cons := BitVec.ofNat 32 cons, pres := BitVec.ofNat 256 pres
    base := BitVec.ofNat 19 base, tloc := 1, tsent := 9 }
/-- The tenon of channel 9 in g4, and other ends. -/
def sender (r : ChanRec) (v : Word) : State :=
  withJoint (recorded [(0, r), (2, mortise 10 .openS 2 1 0 0 0x4000), (5, tenon 11 .openS 2 1 8 7 0)] (two user 0 v)) 4 (jointWord 1 9 7)
/-- The mortise of channel 9 in g4. -/
def receiver (r : ChanRec) (v : Word) : State := withJoint (recorded [(0, r)] (two user 0 v)) 4 (jointWord 2 9 7)

/-- A broken and a closed end; the window full and open at the wrap of the sequence; the least and the largest element; a peg and an end of
each side moved. -/
theorem witness_ChannelSendResult :
    (let r := tenon 9 .broken 0 2 0 0 0
     let s := sender r 5
     Issues s [4, 6, 5] ∧ HoldsEnd s 4 1 0 r ∧ s.cur.osc = 0 ∧ Untagged s [6, 5] ∧ r.esize.toNat ≤ 1 ∧ r.state = .broken) ∧
    (let r := tenon 9 .tail 1 2 0 0 0
     HoldsEnd (sender r 5) 4 1 0 r ∧ r.esize.toNat ≤ 1 ∧ r.state = .tail) ∧
    (let r := tenon 9 .openS 1 1 1 0xFFFFFFFF 0
     HoldsEnd (sender r 5) 4 1 0 r ∧ (r.next - r.ackd).toNat = 2 ^ r.ldepth.toNat) ∧
    (let r := tenon 9 .openS 4 8 0 0xFFFFFF01 0xFFFFFFC0
     let s := sender r 0x6FFC0
     HoldsEnd s 4 1 0 r ∧ (reg s 6).toNat % 64 = 0 ∧ (reg s 6).toNat + 64 ≤ 0x70000 ∧ LocalReach s (reg s 6).toNat 64 ∧
       (r.next - r.ackd).toNat ≠ 2 ^ r.ldepth.toNat ∧ Unmetered s s.core s.myPart 2) ∧
    (let r := tenon 9 .openS 1 7 5 4 0
     let s := withJoint (sender r 0) 6 (jointWord 3 0x2045 1)
     Issues s [4, 6, 5] ∧ HoldsEnd s 4 1 0 r ∧ Untagged s [5] ∧ r.ldepth.toNat ≤ 7 ∧ s.cur.tags.getLsbD 6 = true ∧
       (reg s 6).toNat / 2 ^ 24 % 4 = 3 ∧ r.esize ≠ 0) ∧
    (let r := tenon 9 .openS 4 7 5 4 0
     let s := withJoint (sender r 0) 6 (jointWord 1 11 7)
     let e := tenon 11 .openS 2 1 8 7 0
     HoldsEnd s 4 1 0 r ∧ HoldsEnd s 6 1 5 e ∧ r.esize = 4 ∧ e.state ≠ .tail ∧ e.state ≠ .shut) ∧
    (let r := tenon 9 .openS 4 0 5 5 0
     let s := withJoint (sender r 0) 6 (jointWord 2 10 7)
     let e := mortise 10 .openS 2 1 0 0 0x4000
     HoldsEnd s 4 1 0 r ∧ HoldsEnd s 6 2 2 e ∧ e.state ≠ .tail ∧ e.state ≠ .shut ∧ ¬ (e.number = r.number ∧ e.inc = r.inc)) := by
  unfold Issues HoldsEnd LocalReach Untagged Written Unmetered
  refine ⟨?_, ?_, ?_, ?_, ?_, ?_, ?_⟩ <;> decide +kernel

/-- A mortise whose element 1 is marked as a joint. -/
def carrying : ChanRec := { mortise 9 .openS 4 1 3 3 0x1000 with marks := 2 }
/-- Its bytes. -/
def element (bs : List Byte) (s : State) : State := s.storeBytes (2 ^ 52 + 0x1040) bs
/-- The state in which a joint's element has been taken from channel 9's mortise. -/
def taken (s : State) : State :=
  let r := { carrying with pres := 1, cons := 4 }
  let q := { r with tsent := r.tsent + 1 }
  let t := ((begun s).setRec 0 0 q).post (.ackArrival (tenonMessage s r .ack r.cons false))
  let t := onItsWay (t.settleTransit r.part r.number r.inc false (r.cons - 1)) r true r.cons
  ((t.storeBytes (ownKey s 0x1040) (List.replicate 64 0)).setRec s.core 0 { q with marks := 0 }).unseal s.core (carrying.elemSectors 1)

/-- A shut mortise, after and at its end marker, empty; a value, bytes, a peg, and an end of each side. -/
theorem witness_ChannelReceiveResult :
    (let r := mortise 9 .shut 0 1 3 0 0x4000
     let s := receiver r 0x2000
     Unreduced s .acq ∧ Issues s [4, 6, 5, 7] ∧ HoldsEnd s 4 2 0 r ∧ Untagged s [5, 7] ∧ r.state = .shut) ∧
    (let r := mortise 9 .endSeen 0 1 3 0 0x4000
     HoldsEnd (receiver r 0x2000) 4 2 0 r ∧ r.state = .endSeen) ∧
    (let r := { mortise 9 .openS 3 1 3 0 0x1000 with endv := true, endseq := 3 }
     HoldsEnd (receiver r 0x2000) 4 2 0 r ∧ r.endv = true ∧ r.endseq = r.cons) ∧
    (let r := mortise 9 .openS 0 1 3 1 0x1000
     HoldsEnd (receiver r 0x2000) 4 2 0 r ∧ ¬ (r.endv = true ∧ r.endseq = r.cons) ∧ r.pres.getLsbD (r.cons.toNat % 2 ^ r.ldepth.toNat) = false) ∧
    (let r := mortise 9 .openS 1 2 3 8 0x1000
     HoldsEnd (receiver r 0x2000) 4 2 0 r ∧ r.pres.getLsbD (r.cons.toNat % 2 ^ r.ldepth.toNat) = true ∧
       r.marks.getLsbD (r.cons.toNat % 2 ^ r.ldepth.toNat) = false ∧ 4 * 2 ^ r.esize.toNat ≤ 8) ∧
    (let r := mortise 9 .openS 4 1 1 2 0x1000
     let s := receiver r 0x6FFC0
     HoldsEnd s 4 2 0 r ∧ r.pres.getLsbD 1 = true ∧ r.marks.getLsbD 1 = false ∧ 8 < 4 * 2 ^ r.esize.toNat ∧ Untagged s [6] ∧
       (reg s 6).toNat % 64 = 0 ∧ (reg s 6).toNat + 64 ≤ 0x70000 ∧ LocalReach s (reg s 6).toNat 64) ∧
    (let s := element (toBytes 8 (jointWord 3 5 6).toNat) (receiver carrying 0x2000)
     HoldsEnd s 4 2 0 carrying ∧ carrying.pres.getLsbD 1 = true ∧ carrying.marks.getLsbD 1 = true ∧ Unmetered s s.core s.myPart 2 ∧
       s.load (ownKey s 0x1040) 8 = (jointWord 3 5 6).toNat) ∧
    (let bs := (tenon 20 .openS 1 2 0 0 0).carried (jointWord 1 20 7) 2
     let s := element bs (receiver carrying 0x2000)
     let c := (carriedRec (Memory.readList s.mem (ownKey s 0x1040) 64)).getD (tenon 0 .tail 0 0 0 0 0, 9)
     HoldsEnd s 4 2 0 carrying ∧ c.1.side = .tenon ∧ c.1.number = 20 ∧ c.2 = 2 ∧ (∃ t, (taken s).receiveEnd 0 c.1 c.2 0 = some t)) ∧
    (let s := element ((mortise 21 .openS 1 8 0 0 0).carried (jointWord 2 21 7) 2) (receiver carrying 0x6F800)
     let c := (carriedRec (Memory.readList s.mem (ownKey s 0x1040) 64)).getD (tenon 0 .tail 0 0 0 0 0, 9)
     HoldsEnd s 4 2 0 carrying ∧ c.1.side = .mortise ∧ Untagged s [6] ∧ (reg s 6).toNat % (4 * 2 ^ c.1.esize.toNat) = 0 ∧
       (reg s 6).toNat + 2 ^ c.1.ldepth.toNat * (4 * 2 ^ c.1.esize.toNat) ≤ 0x70000 ∧
       (∃ t, (taken s).receiveEnd 0 c.1 c.2 (BitVec.ofNat 19 (reg s 6).toNat) = some t)) := by
  unfold Issues HoldsEnd LocalReach Untagged Written Unmetered
  refine ⟨⟨unreduced_of (by decide +kernel), ?_⟩, ?_, ?_, ?_, ?_, ?_, ?_, ⟨?_, ?_, ?_, ?_, Option.isSome_iff_exists.mp ?_⟩,
    ⟨?_, ?_, ?_, ?_, ?_, Option.isSome_iff_exists.mp ?_⟩⟩ <;> decide +kernel

/-- Core 0 has records, and the count of channels stands at 5 of its fourth incarnation. -/
def creating (m : List (Nat × ChanRec)) (v : Word) : State := (recorded m (two user v 0)).modPart 0 fun p => { p with created := 0x3000005 }
theorem slotFree_iff {m : Map ChanRec} {k : Nat} :
    SlotFree m k ↔ (m.all fun e => decide (e.1 ≠ k ∧ (e.2.side = .mortise → e.1 + 1 ≠ k))) = true := by simp [SlotFree, Decidable.imp_iff_not_or]

/-- The first record slots, records between, the largest channel, and a record of each side. -/
theorem witness_ChannelCreateResult :
    (let s := creating [] 0x6C000
     Issues s [4, 5, 6] ∧ Untagged s [4, 5, 6] ∧ (reg s 4).toNat % 64 = 0 ∧ (reg s 4).toNat + 2 ^ 8 * 64 ≤ 0x70000 ∧ SlotFree (s.recsAt 0) 0 ∧
       SlotFree (s.recsAt 0) 1 ∧ SlotFree (s.recsAt 0) 2) ∧
    (let s := creating [(0, mortise 1 .openS 0 0 0 0 0), (3, tenon 1 .openS 0 0 0 0 0)] 0x40
     let m := s.recsAt 0
     SlotFree m 4 ∧ SlotFree m 5 ∧ SlotFree m 2 ∧ (∀ j < 2, ¬ SlotFree m j) ∧ (∀ j < 4, j % 2 = 0 → ¬ (SlotFree m j ∧ SlotFree m (j + 1)))) ∧
    (Tabled (tenon 9 .tail 1 2 0 0 0) ∧ Tabled (mortise 9 .shut 1 2 0 0 0) ∧ MemOk user) := by
  unfold Issues Untagged Written
  simp only [slotFree_iff]
  refine ⟨?_, ?_, ⟨?_, ?_, ?_⟩⟩
  iterate 2 decide +kernel
  all_goals first | (unfold MemOk; decide +kernel) | (unfold Tabled; decide +kernel)

/-- An open and a closed end of each side; a peg dropped, moved and copied; the kinds of joints; grants at their ends. -/
theorem witness_JointResult :
    (let r := tenon 9 .openS 0 2 5 4 0
     let s := sender r 0
     Issues s [4] ∧ Issues s [4, 6] ∧ Untagged s [6] ∧ s.cur.osc = 0 ∧ HoldsEnd s 4 1 0 r ∧ r.state = .openS) ∧
    (let r := tenon 9 .tail 0 2 5 4 0
     HoldsEnd (sender r 0) 4 1 0 r ∧ r.state ≠ .openS) ∧
    (let r := { mortise 9 .openS 3 1 4 0 0x1000 with endv := true, endseq := 3 }
     let s := receiver r 0
     Issues s [4] ∧ s.cur.osc = 0 ∧ HoldsEnd s 4 2 0 r ∧ r.side = .mortise ∧ r.state = .openS ∧ r.pres = 0 ∧ r.cons ≠ r.endseq) ∧
    (let r := mortise 9 .endSeen 3 1 4 0 0x1000
     HoldsEnd (receiver r 0) 4 2 0 r ∧ r.state ≠ .openS) ∧
    (let s := withJoint user 4 (jointWord 3 5 8)
     Issues s [4, 6] ∧ Untagged s [6] ∧ s.cur.tags.getLsbD 4 = true ∧ (reg s 4).toNat / 2 ^ 24 % 4 = 3 ∧
       s.vcnCore s.myPart ((reg s 4).toNat / 2 ^ 13 % 2 ^ 11) = some 0) ∧
    user.cur.tags.getLsbD 4 = false := by
  unfold Issues HoldsEnd Untagged Written
  refine ⟨?_, ?_, ?_, ?_, ?_, ?_⟩ <;> decide +kernel

/-- A message of channel 9 to a core. -/
def message (kind : MsgKind) (side : Side) (smove : BitVec 32) (dst : Nat) (dstVcn fin fwd : Bool) : Msg where
  kind := kind
  value := 5
  inc := 7
  number := 9
  side := side
  move := 3
  smove := smove
  new := 8
  aux := 6
  src := 3
  dst := dst
  dstVcn := dstVcn
  part := 0
  fin := fin
  fwd := fwd
  esize := 0
  payload := [1, 2, 3]
/-- A tenant in partition 0's save region. -/
def tenant : SavedTenant := { built := [], owed := [], from_ := 1, kept := [], active := [], shadow := [], batches := 0, waits := [], copies := [], armed := [], truss := [] }
/-- Core 0 holds a record in record slot 0. -/
def holds (r : ChanRec) : State := recorded [(0, r)] user
/-- A record at move 3, and a claimed one whose messages are all counted. -/
def moving (r : ChanRec) : ChanRec := { r with move := 3, tmove := 3 }
def counted (r : ChanRec) : ChanRec :=
  { moving r with upr := 2, upn := 2, recv := 1, dn := 1, newt := 4, dnv := true, held := false, claimed := true, dfin := true, target := 2, targetVcn := true }

/-- A VCN unmapped, no record, and each kind at a record of each state that it meets, of a move newer and older at the wrap; an owed peg; and a
record of each state that retires or stays. -/
theorem witness_ChannelArrivalResult :
    (let m := message .data .mortise 9 7 true false false
     m.dstVcn = true ∧ user.vcnCore m.part m.dst = none ∧
       ((user.modPart 0 fun p => { p with saved := [(7, tenant)] }).partAt m.part).saved.find m.dst ≠ none) ∧
    (let m := message .data .mortise 9 0 false false false
     user.msgRec 0 m = none ∧ user.msgRec 0 { m with dstVcn := true } = none ∧ user.vcnCore 0 0 = some 0) ∧
    (let r := moving (mortise 9 .openS 1 2 3 0 0x4000)
     Meets (holds r) (message .data .mortise 9 0 true false false) 0 0 r ∧ Meets (holds r) (message .endM .mortise 9 0 false false false) 0 0 r ∧
       Meets (holds r) (message .drain .mortise 9 0 false true true) 0 0 r ∧
       Meets (holds r) (message .announce .mortise (3 + 0x7FFFFFFF) 0 false true true) 0 0 r ∧
       Meets (holds r) (message .claim .mortise 9 0 false false false) 0 0 r ∧ IsLater (3 + 0x7FFFFFFF) r.tmove ∧ ¬ IsLater (3 + 0x80000000) r.tmove ∧ ¬ IsLater 3 r.tmove) ∧
    (let r := moving (mortise 9 .mstub 1 2 3 0 0x4000)
     Meets (holds r) (message .announce .mortise 9 0 false true true) 0 0 r ∧ r.claimed = false) ∧
    (let r := moving (tenon 9 .openS 1 2 3 1 0)
     [MsgKind.ack, .broken, .repoint, .release].all fun k => decide (
       (message k .tenon 4 0 false true false).kind = k ∧ (holds r).msgRec 0 (message k .tenon 4 0 false true false) = some (0, r))) ∧
    (let r := moving (tenon 9 .openS 1 2 3 1 0)
     r.state = .openS ∧ r.state ≠ .tstub ∧ IsLater 4 r.move ∧ ¬ IsLater 3 r.move) ∧
    (let r := moving (tenon 9 .tail 1 2 3 1 0)
     Meets (holds r) (message .broken .tenon 4 0 false true false) 0 0 r) ∧
    (let r := moving (tenon 9 .tstub 1 2 3 1 0)
     Meets (holds r) (message .ack .tenon 4 0 false true true) 0 0 r ∧ Meets (holds r) (message .claim .tenon 4 0 false true true) 0 0 r ∧
       r.claimed = false ∧ r.ha = false ∧ r.hp = false ∧ r.hb = false) ∧
    (let r := { counted (tenon 9 .tstub 1 2 3 1 0) with dn := 4, dfin := false }
     Meets (holds r) (message .ack .tenon 4 0 false true false) 0 0 r ∧ r.claimed = true ∧ r.side = .tenon) ∧
    (let r := { mortise 9 .shut 1 2 3 0 0x4000 with marks := 4 }
     let s := holds r
     (s.recsAt 0).find 0 = some r ∧ r.state = .shut ∧ (∀ i < 128, r.marks.getLsbD i = decide (i = 2)) ∧ r.drops = [] ∧
       carriedRec (s.elemAt 0 r 2) = none ∧ Unmetered s 0 r.part 2) ∧
    (let s := holds (mortise 9 .shut 1 2 3 0 0x4000)
     MemOk s ∧ s.routeFind 0 .mortise 9 = some 9 ∧ routeSlot (s.routeAt 0 9) = 0) ∧
    (Retires (counted (mortise 9 .mstub 1 2 3 0 0x4000)) ∧ Retires (counted (mortise 9 .shut 1 2 3 0 0x4000)) ∧
      Retires (counted (mortise 9 .endSeen 1 2 3 0 0x4000)) ∧ Retires (counted (tenon 9 .tstub 1 2 3 1 0)) ∧ Retires (counted (tenon 9 .tail 1 2 3 1 0)) ∧
      Retires (counted (tenon 9 .broken 1 2 3 1 0)) ∧ ¬ Retires (counted (tenon 9 .openS 1 2 3 1 0)) ∧ ¬ Retires (moving (tenon 9 .tail 1 2 3 1 0))) := by
  unfold Meets IsLater Unmetered MemOk
  refine ⟨?_, ?_, ?_, ?_, ?_, ?_, ?_, ?_, ?_, ?_, ?_, ?_⟩
  case refine_12 => simp +decide [Retires, counted, moving, mortise, tenon, ChanRec.blank]
  all_goals decide +kernel

/-- A launch of partition 0 with two slots on each of two cores. -/
def launchOf (ph : LaunchPhase) (ticket n : Nat) (parent : Option (BitVec 16)) (outcome : Option (BitVec 8)) : Launch :=
  { launch5 with
    phase := ph, ticket := ticket, cores := 2, slots := 2, parent := parent, lnum := BitVec.ofNat 16 n, numbered := ph != .queued
    tag := if ph = .live && parent = none then BitVec.ofNat 8 n else 0, pending := 4, failed := 3, outcome := outcome, vcns := []
    placed := if ph = .queued then 0 else 2 }
/-- Partition 0 holds launches and version states. -/
def launching (l : List Launch) (vst : Map (BitVec 32)) (s : State) : State :=
  s.modPart 0 fun p => { p with launches := l, vst := vst, nextTicket := 9, nextLnum := 7 }
/-- A launch block at an offset of the local store, its address in g4. -/
def block (off cores slots flags pages rsv : Nat) (b : Word) : State :=
  two ((user.store (2 ^ 52 + off) 8 0x4000).storeBytes (2 ^ 52 + off + 8)
    (toBytes 4 cores ++ toBytes 2 slots ++ toBytes 2 flags ++ toBytes 4 pages ++ toBytes 12 rsv)) (BitVec.ofNat 64 (0x7E0000000000 + off)) b
/-- A strand of launch 5. -/
def ofLaunch (s : State) : State := own (fun x => { x with member := true, lnum := 5 }) s
def live5 : Launch := launchOf .live 3 5 none none
def queued4 : Launch := launchOf .queued 4 0 none none
def child5 : Launch := launchOf .queued 5 0 (some 5) none
def over6 : Launch := launchOf .over 6 4 none (some 0x23)
def launches : List Launch := [live5, queued4, child5, over6]

/-- A block at each bound of its fields and beyond; the table full, and one short of it; no such ticket, one queued, and one over; aborts of
the strand's own launch, of one queued, of one live, and of none. -/
theorem witness_LaunchResult :
    (let s := block 0x6FFE0 4 15 3 64 0 7
     let a := reg s 4 + (0 : BitVec 20).signExtend 64
     let b := fun (i n : Nat) => s.load (ownKey s 0x6FFE0 + i) n
     Unheld s .rlx ∧ Ready s false false [4, 6] [5] ∧ OwnStore s a 0x6FFE0 32 ∧ 0x6FFE0 % 32 = 0 ∧ (reg s 6).toNat < 8 ∧ s.cur.osc = 0 ∧
       (1 ≤ b 8 4 ∧ b 8 4 ≤ 4 * (s.partAt s.myPart).quads.length ∧ 1 ≤ b 12 2 ∧ b 12 2 ≤ 15 ∧ b 14 2 < 4 ∧ b 16 4 ≤ 64 ∧ b 20 12 = 0) ∧
       ((s.partAt s.myPart).launches.filter fun l => l.ticketed || l.call.isSome).length < 256) ∧
    (let s := block 0x100 5 15 3 64 0 7
     ¬ (s.load (ownKey s 0x100 + 8) 4 ≤ 4 * (s.partAt s.myPart).quads.length)) ∧
    (let s := launching (List.replicate 256 live5) [] (block 0x100 1 1 0 0 0 7)
     256 ≤ ((s.partAt s.myPart).launches.filter fun l => l.ticketed || l.call.isSome).length) ∧
    (let s := launching launches [(5, 0x40000005)] (ofLaunch (block 0x100 1 1 0 0 0 7))
     s.cur.member = true ∧ ((s.partAt s.myPart).liveLaunch s.cur.lnum) = some live5) ∧
    (let s := launching launches [] (two user 10 0)
     Unreduced s .acq ∧ Ready s false false [4] [5] ∧ ((s.partAt s.myPart).launches.find? fun l => l.ticketed && l.ticket == (reg s 4).toNat) = none) ∧
    (let s := launching launches [] (two user 6 0)
     ((s.partAt s.myPart).launches.find? fun l => l.ticketed && l.ticket == (reg s 4).toNat) = some over6 ∧ over6.phase = .over ∧
       s.pendingWork s.myPart over6.lnum = false) ∧
    (let s := launching launches [] (two user 4 0)
     ((s.partAt s.myPart).launches.find? fun l => l.ticketed && l.ticket == (reg s 4).toNat) = some queued4 ∧ queued4.outcome = none ∧
       queued4.phase = .queued) ∧
    (let s := launching launches [(5, 0x40000005)] (ofLaunch (two user 0xFFFFFFFFFFFFFFFF 0))
     Ready s false false [4] [] ∧ reg s 4 = BitVec.allOnes 64 ∧ (s.partAt s.myPart).liveLaunch s.cur.lnum = some live5) ∧
    (let s := launching launches [] (two user 3 0)
     ((s.partAt s.myPart).launches.find? fun l => l.ticketed && l.ticket == (reg s 4).toNat) = some live5 ∧ live5.phase = .live ∧ live5.parent = none) ∧
    (let s := launching launches [(5, 0x40000005)] user
     s.liveTag 0 5 = true ∧ (∀ x ∈ s.quads, ∀ k ∈ x.2.copies, k.owner.inLaunch 0 5 = false) ∧
       (∀ x ∈ s.dies, ∀ k ∈ x.2.feeds, k.owner.inLaunch 0 5 = false) ∧ (∀ x ∈ s.cores, ∀ k ∈ x.2.truss, k.owner.inLaunch 0 5 = false)) := by
  unfold OwnStore
  refine ⟨⟨unheld_of (by decide +kernel) ⟨rfl, rfl⟩, ready_of (by decide +kernel) (by decide +kernel) (by decide +kernel), ?_⟩, ?_, ?_, ?_,
    ⟨unreduced_of (by decide +kernel), ready_of rfl rfl rfl, ?_⟩, ?_, ?_,
    ⟨ready_of (by decide +kernel) (by decide +kernel) (by decide +kernel), ?_⟩, ?_, ?_⟩ <;> decide +kernel

/-- A way of the shadow stores, and a line of it with two of four quarters dirty. -/
def way (g : Nat) (t : BitVec 8) (ls : Map ShadowLine) : ShadowWay := { gran := g, tag := t, part := 0, lines := ls }
def dirtied : ShadowLine := { dirty := 5, data := BitVec.ofNat 512 (3 ^ 300) }
/-- Die 0 holds ways, and partition 0 waits to spill others. -/
def shadowed (l sp : List ShadowWay) (s : State) : State := (s.modDie 0 fun d => { d with shadows := l }).modPart 0 fun p => { p with spills := sp }

/-- The queue empty; a launch under its own number and tag, and one under its live parent's; a number that no launch has; a live launch alone,
with an elder, and with work pending; a granule committed, with and without a dead one after it; a spill, and none. -/
theorem witness_LaunchLifeResult :
    ((user.partAt 0).head = none ∧ (user.partAt 0).spills = [] ∧ (user.partAt 0).numbered 9 = none) ∧
    (let s := launching [queued4] [(255, 0x40000005), (1, 0x40000002)] user
     (s.partAt 0).head = some queued4 ∧ (∃ v, (s.useClass 0 queued4).chooseCores 0 queued4 = some v) ∧ queued4.parent = none ∧
       (∃ t, (s.useClass 0 queued4).nextTag 0 = some t) ∧ ((s.useClass 0 queued4).liveTags 0).length < 64 ∧ (s.useClass 0 queued4).pendingWork 0 (s.partAt 0).nextLnum = false) ∧
    (let s := launching [child5, live5] [(5, 0x40000005)] user
     (s.partAt 0).head = some child5 ∧ (∃ v, (s.useClass 0 child5).chooseCores 0 child5 = some v) ∧ child5.parent = some 5) ∧
    (let s := launching [live5] [(5, 0x40000005)] user
     (s.partAt 0).numbered live5.lnum = some live5 ∧ live5.ticketed = true ∧ s.pendingWork 0 live5.lnum = false ∧ live5.phase = .live ∧
       (s.finish 0 live5).olderLive 0 live5.tag = false ∧ (s.partAt 0).trOn = false) ∧
    (let s := launching [live5, launchOf .live 2 4 none none] [(5, 0x40000005), (4, 0x40000004)] user
     (s.partAt 0).numbered live5.lnum = some live5 ∧ s.pendingWork 0 live5.lnum = false ∧ (s.finish 0 live5).olderLive 0 live5.tag = true) ∧
    (let s := launching [live5] [(5, 0x40000005)] (ofLaunch user)
     (s.partAt 0).numbered live5.lnum = some live5 ∧ s.pendingWork 0 live5.lnum = true) ∧
    (let s := launching [live5] [(5, 0x80000005), (6, 0x40000006)] (shadowed [way 3 5 [(2, dirtied)]] [] user)
     MemOk s ∧ (s.dieAt (dieOf (3 * 2048))).shadows.filter (fun v => v.gran == 3) = [way 3 5 [(2, dirtied)]] ∧ s.tagState 0 5 = 2 ∧
       (∀ q ∈ s.parts, (∀ v ∈ q.2.spills, v.gran ≠ 3) ∧ q.2.shos.getLsbD 5 = false) ∧ (s.mergeGranule 3).deadGranule 0 = none) ∧
    (let s := launching [live5] [(5, 0x80000005)] (shadowed [way 3 5 [(2, dirtied)], way 4 5 [(31, dirtied)]] [] user)
     (s.mergeGranule 3).deadGranule 0 = some 4) ∧
    (let s := (shadowed [] [way 9 5 [(1, dirtied)]] user).modPart 0 fun p => { p with shob := 0x100000, shos := 0x24 }
     (s.partAt 0).spills = way 9 5 [(1, dirtied)] :: [] ∧
       (((s.modPart 0 fun q => { q with spills := [] }).cleanBucket 0 9).spillLines (way 9 5 [(1, dirtied)])).2.lines = []) := by
  unfold MemOk
  refine ⟨?_, ⟨?_, Option.isSome_iff_exists.mp ?_, ?_, Option.isSome_iff_exists.mp ?_, ?_, ?_⟩, ⟨?_, Option.isSome_iff_exists.mp ?_, ?_⟩, ?_, ?_, ?_, ?_, ?_, ?_⟩ <;>
    decide +kernel

/-- The image of a record in memory: its place, frame, join block, launch number, flags and argument. -/
def recordImage (pc fr j ln fl arg : Nat) : Nat := pc + fr * 2 ^ 64 + j * 2 ^ 128 + ln * 2 ^ 192 + fl * 2 ^ 208 + arg * 2 ^ 224
/-- A record at an offset of the local store, its address in g4 and a VCN in g6. -/
def recordIn (off r : Nat) (v : Word) (s : State) : State := two (s.storeBytes (2 ^ 52 + off) (toBytes 32 r)) (BitVec.ofNat 64 (0x7E0000000000 + off)) v
/-- A core's deque holds `n` records, from a top index. -/
def deque (core n t : Nat) (s : State) : State :=
  s.modCore core fun c => { c with dqb := BitVec.ofNat 32 (n + t), dqt := BitVec.ofNat 32 t }
/-- Strands occupy slots of cores. -/
def seats (l : List (Nat × Nat)) (s : State) : State := l.foldl (fun s e => s.modCore e.1 fun c => { c with slots := (e.2, strand) :: c.slots }) s
/-- A join block at an offset of the local store: its counter, its owner's VCN and its record. -/
def joinBlock (off pend owner r : Nat) (s : State) : State :=
  two (s.storeBytes (2 ^ 52 + off) (toBytes 48 (pend + owner * 2 ^ 48 + r * 2 ^ 128))) (BitVec.ofNat 64 (0x7E0000000000 + off)) 0

/-- The packets to a core's store pass where no router meters any and no earlier packet waits. -/
theorem passes_of {s : State} {core : Nat}
    (h : (Unmetered s s.core s.myPart 0 ∧ (s.quadAt (s.core / 4)).gate = []) ∧ Unmetered s core s.myPart 0 ∧ (s.quadAt (core / 4)).gate = []) :
    Passes s core := .inr fun c hc => by
    rcases hc with rfl | rfl
    · exact h.1
    · exact h.2

/-- A deque one short of full at the wrap of its index; the last offset a user may name; a VCN mapped and the last one, unmapped; a slot open
on all four cores, the last, and none. -/
theorem witness_StrandCreateResult :
    (let s := deque 0 511 0xFFFFFE80 user
     MayJump s [4, 6, 8] [] ∧ s.cur.inRep = false ∧ s.cur.osc = 0 ∧ (s.coreAt s.core).deqLen < 512) ∧
    (let s := deque 1 511 0xFFFFFE80 (recordIn 0x6FFE0 (recordImage 0x4000 0x100 0x200 5 0x0004 9) 1 user)
     OwnStore s (reg s 4) 0x6FFE0 32 ∧ 0x6FFE0 % 32 = 0 ∧ Unheld s .rlx ∧ Ready s false false [4, 6] [] ∧ Passes s 1 ∧ (reg s 6).toNat < 2 ^ 11 ∧
       s.vcnCore s.myPart (reg s 6).toNat = some 1 ∧ (s.coreAt 1).deqLen < 512) ∧
    (let s := recordIn 0x100 0 0x7FF user
     (reg s 6).toNat < 2 ^ 11 ∧ s.vcnCore s.myPart (reg s 6).toNat = none) ∧
    (let s := seats ((List.range 15).map fun i => (1, i)) (recordIn 0x100 0 0 user)
     s.cur.occupied = true ∧ ∀ n < 15, ¬ ∀ i < 4, Vacant s i n) ∧
    (let s := launching launches [(5, 0x40000005)] (ofLaunch (seats ((List.range 14).map fun i => (1, i)) (recordIn 0x100 (recordImage 0x4000 0x100 0x200 0 0 9) 0 user)))
     (∀ i < 4, Vacant s i 14) ∧ (∀ j < 14, ¬ ∀ i < 4, Vacant s i j) ∧ (mine s (recordAt s (ownKey s 0x100))).l = true ∧
       (s.partAt s.myPart).liveLaunch s.cur.lnum ≠ none) := by
  unfold OwnStore Vacant
  refine ⟨⟨⟨?_, ?_, by unfold NoSlot; decide, ?_⟩, ?_⟩, ⟨?_, ?_, unheld_of (by decide +kernel) ⟨rfl, rfl⟩, ready_of (by decide +kernel) (by decide +kernel) (by decide +kernel), passes_of (by unfold Unmetered; decide +kernel), ?_⟩, ?_, ?_, ?_⟩
  · unfold Written; decide +kernel
  · unfold Untagged; decide +kernel
  · exact fun h => absurd h (by decide)
  all_goals decide +kernel

/-- The strand reaches 0x5000 to 0x5FFF at 0x20000; its partition has the quads 0 and 5. -/
def wide (a : Word) : State :=
  withReg ((({ user with sys := { user.sys with ast := [(0, 1)] } }.modQuad 5 fun q => { q with landing := [] }).modPart 0 fun p => { p with quads := [0, 5] }).modCore 0 fun c => { c with l1tlb := [page 0x5000 0xC0F] }) 4 a

/-- A block's counter at 2, at 1 of this core and of another, and at 0, the block in the last place; no block, a launch's counter; a strand
tied and not, an address of the local store, and pages of both quads. -/
theorem witness_StrandEndResult :
    (let s := joinBlock 0x6FFD0 2 0 0 user
     Settled s ∧ Unheld s .rlx ∧ (s.partAt s.myPart).replay = .off ∧ Written s [4] ∧ Untagged s [4] ∧ OwnStore s (address s 4 mf) 0x6FFD0 48 ∧ 0x6FFD0 % 16 = 0 ∧ 1 < s.load (ownKey s 0x6FFD0) 4) ∧
    (let s := joinBlock 0x100 1 0 (recordImage 0x4000 0x100 0x200 5 0x8004 9) user
     Settled s ∧ s.load (ownKey s 0x100) 4 = 1 ∧ (s.vcnCore s.myPart (s.load (ownKey s 0x100 + 6) 2)).getD s.core = s.core) ∧
    (let s := deque 1 511 0 (joinBlock 0x100 1 1 0 user)
     Ready s false false [4] [] ∧ Passes s 1 ∧ s.load (ownKey s 0x100) 4 = 1 ∧ (s.vcnCore s.myPart (s.load (ownKey s 0x100 + 6) 2)).getD s.core = 1 ∧ 1 ≠ s.core ∧ (s.coreAt 1).deqLen < 512) ∧
    (let s := joinBlock 0x100 0 0 0 user
     s.load (ownKey s 0x100) 4 = 0) ∧
    (let s := own (fun x => { x with jb := 0x7E0000000100 }) (joinBlock 0x100 2 0 0 user)
     Settled s ∧ OwnStore s s.cur.jb 0x100 48 ∧ s.load (ownKey s 0x100) 4 = 2 ∧ user.cur.jb = 0 ∧ (own (fun x => { x with jb := 0x8000000000000003 }) user).cur.jb.getLsbD 63 = true) ∧
    (let s := own (fun x => { x with jb := 0x7E0000000100 }) (deque 1 511 0 (joinBlock 0x100 1 1 0 user))
     Settled s ∧ Passes s 1 ∧ OwnStore s s.cur.jb 0x100 48 ∧ s.load (ownKey s 0x100) 4 = 1 ∧
       (s.vcnCore s.myPart (s.load (ownKey s 0x100 + 6) 2)).getD s.core = 1 ∧ (s.coreAt 1).deqLen < 512 ∧
       (joinBlock 0x100 0 1 0 user).load (ownKey s 0x100) 4 = 0) ∧
    (let s := launching [launchOf .live 5 0 (some 4) none] [] user
     let jb : Word := 0x8000000000000005
     jb.getLsbD 63 = true ∧ (s.partAt 0).byTicket (jb.toNat % 2 ^ 62) = some (launchOf .live 5 0 (some 4) none) ∧ s.holds 0 (soughtJoin jb) = false ∧
       (own (fun x => { x with jb := jb }) s).holds 0 (soughtJoin jb) = true) ∧
    (user.cur.tags = 0 ∧ user.cur.isGang = false) ∧
    (let tied := fun (x : Slot) => decide (x.anchored ∨ x.holdsEnd ∨ x.isNb ∨ x.pin ∨ x.isGang)
     tied user.cur = false ∧ tied { user.cur with pin := true } = true) ∧
    (let s := two user 0x7E0000000000 0
     Written s [4] ∧ Untagged s [4] ∧ s.cur.inRep = false ∧ NoSlot s ∧ OwnStore s (reg s 4) 0 1) ∧
    (Reachable (wide 0x5808) (reg (wide 0x5808) 4) 1 false 0x20808 ∧ (wide 0x5808).homeQuadOf 0x20808 = (wide 0x5808).core / 4) ∧
    (Reachable (wide 0x5008) (reg (wide 0x5008) 4) 1 false 0x20008 ∧ (wide 0x5008).homeQuadOf 0x20008 ≠ (wide 0x5008).core / 4 ∧
      (wide 0x5008).cur.pend = 0 ∧ ((wide 0x5008).quadAt ((wide 0x5008).core / 4)).gate = [] ∧ ((wide 0x5008).quadAt ((wide 0x5008).homeQuadOf 0x20008)).landing.length < 16) := by
  unfold Settled Written Untagged OwnStore NoSlot
  refine ⟨⟨?_, unheld_of (by decide +kernel) ⟨rfl, rfl⟩, ?_⟩, ?_, ⟨ready_of (by decide +kernel) (by decide +kernel) (by decide +kernel), passes_of (by unfold Unmetered; decide +kernel), ?_⟩, ?_, ?_,
    ⟨?_, passes_of (by unfold Unmetered; decide +kernel), ?_⟩, ?_, ?_, ?_, ?_, ⟨reachable_of (page 0x5000 0xC0F) (homeReady_of (by decide +kernel)) (cacheRoom_of (by decide +kernel)) (by decide +kernel) (fun _ h => (by cases h)) ⟨rfl, rfl⟩ (by decide +kernel) rfl, ?_⟩,
    ⟨reachable_of (page 0x5000 0xC0F) (homeReady_of (by decide +kernel)) (cacheRoom_of (by decide +kernel)) (by decide +kernel) (fun _ h => (by cases h)) ⟨rfl, rfl⟩ (by decide +kernel) rfl, ?_⟩⟩ <;> decide +kernel

/-- A strand's context is saved in entry 2 of core 0's VCN. -/
def cachedOnce (s : State) : State := s.saveContext 0 0 2 { strand with pc := 0x7777, sid := 44 }
/-- The slice of slot 3 stands at 20 of a length, in a core with a cost of a switch. -/
def sliced (x : Slot) (len : BitVec 32) (cost : Nat) : State :=
  (user.modSlot 0 3 fun _ => { x with slice := 20 }).modCore 0 fun c => { c with sliceLen := len, cost := cost, cycle := 100 }
/-- A strand that migrates. -/
def migrant : Migrant := { slot := { strand with pc := 0x4444, sid := 77, jb := 8 }, part := 0 }

/-- Each occurrence with something to do and with nothing, a pop from either end of the deque, and a switch due, deferred and not due. -/
theorem witness_SlotEventsResult :
    (let s := deque 0 1 0xFFFFFFFF user
     (s.coreAt 0).up = true ∧ (s.coreAt 0).frozen = false ∧ Vacant s 0 14 ∧ s.cached 0 = [] ∧ (s.coreAt 0).deqLen ≠ 0 ∧ (s.coreAt 0).popN ≠ 63) ∧
    (let s := (deque 0 512 0 user).modCore 0 fun c => { c with popN := 63 }
     Vacant s 0 0 ∧ s.cached 0 = [] ∧ (s.coreAt 0).deqLen ≠ 0 ∧ (s.coreAt 0).popN = 63) ∧
    ((user.coreAt 0).deqLen = 0 ∧ (user.coreAt 0).batches = 0 ∧ (user.coreAt 0).deqWait = [] ∧ ¬ Vacant user 0 3) ∧
    (let s := deque 0 511 0 (user.modCore 0 fun c => { c with deqWait := [BitVec.ofNat 256 (3 ^ 100)] })
     (s.coreAt 0).deqWait = [BitVec.ofNat 256 (3 ^ 100)] ∧ (s.coreAt 0).deqLen < 512) ∧
    (let s := deque 3 1 0 user
     s.isEmptyCore 2 = true ∧ (s.partAt (s.partOf 2)).replay = .off ∧ 2 / 4 * 4 + ((s.coreAt 2).stealSib + 1) % 4 = 1 ∧
       (let t := s.modCore 2 fun c => { c with stealSib := 2 }
        2 / 4 * 4 + ((t.coreAt 2).stealSib + 1) % 4 = 3 ∧ (t.coreAt 3).up = true ∧ (t.coreAt 3).frozen = false ∧ (t.coreAt 3).deqLen ≠ 0 ∧
          t.isEmptyCore 3 = false)) ∧
    (let s := seats ((List.range 14).map fun i => (1, i)) (seats (((List.range 15).filter (· ≠ 3)).map fun i => (0, i)) (user.modQuad 0 fun q => { q with landing := [migrant] }))
     (s.quadAt 0).landing = [migrant] ∧ (s.partAt 0).replay = .off ∧ s.partOf 1 = 0 ∧ (s.coreAt 1).up = true ∧ (s.coreAt 1).frozen = false ∧
       Vacant s 1 14 ∧ (∀ n < 15, ¬ Vacant s 0 n) ∧ (∀ n < 14, ¬ Vacant s 1 n) ∧ (user.quadAt 0).landing = []) ∧
    ((user.slotAt 0 3).restoring = false ∧ ((sliced { strand with restoring := true } 20 5).slotAt 0 3).restoring = true ∧
       ((sliced { strand with restoring := true } 20 5).slotAt 0 3).switchAt = none ∧
       ((sliced { strand with restoring := true, switchAt := some 70 } 20 5).slotAt 0 3).switchAt = some 70) ∧
    (let due := fun (s : State) => decide (
       (s.slotAt 0 3).occupied = true ∧ (s.slotAt 0 3).isGang = false ∧ (s.coreAt 0).sliceLen ≠ 0 ∧
         max (s.coreAt 0).sliceLen.toNat (s.coreAt 0).cost ≤ (s.slotAt 0 3).slice ∧ (s.coreAt 0).saving = none)
     due (sliced strand 20 20) = true ∧ (cachedOnce (sliced strand 20 20)).sliceDeferred 0 3 = false ∧ due (sliced { strand with status := 4 } 20 20) = true ∧
       ((sliced { strand with status := 4 } 20 20).slotAt 0 3).ds ≠ 0 ∧ due (sliced strand 21 5) = false ∧ due (sliced strand 20 21) = false ∧
       due (sliced { strand with occupied := false } 20 5) = false ∧ due (sliced { strand with kill := some true } 20 20) = true) ∧
    (let s := cachedOnce (sliced strand 20 20)
     let soft := s.modDie (dieOf (s.frameAddr 0 0 16)) fun d => { d with dir := [(s.frameAddr 0 0 16 / 64, setBit (setField 0 54 2 1) 53 true)] }
     (∀ d ∈ s.dies, ∀ e ∈ d.2.dir, e.2.getLsbD 53 = false) ∧ s.sliceDeferred 0 3 = false ∧ soft.sliceDeferred 0 3 = false ∧ (soft.framesFree 0).2 = false ∧
     ∃ e, s.cached 0 = [e] ∧ (s.coreAt 0).deqLen = 0 ∧ (s.coreAt 0).batches = 0 ∧
       ∃ f, (s.takeContext 0 3 e).1.freeEntry 0 = some f) := by
  unfold Vacant
  refine ⟨?_, ?_, ?_, ?_, ?_, ?_, ?_, ?_, ⟨?_, ?_, ?_, ?_, 2, ?_, ?_, ?_, Option.isSome_iff_exists.mp ?_⟩⟩ <;> decide +kernel

/-- Core 0, changed. -/
def ofCore (f : Core → Core) : State := user.modCore 0 f
/-- All the cores of die 0 have arrived but core 0, whose timer is at its end. -/
def arriving : State :=
  { user with
    cores := (List.range 256).map fun i => (i, { core0 i [] with arrived := decide (i ≠ 0), framing := if i = 0 then 0 else 5 }), parts := [] }

/-- A record that waits, with room for one, with none, and to start the supervisor; an arrival before its time, late, not the last, and the
last of its die; the ratio of a window at its threshold. -/
theorem witness_ClockEventsResult :
    (((ofCore id).coreAt 0).held = [] ∧ ((ofCore id).coreAt 0).framing ≠ 0) ∧
    (let s := ofCore fun c => { c with held := [record], trapQ := List.replicate 15 record }
     (s.coreAt 0).held = [record] ∧ (s.coreAt 0).trapQ.length < 16) ∧
    (let s := ofCore fun c => { c with held := [record] }
     (s.coreAt 0).trapQ = [] ∧ (s.slotAt 0 15).occupied = false ∧ (s.coreAt 0).halted = false) ∧
    ((ofCore fun c => { c with held := [record], trapQ := List.replicate 16 record }).coreAt 0).trapQ.length = 16 ∧
    (let s := ofCore fun c => { c with framing := 0, arrived := true }
     (s.coreAt 0).up = true ∧ (s.coreAt 0).framing = 0 ∧ (s.coreAt 0).lateArr = false ∧ (s.coreAt 0).arrived = true) ∧
    (let s := ofCore fun c => { c with framing := 0 }
     (s.coreAt 0).up = true ∧ (s.coreAt 0).framing = 0 ∧ (s.coreAt 0).lateArr = false ∧ (s.coreAt 0).arrived = false ∧ (s.coreAt 255).arrived = false) ∧
    ((arriving.coreAt 0).up = true ∧ (arriving.coreAt 0).framing = 0 ∧ (arriving.coreAt 0).lateArr = false ∧ (arriving.coreAt 0).arrived = false ∧
      (∀ k < 256, 0 * 256 + k ≠ 0 → (arriving.coreAt (0 * 256 + k)).arrived = true) ∧ arriving.parts = [] ∧ (arriving.dieAt 0).swaps = [] ∧
      (∀ e ∈ arriving.cores, e.2.restVcn = none)) ∧
    (let asked := fun (c : OperatorChange) => ({ arriving with sys := { arriving.sys with operator := [c] } } : State)
     (asked (.region 0 63 7)).sys.operator = [.region 0 63 7] ∧ (asked (.budget 63 (2 ^ 4) 9)).sys.operator = [.budget 63 (2 ^ 4) 9] ∧ 63 / 64 = 0 ∧
       (asked (.control 0 31 0xFF07C7)).sys.operator = [.control 0 31 0xFF07C7] ∧ (asked (.control 0 31 7)).sys.operator = [.control 0 31 7]) ∧
    (let p : Packet := { key := 3, flits := 7, event := .budgetWindow 0 }
     let s := user.modQuad 0 fun q => { q with packets := [p] }
     (s.quadAt 0).packets = [p] ∧ (s.quadAt 0).traces = [] ∧ (user.quadAt 0).packets = []) ∧
    (let s := ofCore fun c => { c with winOps := 640, winBytes := 10, slots := [(3, { strand with issuedInWindow := true })] }
     ((s.dieAt 0).control (s.partOf 0)).toNat / 2 ^ 16 % 256 * 10 = 640 ∧ ¬ ∀ e ∈ (s.coreAt 0).slots, e.1 < 15 → e.2.issuedInWindow = false) := by
  refine ⟨?_, ?_, ?_, ?_, ?_, ?_, ?_, ?_, ?_, ?_⟩ <;> decide +kernel

/-- A vector register of the issuing strand holds `f`, lane by lane; mask register 2 selects some lanes. -/
def lanes (k : Nat) (f : Nat → Nat) (s : State) : State :=
  own (fun x => { x with v := x.v.set! k (BitVec.ofNat 1024 (((List.range 32).map fun l => f l % 2 ^ 32 * 2 ^ (32 * l)).sum)) }) s
def masked (s : State) : State := own (fun x => { x with m := x.m.set! 2 0x0F0F5A81 }) s
/-- A form V of a type with an immediate and an aux field. -/
def vform (t : ElemType) (imm : BitVec 16) (aux : BitVec 4) (m : MReg) : VForm := { vf t with imm := imm, aux := aux, mask := m }
/-- Ring 1 of core 0, of 4 slots of 128 bytes from 0x1000. -/
def vring (tail head ck pk : Nat) : State :=
  user.store (2 ^ 52 + 0x78010) 16 (tail * 2 ^ 80 + head * 2 ^ 64 + 2 ^ 63 + ck * 2 ^ 37 + pk * 2 ^ 34 + 2 * 2 ^ 30 + 2 ^ 26 + 0x1000)

/-- Each integer type, and a floating one of each width. -/
theorem witness_IntegerVectorResult :
    (∀ t ∈ [ElemType.i8, .i16, .i32], (vf t).type.isInt = true) ∧ Ready user false false [] [] :=
  ⟨by decide, ready_user⟩
theorem witness_FloatVectorResult : Ready user false false [] [] := ready_user

/-- All the lanes to the last byte of the program range; a gather by negative and scaled indices under a mask; the last slot filled and the
last free, and one beyond each; a ring of another kind. -/
theorem witness_VectorMemoryResult :
    (let s := two user 0x7E000006FFE8 0
     let v := vform .f32 0xFF98 0 0
     Ready s false false [4] [] ∧ Unheld s .rlx ∧
       LanesReach s v.mask 4 (fun l => reg s 4 + v.imm.signExtend 64 + BitVec.ofNat 64 (4 * l)) (fun l => 0x6FF80 + 4 * l)) ∧
    (let s := masked (lanes 2 (fun l => 2 ^ 32 - l) (two user 0x7E0000001000 0))
     let v := vform .i16 0 3 2
     Ready s false false [4] [] ∧ Unheld s .rlx ∧
       LanesReach s v.mask 2 (fun l => reg s 4 + v.imm.signExtend 64 + ((BitVec.ofNat 32 (laneOf s 2 l)).signExtend 64 <<< (v.aux.toNat % 4)))
         (fun l => 0x1000 - 8 * l)) ∧
    (let s := vring 65535 2 0 0
     let r := s.ring s.core 1
     let v := vform .f32 2 0 0
     Ready s false false [] [] ∧ Unheld s .rlx ∧ r.valid = true ∧ r.ckind = 0 ∧ r.pkind = 0 ∧ 32 * 4 ≤ r.slotBytes ∧ v.imm.toNat % 256 < r.filled ∧ r.filled ≤ 3 ∧
       LanesReach s v.mask 4 (fun l => BitVec.ofNat 64 (0x7E0000000000 + r.slotOff (r.tail + 2)) + BitVec.ofNat 64 (4 * l)) (fun l => 0x1080 + 4 * l)) ∧
    (let s := vring 65534 1 0 0
     let r := s.ring s.core 1
     r.valid = true ∧ r.pkind = 0 ∧ 0 < r.free ∧ r.free ≤ 1 ∧
       LanesReach s 0 4 (fun l => BitVec.ofNat 64 (0x7E0000000000 + r.slotOff (r.head + 0)) + BitVec.ofNat 64 (4 * l)) (fun l => 0x1080 + 4 * l)) ∧
    (let r := (vring 0 1 2 2).ring 0 1
     ¬ (r.valid = true ∧ r.ckind = 0 ∧ 32 * 4 ≤ r.slotBytes) ∧ ¬ (r.valid = true ∧ r.pkind = 0 ∧ 32 * 4 ≤ r.slotBytes)) := by
  unfold LanesReach OwnStore Selected
  refine ⟨⟨ready_of rfl rfl rfl, unheld_of rfl ⟨rfl, rfl⟩, ?_⟩, ⟨ready_of (by decide +kernel) (by decide +kernel) (by decide +kernel), unheld_of (by decide +kernel) ⟨rfl, rfl⟩, ?_⟩,
    ⟨ready_of (by decide +kernel) (by decide +kernel) (by decide +kernel), unheld_of (by decide +kernel) ⟨rfl, rfl⟩, ?_⟩, ?_, ?_⟩ <;> decide +kernel

/-- Each shape; a reduction of each kind of type; a transform of 32 aligned elements, and not aligned; all lanes zero, one not finite, and the
greatest in a lane. -/
theorem witness_VectorMoveAndReduceResult :
    (Ready user false false [] [] ∧ Ready user false false [4] [] ∧ Ready user false false [] [5] ∧ auxType 12 = some .e5m2 ∧
      (vf .i8).type.isInt = true ∧ (vf .bf16).type.isInt = false) ∧
    (Ready (two user 0 0xFFFFFFFFFFFFFFE0) false false [4, 6] [] ∧ (reg (two user 0 0xFFFFFFFFFFFFFFE0) 6).toNat % 32 = 0 ∧
      (reg (two user 0 1) 6).toNat % 32 ≠ 0) ∧
    (let s := lanes 2 (fun l => if l = 31 then 0x7F800000 else 0) user
     Selected s 0 31 ∧ fp32.value (laneOf s 2 31) = .inf false) ∧
    (let s := lanes 2 (fun l => 0x80000000 * l) user
     ∀ l < 32, fp32.value (laneOf s 2 l) = .fin (decide (l % 2 = 1)) 0 (-149)) ∧
    (let s := lanes 2 (fun l => if l = 31 then 0x00000001 else 0) user
     (∀ l < 32, ∃ b, fp32.value (laneOf s 2 l) = .fin false b (-149)) ∧ fp32.value (laneOf s 2 31) = .fin false 1 (-149) ∧
       ∀ l < 32, ¬ (fp32.value (laneOf s 2 31)).abs.lt (fp32.value (laneOf s 2 l)).abs) := by
  refine ⟨⟨ready_user, ready_user, ready_user, by decide, by decide, by decide⟩, ⟨ready_of rfl rfl rfl, by decide +kernel⟩, ?_, by decide +kernel, ?_, ?_, ?_⟩
  · unfold Selected; decide +kernel
  · intro l h
    exact ⟨_, (show ∀ l < 32, fp32.value (laneOf (lanes 2 (fun l => if l = 31 then 0x00000001 else 0) user) 2 l) = .fin false (if l = 31 then 1 else 0) (-149) by decide +kernel) l h⟩
  · decide +kernel
  · decide +kernel

/-- A distribution register whose lanes all have the points `f` and the weights `w`. -/
def dreg (lineage : BitVec 16) (w f : Nat → Nat) : DistReg where
  image := BitVec.ofNat 6144 (((List.range 16).map fun n => (mkLane ((List.range 8).map f) ((List.range 8).map w)).toNat * 2 ^ (384 * n)).sum)
  lineage := lineage
/-- Registers 1 and 2 hold distributions. -/
def dists (a b : DistReg) (s : State) : State := own (fun x => { x with d := (x.d.set! 1 a).set! 2 b }) s
/-- Weights that are even, and weights that are not of the full sum. -/
def evenly : Nat → Nat := fun _ => 0x1000
def pointed : Nat → Nat := fun i => if i = 0 then 0x8000 else 0

/-- Distributions of one lineage, of none, of lineages that meet with other weights, and apart; a point mass at the last quantile; lanes in
memory normal and not, to the last byte, and a lineage beyond 16 bits. -/
theorem witness_DistributionResult :
    (Ready user false false [] [] ∧ Ready user false false [] [5] ∧ Ready user false false [4, 6] [] ∧ Ready user false false [6] []) ∧
    (let s := dists (dreg 3 evenly fun i => i) (dreg 3 evenly fun i => i) user
     (s.cur.dist 1).lineage = (s.cur.dist 2).lineage ∧ (s.cur.dist 1).lineage ≠ 0) ∧
    (let s := dists (dreg 3 evenly fun i => i) (dreg 1 pointed fun i => i) user
     (s.cur.dist 1).lineage &&& (s.cur.dist 2).lineage ≠ 0 ∧ pointW ((s.cur.dist 1).lane 15) 7 ≠ pointW ((s.cur.dist 2).lane 15) 7) ∧
    (let s := dists (dreg 0xFF00 evenly fun i => i) (dreg 0x00FF pointed fun i => i) user
     (s.cur.dist 1).lineage &&& (s.cur.dist 2).lineage = 0) ∧
    (let l := (dreg 0 pointed fun i => i).lane 15
     pointW l 0 = 0x8000 ∧ (∀ i < 8, 0 < i → pointW l i = 0) ∧ (0x8000 : BitVec 16).toNat ≤ 0x8000) ∧
    (let s := two (user.storeBytes (2 ^ 52 + 0x6FD00 + 48 * 15) (toBytes 48 (mkLane [1, 2] [0x7FFF, 1]).toNat)) 0x7E000006FD00 0xFFFF
     Unheld s .rlx ∧ OwnStore s (reg s 4 + (vf .f32).imm.signExtend 64) 0x6FD00 768 ∧ (reg s 6).toNat < 2 ^ 16 ∧ MemOk s ∧
       ((List.range 8).map (pointW (BitVec.ofNat 384 (s.load (ownKey s 0x6FD00 + 48 * 15) 48)))).sum = 0x8000) ∧
    (let s := two user 0x7E0000000000 0x10000
     ((List.range 8).map (pointW (BitVec.ofNat 384 (s.load (ownKey s 0) 48)))).sum ≠ 0x8000 ∧ 2 ^ 16 ≤ (reg s 6).toNat) := by
  unfold OwnStore MemOk
  refine ⟨⟨ready_user, ready_user, ready_user, ready_user⟩, ?_, ?_, ?_, ?_, ⟨unheld_of (by decide +kernel) ⟨rfl, rfl⟩, ?_⟩, ?_⟩ <;> decide +kernel

/-- A descriptor of a matrix in the local store at 0x2000: its columns, rows, row pitch and format. -/
def matrix (cols rows pitch fmt : Nat) : Desc :=
  BitVec.ofNat 512 (0x7E0000002000 + 2 ^ 192 * cols + 2 ^ 208 * rows + 2 ^ 256 * (fmtBits fmt / 8) + 2 ^ 288 * pitch + 2 ^ 384 * (fmt + 64 * 2))
/-- Core 0 has a descriptor in register 3 and commands in its truss. -/
def trussed (d : Desc) (l : List TrussCmd) (s : State) : State := s.modCore 0 fun c => { c with descs := [(3, d)], truss := l, newPlane := true }
/-- A form T of descriptor 3. -/
def tform (row0 : BitVec 8) (count : BitVec 12) (koff noff : BitVec 16) : TForm :=
  { tf with ta := 3, row0 := row0, count := count, koff := koff, noff := noff }
/-- A command of the strand, at an offset. -/
def trussCommand (i : Instr) (d : Desc) (o : Nat) (started : Bool) : TrussCmd where
  instr := i
  swap := false
  stream := 2
  owner := user.owner
  token := 5
  started := started
  offset := o
  susp := none
  ta := d
  tb := 0
  remote := false
def swapCommand : TrussCmd := { trussCommand .mswap 0 0 false with swap := true }

theorem ran_ok {α : Type} {o : Except Stop (α × State)} {P : α → State → Prop} [∀ a u, Decidable (P a u)]
    (h : (match o with
      | .ok p => decide (P p.1 p.2)
      | .error _ => false) = true) : ∃ a u, o = .ok (a, u) ∧ P a u := by
  cases o with
  | error => cases h
  | ok p => exact ⟨p.1, p.2, rfl, of_decide_eq_true h⟩

/-- Kicks that the checks admit and refuse, at the last row of the plate and beyond, with room for one and for none, and of no rows; each
operation through a peg of a grant; a descriptor in memory; the first and the last row and column of each command, and planes exchanged. -/
theorem witness_TrussResult :
    (let s := trussed (matrix 256 8 512 9) [] user
     MayKick s 5 ∧ s.cur.inRep = false ∧ (s.coreAt s.core).truss.length < 32 ∧ trussCheck s s.core (.lsta 5 (tform 0 0 64 0)) = none ∧
       trussCheck s s.core (.mstrm 5 (tform 255 1 64 0)) = none ∧ trussCheck s s.core (.mout 5 false (tform 250 6 64 0)) = none ∧
       trussCheck s s.core (.mzero 5 (tform 0 0x100 0 0)) = none ∧ trussCheck s s.core (.mzero 5 (tform 0 0x101 0 0)) ≠ none) ∧
    (let s := vring 0 0 1 1 |> trussed (matrix 256 8 1024 8) []
     MayKick s 5 ∧ trussCheck s s.core (.moutRing 5 1 false (tform 0 1 0 0)) ≠ none) ∧
    (let s := trussed (matrix 256 8 512 9) (List.replicate 32 (trussCommand (.mzero 5 (tform 1 1 0 0)) 0 0 false)) user
     ¬ (s.coreAt s.core).truss.length < 32 ∧ trussCheck s s.core (.mzero 5 (tform 0 1 0 0)) = none) ∧
    (let s := withJoint (two ((trussed (matrix 256 8 512 9) [] user).modCore 0 fun c => { c with grants := [(63, (7, 2))] }) 0 0xD5) 4 (jointWord 3 63 7)
     Written s [4, 6] ∧ Untagged s [6] ∧ MayKick s 5 ∧ s.cur.inRep = false ∧ s.cur.tags.getLsbD 4 = true ∧ (reg s 4).toNat / 2 ^ 24 % 4 = 3 ∧
       s.vcnCore s.myPart ((reg s 4).toNat / 2 ^ 13 % 2 ^ 11) = some 0 ∧ (s.coreAt 0).grants.get (0, 0) ((reg s 4).toNat % 2 ^ 6) = (7, 2) ∧
       (reg s 4).toNat / 2 ^ 32 = 7 ∧ (Instr.mout 5 false (tform 0 1 0 0)).wf = true ∧ trussCheck s 0 (.mout 5 false (tform 0 1 0 0)) = none) ∧
    (let s := two (user.storeBytes (2 ^ 52 + 0x6FFC0) (toBytes 64 (matrix 256 8 512 9).toNat)) 0x7E000006FFC0 0
     Unheld s .rlx ∧ Ready s false false [4] [] ∧ OwnStore s (reg s 4) 0x6FFC0 64 ∧ 0x6FFC0 % 64 = 0 ∧ descRefused (BitVec.ofNat 512 (s.load (ownKey s 0x6FFC0) 64)) = false) ∧
    (let s := two user 0x7E0000000000 0
     OwnStore s (reg s 4) 0 64 ∧ descRefused (BitVec.ofNat 512 (s.load (ownKey s 0) 64)) = true ∧ (reg (two user 1 0) 4).toNat % 64 ≠ 0) ∧
    Ready user false false [] [5] ∧
    (let t := tform 0 0 64 0
     let k := trussCommand (.lsta 5 t) (matrix 128 200 256 9) 127 true
     let s := trussed (matrix 128 200 256 9) [k] user
     (s.coreAt 0).weightHead = some (0, k) ∧ (s.coreAt 0).streamHeld k.stream = false ∧ s.progOf (k.agent s 0) = Progress.none ∧
       s.hostOf (k.agent s 0) = none ∧ s.sectorsOf 0 k = [] ∧ (∀ x ∈ (s.coreAt 0).truss.take 0, x.swap = false) ∧
       (∃ a u, loadColumn 0 k s = .ok (a, u) ∧ a = () ∧ (u.coreAt 0).trussAt k = some 0) ∧ descFmt k.ta = 9 ∧ descLayout k.ta = 0 ∧ k.owner.super = false ∧
       t.noff.toNat + k.offset < descRows k.ta ∧ t.koff.toNat + 64 ≤ descDim k.ta 0 ∧ EngineReach s 0 0x9F80 128 ∧
       BitVec.ofNat 64 (descBase k.ta + (t.noff.toNat + k.offset) * descStride k.ta 1 + t.koff.toNat * 2) = BitVec.ofNat 64 (0x7E0000000000 + 0x9F80)) ∧
    ((user.coreAt 0).weightHead = none ∧ (∀ x ∈ (user.coreAt 0).truss, x.swap = false) ∧ (user.coreAt 0).streamHead 2 = none) ∧
    (let k := trussCommand (.mout 5 false (tform 3 3 0 0)) (matrix 256 8 1024 8) 1 true
     let s := trussed 0 [k, swapCommand] user
     (s.coreAt 0).truss[1]? = some swapCommand ∧ (∀ x ∈ (s.coreAt 0).truss.take 1, x.swap = false ∧ onWeightPath x.instr = false ∧ streamsRows x.instr = false) ∧
       s.rowBusy 0 4 = false ∧ (s.coreAt 0).slotOf swapCommand.owner.sid = some 3) ∧
    (let k := trussCommand (.mstrm 5 (tform 3 3 0 0)) (matrix 128 200 256 9) 1 true
     let s := trussed 0 [k, swapCommand] user
     (s.coreAt 0).truss[1]? = some swapCommand ∧ (∀ x ∈ (s.coreAt 0).truss.take 1, x.swap = false) ∧ ∃ x ∈ (s.coreAt 0).truss.take 1, streamsRows x.instr = true) ∧
    (let t := tform 254 2 0 0
     let k := trussCommand (.mzero 5 t) 0 0 false
     let s := trussed 0 [k] user
     (s.coreAt 0).streamHead 2 = some (0, k) ∧ (s.coreAt 0).trussAt k = some 0 ∧ (s.coreAt 0).streamHeld 2 = false ∧ s.rowBusy 0 2 = false ∧
       t.row0.toNat + t.count.toNat ≤ 32768 / 128 ∧ k.offset < t.count.toNat) ∧
    (let t := tform 3 3 128 2
     let k := trussCommand (.mout 5 false t) (matrix 256 8 1024 8) 2 true
     let s := trussed 0 [k] user
     (s.coreAt 0).streamHead 2 = some (0, k) ∧ s.progOf (k.agent s 0) = Progress.none ∧ s.hostOf (k.agent s 0) = none ∧
       (s.coreAt 0).trussAt k = some 0 ∧ (s.coreAt 0).streamHeld 2 = false ∧ s.rowBusy 0 2 = false ∧ t.row0.toNat + k.offset < 32768 / 128 ∧ k.offset < t.count.toNat ∧ descFmt k.ta = 8 ∧
       k.owner.super = false ∧ t.noff.toNat + k.offset < descRows k.ta ∧ t.koff.toNat + 128 ≤ descDim k.ta 0 ∧ EngineReach s 0 0x3200 (4 * 128) ∧
       descAddr k.ta t.koff.toNat (t.noff.toNat + k.offset) = BitVec.ofNat 64 (0x7E0000000000 + 0x3200)) ∧
    (let t := tform 3 1 64 0
     let k := trussCommand (.mstrm 5 t) (matrix 128 200 256 9) 0 false
     let s := trussed 0 [k] user
     (s.coreAt 0).streamHead 2 = some (0, k) ∧ (s.coreAt 0).trussAt k = some 0 ∧ (s.coreAt 0).streamHeld 2 = false ∧ s.rowBusy 0 2 = false ∧
       (s.coreAt 0).active.had = false ∧
       ∃ a u, activationRow 0 k s = .ok (a, u) ∧ (u.coreAt 0 = s.coreAt 0 ∧ a.length = 64)) ∧
    (let k := trussCommand (.mzero 5 (tform 254 2 0 0)) 0 0 false
     let l := { trussCommand (.lsta 5 (tform 0 0 64 0)) (matrix 128 200 256 9) 1 true with susp := some 0x10 }
     let s := trussed 0 [k, l] user
     (s.coreAt 0).streamHead 2 = some (0, k) ∧ (s.coreAt 0).weightHead = some (1, l) ∧ (s.coreAt 0).streamHeld 2 = true) := by
  unfold MayKick OwnStore EngineReach Written Untagged
  refine ⟨?_, ?_, ?_, ?_, ⟨unheld_of (by decide +kernel) ⟨rfl, rfl⟩, ready_of (by decide +kernel) (by decide +kernel) (by decide +kernel), ?_⟩, ?_, ready_user,
    ⟨?_, ?_, ?_, ?_, ?_, ?_, ran_ok ?_, ?_⟩, ?_, ?_, ?_, ?_, ?_, ⟨?_, ?_, ?_, ?_, ?_, ran_ok ?_⟩, ?_⟩ <;> decide +kernel

/-- An access of the issuing strand to host memory. -/
def hostAccess (sent : Bool) : HostAccess where
  pasid := 0x77
  ua := 0x4567
  va := 0x10000
  n := 4
  write := false
  read := true
  tries := 1
  asked := true
  paging := false
  refused := none
  sent := sent
  ta := 0x9567
  amo := none
  gen := 1
  atcGen := 1
  answer := none
  index := 0
/-- The issuing strand's host access; ASID 0 has a table at 0x30000 and PASID 0x77. -/
def accessing (h : HostAccess) : State :=
  own (fun x => { x with host := some h }) { user with sys := { user.sys with ast := [(0, BitVec.ofNat 128 (3 + 0x30 * 2 ^ 13 + 0x77 * 2 ^ 64))] } }
/-- A table of four levels, with a page at 0x5000. -/
def tables (s : State) : State :=
  ((((s.store 0x30000 8 (0x31 * 2 ^ 13 + 1)).store 0x31000 8 (0x32 * 2 ^ 13 + 1)).store 0x32000 8 (0x33 * 2 ^ 13 + 1)).store 0x33000 8 (0x34 * 2 ^ 13 + 1)).store
    (0x34000 + 8 * 5) 8 (0x20 * 2 ^ 13 + 0xF)
/-- A shootdown of the strand's. -/
def shooting (begun : Bool) (s : State) : State :=
  own (fun x => { x with op := .waiting }) (s.modPart 0 fun p => { p with shoots := [{ d := 0x9, inva := 0x5000, core := 0, slot := 3, begun := begun }] })

/-- What a walk answers. -/
def walked (o : Except Stop (Walk × State)) : Nat :=
  match o with
  | .ok (.leaf .., _) => 0
  | .ok _ => 1
  | .error (.wait ..) => 2
  | .error _ => 3
theorem leaf_of {r : Except Stop (Walk × State)} (h : walked r = 0) : ∃ n e a u, r = .ok (Walk.leaf n e a, u) := by
  match r, h with
  | .ok (.leaf n e a, u), _ => exact ⟨n, e, a, u, rfl⟩
theorem fault_of {r : Except Stop (Walk × State)} (h : walked r = 1) : ∃ f u, r = .ok (f, u) ∧ ∀ n e a, f ≠ .leaf n e a := by
  match r, h with
  | .ok (.fault _, _), _ => exact ⟨_, _, rfl, fun _ _ _ e => by cases e⟩
  | .ok (.bus, _), _ => exact ⟨_, _, rfl, fun _ _ _ e => by cases e⟩
theorem held_of {r : Except Stop (Walk × State)} (h : walked r = 2) : ∃ w u, r = .error (.wait w u) := by
  match r, h with
  | .error (.wait w u), _ => exact ⟨w, u, rfl⟩
/-- The walk of core 0 for the strand's ASID. -/
def walkOf (va : Word) (s : State) : Except Stop (Walk × State) := walk { (s.requester 0 0) with asid := 0 } va false s
/-- The port die 0 has a cache and requests of the host. -/
def port (g : GenCount) (l : List Invalidation) : State := user.modPort 0 fun p => { p with atcGen := g, invals := l }
/-- A request of the host, begun. -/
def invalidation : Invalidation := { fn := 1, pasid := none, ua := 0x5000, pages := 1, begun := true }

/-- A walk that finds a page, one that finds none, and one that a soft line of its table holds; an access asked for, one whose page is requested, and
each kind sent; a port that is idle, that counts requests, and whose requests drain; a shootdown with accesses of each unit on their way and with none. -/
theorem witness_TranslationEventsResult :
    (∃ n e a u, walkOf 0x5123 (tables (accessing (hostAccess false))) = .ok (.leaf n e a, u)) ∧
    (∃ f u, walkOf 0x6000 (tables (accessing (hostAccess false))) = .ok (f, u) ∧ ∀ n e a, f ≠ .leaf n e a) ∧
    (∃ w u, walkOf 0x5123 ((tables (accessing (hostAccess false))).modDie (dieOf 0x30000)
      fun d => { d with lists := [{ line := 0x30000 / 64, ptrs := [], queue := [(1, 1)], ready := false, acted := false }] }) = .error (.wait w u)) ∧
    (let h := hostAccess false
     let s := accessing h
     (s.fnAt 1).owed = [] ∧ (s.fnAt 1).records = [] ∧ (s.slotAt 0 3).host = some h ∧ s.partOf 0 = fnPart 1 ∧ h.pasid = 0x77 ∧
       h.ua.toNat / 4096 = (0x4FFF : Word).toNat / 4096 ∧ h.sent = false ∧ h.paging = false ∧
       ((accessing { h with paging := true }).slotAt 0 3).host = some { h with paging := true }) ∧
    (let h := hostAccess true
     ((accessing h).slotAt 0 3).host = some h ∧ h.sent = true ∧ h.answer = none ∧ h.amo = none ∧ h.gen = 1 ∧
       ((accessing { h with amo := some { op := some .add, x := 1, cmp := 0 } }).slotAt 0 3).host =
         some { h with amo := some { op := some .add, x := 1, cmp := 0 } } ∧
       (let s := user.modPart 0 fun p => { p with engineHost := [(511 * 2 ^ 16 + 9, h), (2 ^ 40 + 3 * 8 + 2, h)], quads := [0, 511] }
        (s.partAt 0).engineHost.find (511 * 2 ^ 16 + 9) = some h ∧ partOfQuad s.parts 511 = 0 ∧
          (s.partAt (s.partOf 3)).engineHost.find (2 ^ 40 + 3 * 8 + 2) = some h)) ∧
    ((user.fnAt 1).port = 0 ∧ (user.portAt 0).invals = [] ∧ (user.portAt 0).atcGen.before + (user.portAt 0).atcGen.now = 0 ∧
      ((port { now := 1, before := 0, no := 2 } []).portAt 0).atcGen.before + ((port { now := 1, before := 0, no := 2 } []).portAt 0).atcGen.now ≠ 0 ∧
      ((port { now := 0, before := 1, no := 2 } [invalidation]).portAt 0).invals = [invalidation] ∧ invalidation.begun = true ∧
      ((port { now := 0, before := 1, no := 2 } [invalidation]).portAt 0).atcGen.before ≠ 0) ∧
    (let s := shooting true user
     (user.partAt 0).shoots = [] ∧ ∃ d, (s.partAt 0).shoots = [d] ∧ d.begun = true ∧ (s.slotAt d.core d.slot).op = .waiting ∧
       (∀ e ∈ s.cores, e.2.gen.before = 0 ∧ e.2.trussGen.before = 0) ∧ (∀ e ∈ s.quads, e.2.copyGen.before = 0) ∧
       ∀ e ∈ s.dies, e.2.infeedGen.before = 0 ∧ e.2.outfeedGen.before = 0 ∧ e.2.walkGen.before = 0) ∧
    (let s := (shooting true user).modDie 0 fun d => { d with walkGen := { now := 0, before := 1, no := 2 } }
     ∃ d, (s.partAt 0).shoots = [d] ∧ d.begun = true ∧ ∃ e ∈ s.dies, (∃ q ∈ (s.partAt 0).quads, q / 64 = e.1) ∧ e.2.walkGen.before ≠ 0) := by
  refine ⟨leaf_of ?_, fault_of ?_, held_of ?_, ?_, ?_, ?_, ⟨?_, ⟨{ d := 0x9, inva := 0x5000, core := 0, slot := 3, begun := true }, ?_⟩⟩,
    ⟨{ d := 0x9, inva := 0x5000, core := 0, slot := 3, begun := true }, ?_⟩⟩ <;> decide +kernel

/-- A line of a cache. -/
def cacheLine (st : LineState) : CacheLine where
  uo := false
  state := st
  vtag := 4
  data := BitVec.ofNat 512 (3 ^ 300)
  dirty := 5
  valid := 15
  op := .add
  size := .w
  touch := 0
  part := 0
  sharers := []
  bcast := false
  way := 0
/-- Core 0 holds the line 0x800 in a state, and the directory an entry for it. -/
def cached (st : LineState) (dir : Nat) : State :=
  (user.modCore 0 fun c => { c with l1 := [(0x800, cacheLine st)] }).modDie 0 fun d => { d with dir := [(0x800, BitVec.ofNat 64 dir)] }
/-- The handler holds a list for the line 0x800. -/
def listed (ready : Bool) : State := user.modDie 0 fun d => { d with lists := [{ line := 0x800, ptrs := [], queue := [], ready := ready, acted := false }] }
/-- A reduction of the strand's to the last bytes of a line. -/
def redRequest : RedReq := { core := 0, slot := 3, key := 0x2003C, size := .w, op := .add, x := 1, vtag := 0 }

/-- Partition 0 has a quad on each of two dies. -/
def spread : State := user.modPart 0 fun p => { p with quads := [0, 64] }
theorem quiet {s : State} {core : Nat} (hc : CacheRoom s core (s.partOf core) 0x800)
    (hr : HomeReady s 0x800)
    (h : s.homeCheck (s.partOf core) 0x20000 = .ok ∧ (s.quadAt (core / 4)).budget.get 0 (s.partOf core * 8 + 0) = 0 ∧
      (s.quadAt (4 * s.homeQuadOf 0x20000 / 4)).budget.get 0 (s.partOf core * 8 + 0) = 0 ∧
      (s.coreAt core).l1.find 0x800 = none ∧ (s.dieAt (core / 256)).rdc.find 0x800 = none) : QuietLine s core 0x800 :=
  ⟨h.1, hr, hc, h.2.1, h.2.2.1, h.2.2.2⟩

/-- A quiet line, one out of range, the last bytes of a line; an atomic; a line modified by its core alone, and shared by four others; a list
that waits, and one that is ready; a dead tag; a strand that an error meets. -/
theorem witness_HomeEventsResult :
    (QuietLine user 0 0x800 ∧ 0 / 256 = dieOf (0x800 * 64) ∧ QuietLine spread 256 0x800 ∧ 256 / 256 ≠ dieOf (0x800 * 64) ∧ user.homeCheck (user.partOf 0) (2 ^ 45 * 64) ≠ .ok ∧
      spread.homeCheck (spread.partOf 256) (0x800 * 64 + 60) = .ok) ∧
    (let r : AtomicReq := { core := 0, slot := 3, key := 2 ^ 52 + 0x7FFF8, size := .d, op := none, x := 1, cmp := 0, rd := 5, zx := false }
     (user.slotAt r.core r.slot).occupied = true ∧ r.size ≠ .q ∧ (user.partAt (user.partOf r.core)).replay ≠ .replay ∧ populated ≤ r.key) ∧
    (let r : AtomicReq := { core := 0, slot := 3, key := 0x2003C, size := .w, op := some .add, x := 1, cmp := 0, rd := 5, zx := false }
     r.key < populated ∧ QuietLine user r.core (r.key / 64) ∧ r.key % 64 + r.size.bytes ≤ 64 ∧ (user.slotAt r.core r.slot).member = false) ∧
    (let r := redRequest
     QuietLine user r.core (r.key / 64) ∧ r.key % 64 + r.size.bytes ≤ 64 ∧ r.vtag = 0 ∧ r.slot < 16 ∧ (user.partAt (user.partOf r.core)).replay ≠ .replay ∧
       r.gather = false ∧ { r with gather := true }.gather = true ∧ user.redLives 0 { r with vtag := 4, launch := some 9 } = false) ∧
    (user.coreAt 0).l1.find 0x800 = none ∧
    (let s := cached .modified (2 * 2 ^ 54 + 4 * 2 ^ 49 + 0)
     let l := cacheLine .modified
     (s.coreAt 0).l1.find 0x800 = some l ∧ l.uo = false ∧ s.verOf (0x800 / 32) = Ver.none ∧ l.state = .modified ∧ 0 / 256 = dieOf (0x800 * 64) ∧ (s.dirAt 0x800).toNat / 2 ^ 49 % 2 ^ 3 ≤ 4) ∧
    (let l := cacheLine .shared
     let s := user.modDie 7 fun d => { d with rdc := [(0x800, l)] }
     (s.dieAt 7).rdc.find 0x800 = some l ∧ l.uo = false ∧ l.state ≠ .updateOnly ∧ s.verOf (0x800 / 32) = Ver.none ∧ (user.dieAt 7).rdc.find 0x800 = none) ∧
    (∀ l ∈ (user.dieAt (dieOf (0x800 * 64))).lists, l.line ≠ 0x800) ∧
    (((listed false).dieAt (dieOf (0x800 * 64))).lists = [{ line := 0x800, ptrs := [], queue := [], ready := false, acted := false }] ∧
      ((listed true).dieAt (dieOf (0x800 * 64))).lists = [{ line := 0x800, ptrs := [], queue := [], ready := true, acted := false }] ∧
      ((listed true).dirAt 0x800).toNat / 2 ^ 49 % 2 ^ 4 = 0) ∧
    (user.liveTag (user.partOf 0) 4 = false ∧ (launching [] [(4, 0x40000004)] user).liveTag 0 4 = true) ∧
    ((user.slotAt 0 3).occupied = true ∧ (user.slotAt 0 3).trapped = false) ∧
    (let k := command (.cpy 5 4 6 8 cf) 0 513
     ((copying k).quadAt 0).copy 31 = some k ∧ k.susp = none) := by
  refine ⟨⟨quiet (cacheRoom_of (by decide +kernel)) (homeReady_of (by decide +kernel)) (by decide +kernel), ?_, quiet (cacheRoom_of (by decide +kernel)) (homeReady_of (by decide +kernel)) (by decide +kernel), ?_⟩, ?_, ⟨?_, quiet (cacheRoom_of (by decide +kernel)) (homeReady_of (by decide +kernel)) (by decide +kernel), ?_⟩, ⟨quiet (cacheRoom_of (by decide +kernel)) (homeReady_of (by decide +kernel)) (by decide +kernel), ?_⟩, ?_, ?_, ?_, ?_, ?_, ?_, ?_, ?_⟩ <;> decide +kernel

/-- Instructions at offsets of a page of code at 0x1000, in the instruction cache; the strand stands at one of them. -/
def coded (off : Nat) (l : List (Nat × Instr)) (s : State) : State :=
  let s := { s with sys := { s.sys with ast := [(0, 1)] } }
  let s := (l.foldl (fun s e => s.storeBytes (0x10000 + e.1) ((encode e.2).flatMap fun w => toBytes 4 w.toNat)) s).modCore 0 fun c =>
    { c with l1tlb := [{ asid := 0, part := 0, page := 1, log2 := 12, leaf := BitVec.ofNat 64 (0x10 * 2 ^ 13 + 0x40F) }] }
  (own (fun x => { x with pc := BitVec.ofNat 64 (0x1000 + off) }) s).modCore 0 fun c =>
    { c with icache := [(0x10000 / 32 * 256, BitVec.ofNat 256 (s.load 0x10000 32)), (0x10020 / 32 * 256, BitVec.ofNat 256 (s.load 0x10020 32))] }
/-- The strand of slot 3 sleeps until a count, at a cycle. -/
def sleeping (imm : BitVec 32) (now : Nat) (due : Option Nat) : State :=
  coded 0 [(0, .sleep 5 imm)] (own (fun x => { x with sleep := due }) (user.modCore 0 fun c => { c with cycle := BitVec.ofNat 64 now }))

theorem fetched {s : State} {f : Fetched} (h : s.fetch.1 = f) : s.fetch = (f, s.fetch.2) := by rw [← h]
theorem element_of {s : State} (h : ∃ r k c, HoldsEnd s r 2 k c) : s.cur.tags ≠ 0 := by
  obtain ⟨r, k, c, h, -⟩ := h
  intro e
  simp [e] at h

/-- A supervisor with a record; a strand with an element, at an end marker, and with none; asleep, at its count, and before it; and the code that
sleeps. -/
theorem witness_SleepResult :
    (Issues serving [5] ∧ Untagged serving [5] ∧ serving.slot = 15 ∧ (serving.coreAt serving.core).trapQ ≠ []) ∧
    (let c := mortise 9 .openS 0 1 3 2 0x1000
     let s := receiver c 0
     Issues s [5] ∧ Untagged s [5] ∧ s.slot ≠ 15 ∧ HoldsEnd s 4 2 0 c ∧ c.pres.getLsbD (c.cons.toNat % c.depth) = true) ∧
    (let c := { mortise 9 .openS 0 1 3 0 0x1000 with endv := true, endseq := 3 }
     HoldsEnd (receiver c 0) 4 2 0 c ∧ c.endv = true ∧ c.endseq = c.cons) ∧
    (user.slot ≠ 15 ∧ user.cur.tags = 0 ∧ user.cur.sleep = none) ∧
    (let s := sleeping 5 7 (some 7)
     let u := s.fetch.2
     s.cur.occupied = true ∧ s.fetch = (.instr (.sleep 5 5) 8, u) ∧ s.cur.sleep = some 7 ∧ 7 ≤ (s.coreAt s.core).cycle.toNat ∧
       Issues u [5] ∧ Untagged u [5] ∧ u.cur.sleep = some 7 ∧ 7 ≤ (u.coreAt u.core).cycle.toNat ∧ u.slot ≠ 15 ∧ u.cur.tags = 0) ∧
    (let s := sleeping 5 7 (some 8)
     ¬ (8 ≤ (s.coreAt s.core).cycle.toNat)) := by
  unfold Issues Untagged Written HoldsEnd
  refine ⟨?_, ?_, ?_, ?_, ⟨?_, fetched ?_, ?_⟩, ?_⟩ <;> decide +kernel

/-- The strand holds translations of one page each, and an address in g4. -/
def probing (a leaf : Nat) (s : State) : State :=
  withReg (({ s with sys := { s.sys with ast := [(0, 1)] } } : State).modCore 0 fun c => { c with l1tlb := [page 0x5000 leaf] }) 4 (BitVec.ofNat 64 a)

/-- Both ends of the alias and of the windows, of the first core, the last VCN and one unmapped; pages of each kind; a hole of each kind. -/
theorem witness_TranslationProbeResult :
    (Ready (probing 0x7E000007FFFF 0 user) false false [4] [5] ∧ (0x7FFFF : Nat) < 2 ^ 19 ∧
      reg (probing 0x7E000007FFFF 0 user) 4 + (0 : BitVec 20).signExtend 64 = BitVec.ofNat 64 (0x7E0000000000 + 0x7FFFF)) ∧
    (reg (probing 0x7F0000180005 0 user) 4 = BitVec.ofNat 64 (0x7F0000000000 + 3 * 2 ^ 19 + 5) ∧ user.vcnCore user.myPart 3 = some 3 ∧
      reg (probing 0x7F003FFFFFFF 0 user) 4 = BitVec.ofNat 64 (0x7F0000000000 + 2047 * 2 ^ 19 + 0x7FFFF) ∧ user.vcnCore user.myPart 2047 = none) ∧
    ([(0x00F, 0), (0x03F, 3), (0x12F, 2), (0x10F, 0), (0xC1F, 1)].all fun e => decide (
      let s := probing 0x5FFF e.1 user
      (reg s 4).toNat < 0x7E0000000000 ∧ s.asidOwned s.me.asid s.myPart = true ∧ (s.tlbFind 0 s.myPart s.me.asid 0x5FFF).map (fun t => t.leaf.toNat / 2 ^ 4 % 4) = some e.2)) ∧
    (let s := { probing 0x5FFF 0x00F user with sys := user.sys }
     (reg s 4).toNat < 0x7E0000000000 ∧ s.asidOwned s.me.asid s.myPart = false) ∧
    (let pa := fun (e : Nat) => (page 0x5000 e).leaf.toNat / 2 ^ 13 % 2 ^ 39 * 2 ^ 12 + 0x5FFF % 2 ^ 12
     pa 0xF < 2 ^ 40 ∧ 2 ^ 40 ≤ pa (0xF + 2 ^ 41) ∧
       (probing 0x5FFF (0xF + 2 ^ 41) user).tlbFind 0 0 0 0x5FFF = some (page 0x5000 (0xF + 2 ^ 41))) ∧
    (let v := fun (n : Nat) => (reg (probing n 0 user) 4).toNat
     2 ^ 57 ≤ v (2 ^ 57) ∧ (0x7E0000080000 ≤ v 0x7E0000080000 ∧ v 0x7EFFFFFFFFFF < 0x7F0000000000) ∧
       (0x7F0040000000 ≤ v 0x7F0040000000 ∧ v 0x7FFFFFFFFFFF < 0x800000000000)) := by
  refine ⟨⟨ready_of rfl rfl rfl, ?_, ?_⟩, ?_, ?_, ?_, ?_, ?_⟩ <;> decide +kernel

/-- The bytes that the fetch path finds. -/
def found (s : State) (a : Word) (n : Nat) : List Byte :=
  match fetchBytes s.me a n s with
  | .ok p => p.1
  | .error _ => []
/-- The fetch path finds bytes and changes no state. -/
def atHand (s : State) (a : Word) (n : Nat) : Bool :=
  match fetchBytes s.me a n s with
  | .ok p => decide (p.2 = s)
  | .error _ => false
theorem found_of {s : State} {a : Word} {n : Nat} (h : atHand s a n = true) : fetchBytes s.me a n s = .ok (found s a n, s) := by
  unfold atHand at h
  unfold found
  cases e : fetchBytes s.me a n s with
  | error => rw [e] at h; cases h
  | ok p => rw [e] at h; exact congrArg _ (Prod.ext rfl (of_decide_eq_true h))
theorem codeAt_of {s : State} {a : Word} {w : BitVec 32} {i : Instr} {n : Nat} (h4 : atHand s a 4 = true)
    (hw : w = BitVec.ofNat 32 (ofBytes (found s a 4))) (hl : lengthOf w = some n) (hb : a.toNat % 32 + n ≤ 32) (hn : atHand s a n = true)
    (hd : (decodeBytes (found s a n)).toOption = some i) : CodeAt s a w i n := by
  refine ⟨_, _, found_of h4, hw, hl, hb, found_of hn, ?_⟩
  cases e : decodeBytes (found s a n) with
  | error => rw [e] at hd; cases hd
  | ok j => rw [e] at hd; exact congrArg _ (Option.some.inj hd)

def vaddCode : Instr := .vadd 1 2 3 (vf .i32)

/-- A block whose first instruction, past a tail, may not be captured, and one of two whose second is such; the first alone is a block of one. -/
theorem witness_RepeatResult :
    (let s := coded 20 [(20, .rep 0 4 1), (32, .nop false)] user
     Issues s [] ∧ NoSlot s ∧ (∃ w n, CodeAt (begun s) (pastTail (s.cur.pc + 8)) w (.nop false) n ∧ ¬ MayCapture w)) ∧
    (let s := coded 8 [(8, .rep 1 4 1), (16, vaddCode), (24, .nop false)] user
     Issues s [] ∧ NoSlot s ∧ CodeFrom (begun s) (s.cur.pc + 8) [vaddCode] (pastTail (s.cur.pc + 8) + 8) ∧ [vaddCode].length ≤ (1 : BitVec 3).toNat ∧
       ∃ w n, CodeAt (begun s) (pastTail (pastTail (s.cur.pc + 8) + 8)) w (.nop false) n ∧ ¬ MayCapture w) := by
  refine ⟨⟨⟨?_, ?_⟩, ?_, ⟨4, 8, codeAt_of ?_ ?_ ?_ ?_ ?_ ?_, ?_⟩⟩,
    ⟨?_, ?_⟩, ?_, ⟨0x03210290, 8, codeAt_of ?_ ?_ ?_ ?_ ?_ ?_, ?_, rfl⟩, by decide, ⟨4, 8, codeAt_of ?_ ?_ ?_ ?_ ?_ ?_, ?_⟩⟩
  all_goals first | decide +kernel | (unfold Written; decide +kernel) | (unfold NoSlot; decide +kernel) | (unfold MayCapture; decide +kernel)

/-- An instruction with the elect prefix, outside a gang, in a delay slot, with its value posted, and without; and a member that waits for it. -/
theorem witness_ElectResult :
    ((Instr.add true 5 4 6).wf = true ∧ (encode (.add true 5 4 6)).head? = some 0x06450480 ∧ (0x06450480 : BitVec 32).getLsbD 10 = true ∧
      user.cur.pend = 0 ∧ user.cur.inRep = false ∧ user.cur.isGang = false) ∧
    (let s := own (fun x => { x with status := 0x18004, slotPos := 1 }) user
     s.cur.isGang = true ∧ ¬ NoSlot s ∧ s.cur.pend = 0) ∧
    (let p : Posted := { n := 0, value := .done }
     let s := own (fun x => { x with electQ := [p] }) (ganged user)
     s.cur.isGang = true ∧ NoSlot s ∧ s.cur.electQ.find? (fun p => p.n == s.cur.electN) = some p ∧ Untagged s p.value.dests) ∧
    (let p : Posted := { n := 0, value := .g 6 1 }
     let s := own (fun x => { x with electQ := [p], tags := 0x40 }) (ganged user)
     s.cur.isGang = true ∧ NoSlot s ∧ s.cur.electQ.find? (fun p => p.n == s.cur.electN) = some p ∧ ∃ r ∈ p.value.dests, s.cur.tags.getLsbD r.toNat = true) ∧
    (let s := own (fun x => { x with status := 0x8000 + 0x10000 * 7 }) user
     s.cur.isGang = true ∧ s.cur.electQ.find? (fun p => p.n == s.cur.electN) = none) ∧
    (let p : Posted := { n := 0, value := .done }
     let s := coded 0 [(0, .add true 5 4 6)] (own (fun x => { x with electQ := [p], wait := .message }) (ganged user))
     let u := s.fetch.2
     s.cur.occupied = true ∧ s.cur.isGang = true ∧ s.cur.wait = .message ∧ s.cur.trapped = false ∧ s.cur.stopped = false ∧ NoSlot s ∧
       s.cur.electQ.find? (fun q => q.n == s.cur.electN) = some p ∧ s.fetch = (.instr (.add true 5 4 6) 8, u) ∧
       u.peekWord0 u.cur.pc = some 0x06450480 ∧ Untagged u p.value.dests) := by
  unfold NoSlot Untagged
  refine ⟨?_, ?_, ?_, ?_, ?_, ⟨?_, ?_, ?_, ?_, ?_, ?_, ?_, fetched ?_, ?_⟩⟩ <;> decide +kernel

/-- A frame's bytes: its header and its arguments of eight bytes. -/
def call (num len tag reply pasid vec prio asid : Nat) (args : List Nat) : List Byte :=
  toBytes 4 num ++ toBytes 4 len ++ toBytes 8 tag ++ toBytes 8 reply ++ toBytes 4 pasid ++ toBytes 2 vec ++ toBytes 1 prio ++ toBytes 1 asid ++
    List.replicate 32 0 ++ args.flatMap (toBytes 8)
def frameOf (b : List Byte) : Frame := { bytes := b, popped := false, replied := false, peer := none }
/-- VF1 is enabled. -/
def enabled (s : State) : State := s.modFn 1 fun x => { x with enabled := true }
/-- A function's buffer holds bytes. -/
def buffered (f : Nat) (b : List Byte) (s : State) : State :=
  s.modFn f fun x => { x with buffer := (b.zipIdx.map fun e => (e.2, e.1)).filter fun e => e.2 ≠ 0 }
/-- `n` frames of a function wait. -/
def filled (f n : Nat) (s : State) : State :=
  (s.setFrames f ((List.range n).map fun i => (i, frameOf (call 4 0 0 0 0 0 0 0 [])))).setCallQ f (List.range n)
/-- A frame heads a function's queue, in slot 5. -/
def heading (f : Nat) (b : List Byte) (s : State) : State := (s.setFrames f [(5, frameOf b)]).setCallQ f [5]

theorem badHeader_iff {bs : List Byte} {x : Word} :
    BadHeader bs x ↔ (decide (hdrTag bs ≠ x.toNat ∨ 4024 < hdrLength bs ∨ hdrLength bs % 8 ≠ 0 ∨ 16 ≤ hdrVec bs ∨
      (hdrPasid bs).toNat / 2 ^ 20 % 2 ^ 11 ≠ 0 ∨ 8 ≤ hdrPrio bs) || (List.range 32).any fun i => bs.getD (0x20 + i) 0 != 0) = true := by
  simp [BadHeader, or_assoc]

/-- An aperture mapped and not; writes of 4 and 8 bytes at both ends, of another size, and at no multiple; frames refused for each reason that
a check has, in stage 1, with the queue full, and accepted in the last slot; the last VF. -/
theorem witness_CallSubmission :
    (Mapped user 0 ∧ ¬ Mapped user 1 ∧ Mapped (enabled user) 1 ∧ Mapped (user.modFn 32 fun x => { x with enabled := true }) 32 ∧
      ¬ Mapped (user.modFn 33 fun x => { x with enabled := true }) 33) ∧
    (0xFFC < 4096 ∧ 0xFFC % 4 = 0 ∧ 0xFF8 % 8 = 0 ∧ 0xFF4 % 8 ≠ 0) ∧
    (let b := call 0x10 4024 0x55 0x9008 0x8007FFFF 15 7 8 []
     ¬ BadHeader b 0x55 ∧ BadHeader b 0x56 ∧ BadHeader (call 0x10 4032 0x55 0 0 0 0 0 []) 0x55 ∧ BadHeader (call 0x10 4 0x55 0 0 0 0 0 []) 0x55 ∧
       BadHeader (call 0x10 8 0x55 0 0 16 0 0 []) 0x55 ∧ BadHeader (call 0x10 8 0x55 0 0x100000 0 0 0 []) 0x55 ∧
       BadHeader (call 0x10 8 0x55 0 0 0 8 0 []) 0x55) ∧
    ¬ BadHeader ((List.range 4096).map fun j => ((buffered 1 (call 0x10 8 0x55 0 0 0 0 0 []) (enabled user)).fnAt 1).buffer.get 0 j) 0x55 ∧
    ((filled 1 64 user).sys.stage = 2 ∧ (∀ k < 64, ((filled 1 64 user).frames 1).find k ≠ none) ∧ ((filled 1 63 user).frames 1).find 63 = none) ∧
    (let b := call 0x10 8 0x55 0 0 0 0 0 []
     ¬ (1 ≤ hdrCall b ∧ hdrCall b ≤ 4)) ∧
    (7 ≠ user.sys.node ∧ (0 : Nat) ≠ 1 ∧ 17 < 18 ∧ ((List.range 4096).map fun j => (user.fnAt 1).buffer.get 0 j).length = 4096) := by
  unfold Mapped
  simp only [badHeader_iff]
  refine ⟨?_, ?_, ?_, ?_, ?_, ?_, ?_⟩ <;> decide +kernel

/-- What a host access of a function comes to. -/
def comesTo : HostWrite → Nat
  | .sendTo .. => 0
  | .refused _ => 1
  | .held _ => 2
theorem refused_of {x : HostWrite} (h : comesTo x = 1) : ∃ t, x = .refused t := by
  match x, h with
  | .refused t, _ => exact ⟨t, rfl⟩
theorem held_write {x : HostWrite} (h : comesTo x = 2) : ∃ t, x = .held t := by
  match x, h with
  | .held t, _ => exact ⟨t, rfl⟩
/-- A write without a PASID waits for nothing. -/
theorem sends {s : State} {f ua n : Nat} {write : Bool} : s.hostReach f 0 ua n write = .sendTo s ua := if_pos rfl
theorem not_held {x : HostWrite} (h : comesTo x ≠ 2) : ∀ t, x ≠ .held t := fun t e => h (by rw [e]; rfl)

/-- Partition 0 has entries of the revocation table, an emulation area in its root core's store, and waits for the emulation's answer 7. -/
def revoking (n : Nat) (s : State) : State :=
  s.modPart 0 fun p => { p with revoked := (List.range n).map fun i => (0x5000 + 0x1000 * i, 1), emuAsked := [7], emub := 0x7E0000001000 }

/-- The host has refused a function a page. -/
def atHost (f : Nat) (s : State) (pasid : BitVec 32) (ua : Nat) (write : Bool) : State :=
  s.modFn f fun x => { x with host := [((field pasid 0 20 * 2 + write.toNat) * 2 ^ 64 + ua,
    { HostAccess.start 0x77 (BitVec.ofNat 64 ua) (BitVec.ofNat 64 ua) 0 0 (! write) write with refused := some 0x0C })] }
theorem answered_no {s : State} {ua n : Nat} : ∃ t, (atHost 1 s 0x80000077 ua true).hostWrite 1 0x80000077 ua n = .refused t := by
  have e : ((atHost 1 s 0x80000077 ua true).fnAt 1).host.find ((field (0x80000077 : BitVec 32) 0 20 * 2 + true.toNat) * 2 ^ 64 + ua) =
      some { HostAccess.start 0x77 (BitVec.ofNat 64 ua) (BitVec.ofNat 64 ua) 0 0 (! true) true with refused := some 0x0C } := by
    unfold atHost State.modFn State.fnAt
    rw [Map.get_set_self]
    exact if_pos rfl
  apply refused_of
  unfold State.hostWrite State.hostReach
  rw [if_neg (by decide)]
  dsimp only
  rw [e]
  rfl

/-- Each call at the head of its function's queue, with arguments at and beyond their bounds; whether a signature is good is a free value, and
one of the two cases is met. -/
theorem witness_CallResult :
    (let heads := fun (f : Nat) (s : State) (b : List Byte) (num : Nat) => Heads (heading f b s) f 5 (frameOf b) num
     heads 1 (enabled user) (call 0x01 0 0x55 0 0 0 0 0 []) 0x01 ∧ heads 1 (enabled user) (call 0x02 48 0x55 0 0 0 0 0 []) 0x02 ∧
       heads 1 (enabled user) (call 0x02 40 0x55 0 0 0 0 0 []) 0x02 ∧ heads 0 user (call 0x03 16 0x55 0 0 0 0 0 [0x9000, 8]) 0x03 ∧
       heads 0 user (call 0x04 0 0x55 0 0 0 0 0 []) 0x04 ∧ heads 1 (revoking 15 user) (call 0x20 16 0x55 0 0 0 0 0 [0x5123, 2]) 0x20 ∧
       heads 1 (revoking 2 user) (call 0x21 16 0x55 0 0 0 0 0 [0x5123, 2]) 0x21 ∧ heads 0 user (call 0x22 8 0x55 0 0 0 0 0 [32]) 0x22 ∧
       heads 0 user (call 0x22 8 0x55 0 0 0 0 0 [33]) 0x22 ∧ heads 1 (revoking 2 user) (call 0x23 32 0x55 0 0 0 0 0 [7, 1, 77, 88]) 0x23 ∧
       heads 0 user (call 0x24 16 0x55 0 0 0 0 0 [0x9040, 16 + 15 * 2 ^ 32]) 0x24 ∧ heads 0 user (call 0x24 16 0x55 0 0 0 0 0 [0x9040, 17]) 0x24 ∧
       heads 0 user (call 0x30 16 0x55 0 0 0 0 0 [5, 6]) 0x30 ∧ heads 0 user (call 0x31 16 0x55 0 0 0 0 0 [5, 6]) 0x31 ∧
       heads 1 user (call 0x51 16 0x55 0 0 0 0 0 []) 0x51) ∧
    (let b := call 0x02 48 0x55 0 0 0 0 0 []
     let s := heading 1 b user
     ∀ n, hdrLength b = 48 ∧ s.hostWrite 1 (hdrPasid b) Config.attestAddress.toNat n = .sendTo s Config.attestAddress.toNat) ∧
    (let b := call 0x02 48 0x55 0 0x80000077 0 0 0 []
     ∀ n, (∃ t, (heading 1 b user).hostWrite 1 (hdrPasid b) Config.attestAddress.toNat n = .held t) ∧
       ∃ t, (atHost 1 (heading 1 b user) (hdrPasid b) Config.attestAddress.toNat true).hostWrite 1 (hdrPasid b) Config.attestAddress.toNat n = .refused t) ∧
    (let b := call 0x03 16 0x55 0 0 0 0 0 [0x9000, 8]
     let good := firmwareGood (Memory.readList (heading 0 b user).mem (2 ^ 64 + 0x9000) 8)
     (hdrPasid b).getLsbD 31 = false ∧ hdrArg b 0 8 + hdrArg b 8 8 ≤ 2 ^ 64 ∧ (good = true ∨ good = false)) ∧
    (let b := call 0x03 16 0x55 0 0x80000077 0 0 0 [0x9000, 8]
     let s := heading 0 b user
     (∃ t, (atHost 0 s (hdrPasid b) 0x9000 false).readHost 0 (hdrPasid b) (pageParts (hdrArg b 0 8) (hdrArg b 8 8)) = .ok (t, none)) ∧
       ∃ t, s.readHost 0 (hdrPasid b) (pageParts (hdrArg b 0 8) (hdrArg b 8 8)) = .error t) ∧
    (((revoking 15 user).partAt 0).revoked.length < 16 ∧ 16 ≤ ((revoking 16 user).partAt 0).revoked.length ∧
      hdrArg (call 0x20 16 0x55 0 0 0 0 0 [0x5123, 0]) 8 8 = 0) ∧
    (let b := call 0x23 32 0x55 0 0 0 0 0 [7, 1, 77, 88]
     hdrLength b = 32 ∧ hdrArg b 4 4 = 0 ∧ hdrArg b 8 1 < 2 ∧ hdrArg b 9 7 = 0 ∧ BitVec.ofNat 32 (hdrArg b 0 4) ∈ ((revoking 2 user).partAt 0).emuAsked ∧
       ∃ a t, writeBytes ((revoking 2 user).rootAgent 0) (0x7E0000001000 + 16) ((b.drop 0x50).take 16) (revoking 2 user) = .ok (a, t) ∧
         (writeBytes ((revoking 2 user).rootAgent 0) 0x7E0000001000 (toBytes 8 (2 ^ 63 + 2 ^ 62 + 7)) t).toOption.isSome = true) ∧
    (let b := call 0x24 16 0x55 0 0 0 0 0 [0x9040, 16 + 15 * 2 ^ 32]
     hdrArg b 0 8 % 64 = 0 ∧ 4 ≤ hdrArg b 8 4 ∧ hdrArg b 8 4 ≤ 16 ∧ hdrArg b 12 2 < 16 ∧ hdrArg b 14 2 = 0) := by
  unfold Heads
  refine ⟨?_, fun n => ⟨by decide, sends⟩, fun n => ⟨⟨_, rfl⟩, answered_no⟩, ⟨by decide, by decide, Bool.eq_false_or_eq_true _⟩, ⟨⟨_, rfl⟩, ⟨_, rfl⟩⟩, ?_,
    ⟨?_, ?_, ?_, ?_, ?_, ran_ok ?_⟩, ?_⟩
  · dsimp only
    and_intros <;> decide +kernel
  all_goals decide +kernel

theorem trapped_of {α : Type} {o : Except Stop (α × State)} (h : (match o with
    | .error (.trapIn ..) => true
    | _ => false) = true) : ∃ u c v mal, o = .error (.trapIn u c v mal) := by
  cases o with
  | ok => cases h
  | error e =>
    cases e with
    | trapIn u c v mal => exact ⟨u, c, v, mal, rfl⟩
    | _ => cases h

theorem waits_of {α : Type} {o : Except Stop (α × State)} (h : (match o with
    | .error (.wait ..) => true
    | _ => false) = true) : ∃ w u, o = .error (.wait w u) := by
  match o, h with
  | .error (.wait w u), _ => exact ⟨w, u, rfl⟩

/-- VF1's partition reaches 0x5000 at 0x20000, where a launch block stands; ASID 0 is the partition's. -/
def blocked (cores slots : Nat) (s : State) : State :=
  { (enabled s).modCore 0 fun c => { c with l1tlb := [page 0x5000 0xC0F] } with sys := { s.sys with ast := [(0, BitVec.ofNat 128 (3 + 0x30 * 2 ^ 13)), (1, BitVec.ofNat 128 5)] } }
    |>.storeBytes 0x20040 (toBytes 8 0x4000 ++ toBytes 4 cores ++ toBytes 2 slots ++ toBytes 2 3 ++ toBytes 4 64 ++ toBytes 12 0)
/-- A launch of a call with a tag, whose frame is in slot 6 or asks for no reply. -/
def calledLaunch (tag ticket : Nat) (ph : LaunchPhase) (slot : Option Nat) : Launch :=
  { launchOf ph ticket 5 none none with ticketed := false, numbered := ph == .live, lnum := if ph == .live then 5 else 0, call := some (slot, tag) }
/-- A LABORT of a tag heads VF1's queue; launches of calls. -/
def aborting (tag : Nat) : State :=
  ((launching [calledLaunch 0x71 3 .live (some 6), calledLaunch 0x72 4 .queued (some 6), calledLaunch 0x73 5 .queued none] [(5, 0x40000005)] (enabled user)).setFrames 1
    [(5, frameOf (call 0x11 8 0x66 0 0 0 0 0 [tag])), (6, { frameOf (call 0x10 8 0x72 0x9000 0 0 0 0 []) with popped := true })]).setCallQ 1 [5]

/-- An ASID owned and not, a block misaligned, unreachable, refused, and good, with the table full and with room for one; aborts of a launch live,
queued, awaited by nobody, and of none. -/
theorem witness_LaunchCallResult :
    (let b := call 0x10 8 0x55 0 0 0 7 0 [0x5040]
     let s := heading 1 b (blocked 4 15 user)
     Heads s 1 5 (frameOf b) 0x10 ∧ 8 ≤ hdrLength b ∧ (s.astEntry 0).getLsbD 0 = true ∧ (s.astEntry 0).toNat / 2 ^ 2 % 2 ^ 5 = 0 ∧
       ¬ ((s.astEntry 1).toNat / 2 ^ 2 % 2 ^ 5 = 0) ∧ (BitVec.ofNat 64 (hdrArg b 0 8)).toNat % 32 = 0 ∧
       ∃ img u, readBytes (s.callAgent 0 0) .load (BitVec.ofNat 64 (hdrArg b 0 8)) 32 s = .ok (img, u) ∧
         (1 ≤ imgAt img 8 4 ∧ imgAt img 8 4 ≤ 4 * (u.partAt 0).quads.length ∧ 1 ≤ imgAt img 12 2 ∧ imgAt img 12 2 ≤ 15 ∧
            imgAt img 14 2 < 4 ∧ imgAt img 16 4 ≤ 64 ∧ imgAt img 20 12 = 0 ∧ (u.partAt 0).launches = [])) ∧
    (let b := call 0x10 8 0x55 0 0 0 7 0 [0x5040]
     let s := heading 1 b (launching (List.replicate 256 live5) [] (blocked 5 15 user))
     ∃ img u, readBytes (s.callAgent 0 0) .load (BitVec.ofNat 64 (hdrArg b 0 8)) 32 s = .ok (img, u) ∧
       (¬ imgAt img 8 4 ≤ 4 * (u.partAt 0).quads.length ∧ 256 ≤ ((u.partAt 0).launches.filter fun l => l.ticketed || l.call.isSome).length)) ∧
    (let b := call 0x10 8 0x55 0 0 0 7 0 [0x6040]
     let s := heading 1 b (blocked 4 15 user)
     ∃ u c v mal, readBytes (s.callAgent 0 0) .load (BitVec.ofNat 64 (hdrArg b 0 8)) 32 s = .error (.trapIn u c v mal)) ∧
    (let b := call 0x10 8 0x55 0 0 0 7 0 [0x5040]
     let s := (heading 1 b (blocked 4 15 user)).modDie 0 fun d =>
       { d with lists := [{ line := 0x20040 / 64, ptrs := [], queue := [(1, 1)], ready := false, acted := false }] }
     ∃ w u, readBytes (s.callAgent 0 0) .load (BitVec.ofNat 64 (hdrArg b 0 8)) 32 s = .error (.wait w u)) ∧
    (hdrArg (call 0x10 8 0x55 0 0 0 7 0 [0x5048]) 0 8 % 32 ≠ 0) ∧
    (let s := aborting 0x71
     let l := calledLaunch 0x71 3 .live (some 6)
     Heads s 1 5 (frameOf (call 0x11 8 0x66 0 0 0 0 0 [0x71])) 0x11 ∧
       ((s.partAt 0).launches.find? fun l => match l.call with | some j => j.2 == 0x71 | none => false) = some l ∧ l.outcome = none ∧
       l.phase = .live ∧ l.parent = none ∧
       (((s.abortTag 0 l.tag 0x23).partAt 0).byTicket l.ticket).all (fun m => m.numbered) = true) ∧
    (let s := aborting 0x72
     let l := calledLaunch 0x72 4 .queued (some 6)
     let t := s.modLaunch 0 l.ticket fun q => { q with phase := .over, outcome := some 0x23, lnum := 0 }
     ((s.partAt 0).launches.find? fun l => match l.call with | some j => j.2 == 0x72 | none => false) = some l ∧ l.phase = .queued ∧ l.ticketed = false ∧
       (t.partAt 0).byTicket l.ticket = some { l with phase := .over, outcome := some 0x23, lnum := 0 } ∧ (t.frames 1).find 6 ≠ none ∧
       ∀ v, t.hostWrite 1 0 0x9000 32 ≠ .held v) ∧
    (calledLaunch 0x73 5 .queued none).call = some (none, 0x73) ∧
    ((aborting 0x74).partAt 0).launches.find? (fun l => match l.call with | some j => j.2 == 0x74 | none => false) = none := by
  unfold Heads
  refine ⟨⟨?_, ?_, ?_, ?_, ?_, ?_, ran_ok ?_⟩, ran_ok ?_, trapped_of ?_, waits_of ?_, ?_, ?_, ⟨?_, ?_, ?_, ?_, ?_, not_held (by decide +kernel)⟩, ?_, ?_⟩ <;> decide +kernel

/-- Partition 0 has the quads 0 and 1, a save region and the saved tenant of VCN 9; core 1 has a stopped supervisor; core 5 has no VCN. -/
def operated (s : State) : State :=
  (((s.modPart 0 fun p => { p with savb := 0x100001, saved := [(9, tenant)], quads := [0, 1] }).modCore 1 fun c =>
    { c with halted := true, inTrap := true, xsel := 3 }).setCore 5 { core0 5 [] with vcn := none })

/-- Partition 0 is sealed and its page at 0x5000 sealed memory. -/
def sealing : State :=
  ({ user with sys := { user.sys with ast := [(0, BitVec.ofNat 128 (1 + 0x30 * 2 ^ 13))] } }.modPart 0 fun p => { p with sealed := true })
    |> tables |>.store (0x34000 + 8 * 5) 8 (0x20 * 2 ^ 13 + 0x8F)

/-- A resize that exchanges a quad, and one of a quad that is not there; a save of VCN 1 and of VCN 0; a restore to core 5 and of no tenant; a
supervisor stopped and running; a trace ring at the bound and beyond; a replay of each mode and of none. -/
theorem witness_PartitionCallResult :
    (let b := call 0x40 32 0x55 0 0 0 0 0 [0, 1, 1, 1, 511]
     let s := heading 0 b (operated user)
     let p := s.partAt 0
     Heads s 0 5 (frameOf b) 0x40 ∧ hdrArg b 8 8 = 1 ∧ hdrArg b 16 8 = 1 ∧ hdrArg b 24 8 = 1 ∧ hdrArg b 32 8 = 511 ∧ p.exists_ = true ∧ p.resize = [] ∧
       1 ∈ p.quads ∧ partOfQuad s.parts 511 = noPart ∧ s.rootCore 0 / 4 ≠ 1 ∧ 5 ∉ p.quads) ∧
    (let b := call 0x41 16 0x55 0 0 0 0 0 [0, 1]
     let s := heading 0 b (operated user)
     Heads s 0 5 (frameOf b) 0x41 ∧ s.vcnCore 0 1 = some 1 ∧ (s.partAt 0).savb.getLsbD 0 = true ∧ (s.partAt 0).saved.find 1 = none ∧
       (s.coreAt 1).saving = none ∧ s.pairOf 1 = none ∧ (s.coreAt 1).vcn = some 1 ∧ s.vcnCore 0 0 = some 0 ∧ s.vcnCore 0 2047 = none) ∧
    (let b := call 0x42 24 0x55 0 0 0 0 0 [0, 9, 5]
     let s := heading 0 b (operated user)
     Heads s 0 5 (frameOf b) 0x42 ∧ (s.partAt 0).saved.find 9 ≠ none ∧ (∀ e ∈ s.cores, s.partOf e.1 = 0 → e.2.restVcn ≠ some 9) ∧
       (s.coreAt 5).vcn = none ∧ (s.coreAt 5).restVcn = none ∧ s.partOf 5 = 0 ∧ 0 ≠ noPart ∧ (s.partAt 0).saved.find 8 = none) ∧
    (let b := call 0x43 8 0x55 0 0 0 0 0 [1]
     let s := heading 0 b (operated user)
     Heads s 0 5 (frameOf b) 0x43 ∧ (s.coreAt 1).halted = true ∧ (s.coreAt 0).halted = false) ∧
    (let b := call 0x50 24 0x55 0 0 0 0 0 [0x9000, 0x1000, 1]
     Heads (heading 1 b (operated user)) 1 5 (frameOf b) 0x50 ∧ Heads (heading 0 b (operated user)) 0 5 (frameOf b) 0x50 ∧ hdrArg b 0 8 % 4096 = 0 ∧
       hdrArg b 0 8 < 2 ^ 40 ∧ hdrArg b 8 8 ≤ 2 ^ 40 ∧ (heading 1 b (operated user)).regionOk (fnPart 1) (hdrArg b 0 8) (hdrArg b 8 8) = true ∧
       ¬ hdrArg (call 0x50 24 0x55 0 0 0 0 0 [2 ^ 40, 0x1000, 1]) 0 8 < 2 ^ 40) ∧
    (let b := call 0x51 24 0x55 0 0 0 0 0 [0, 0, 2]
     let s := heading 0 b (operated user)
     Heads s 0 5 (frameOf b) 0x51 ∧ (s.partAt 0).exists_ = true ∧ hdrArg b 16 8 = 2 ∧ (∃ v, s.endReplay 0 = .ok v) ∧ (s.partAt 31).exists_ = false ∧
       s.sealedRange 0 1 = false ∧
       (let s := (operated user).modPart 0 fun p => { p with replayCall := some 6 }
        let s := s.setFrames 0 [(5, frameOf b), (6, { frameOf (call 0x51 24 0x55 0x9000 0x80000077 0 0 0 [0, 0, 2]) with popped := true })]
        ∃ v, s.endReplay 0 = .error v)) ∧
    (sealing.sealedRange 0x20000 0x1000 = true ∧ sealing.sealedRange 0x20000 1 = true ∧ (operated user).sealedRange 0x9000 0x1000 = false) := by
  unfold Heads
  refine ⟨?_, ?_, ?_, ?_, ?_, ⟨?_, ?_, ?_, except_ok ?_, ?_, ?_, ⟨_, rfl⟩⟩, ?_⟩ <;> decide +kernel

/-- The cores 0 and 1 exchange their contexts, with core 0 at a cycle. -/
def exchanging (w : List SwapPair) (now : Nat) (s : State) : State :=
  ((s.modDie 0 fun d => { d with swaps := w }).modCore 0 fun c => { c with cycle := BitVec.ofNat 64 now, frozen := true }).modCore 1 fun c => { c with frozen := true }
def swapPair (exchange : Bool) : SwapPair := { p := 0, q := 1, since := 10, exchange := exchange, copied := false }
/-- Core 1 has a pinned strand in slot 4. -/
def pinned (f : Slot → Slot) : State := user.modCore 1 fun c => { c with slots := [(4, f { strand with pin := true })] }
/-- The tenant of core 0 is being saved. -/
def saving (s : State) : State := (s.modPart 0 fun p => { p with savb := 0x100001 }).modCore 0 fun c => { c with saving := some 1, frozen := true }
/-- VCN 9's tenant is being restored to core 5, which the map gives a VCN. -/
def restoring (vcn : Option Nat) (ready : Bool) : State :=
  ((user.setCore 5 { core0 5 [] with vcn := vcn }).modPart 0 fun p =>
    { p with quads := [0, 1], savb := 0x100001, saved := [(9, tenant)] }).modCore 5 fun c => { c with saving := some 3, frozen := true, restVcn := some 9, ctxRestored := ready }

/-- No pair, one that copies, and one that prepares: before its time and at it, with a truss busy, blocked, quiet and not; a save with nothing to
wait for, with a strand in a delay slot, and none; a restore to read, not to fit, to wait for the map, to end, and none. -/
theorem witness_TenantResult :
    (user.findPair 0 1 = none ∧ (user.coreAt 0).saving = none ∧ (user.coreAt 0).restVcn = none) ∧
    (let s := exchanging [swapPair true] 70000 user
     s.findPair 0 1 = some (swapPair true) ∧ (swapPair true).exchange = true) ∧
    (let s := exchanging [swapPair false] 65545 user
     s.findPair 0 1 = some (swapPair false) ∧ (swapPair false).exchange = false ∧ (s.coreAt 0).cycle.toNat < 10 + 2 ^ 16) ∧
    (let s := exchanging [swapPair false] 65546 user
     10 + 2 ^ 16 ≤ (s.coreAt 0).cycle.toNat ∧ (s.partAt (s.partOf 0)).trOn = false ∧ (s.partAt (s.partOf 1)).trOn = false ∧ (0 : Nat) ≠ 1) ∧
    (let s := (exchanging [swapPair false] 5 user).modCore 1 fun c => { c with truss := [trussCommand (.mzero 5 tf) 0 0 false] }
     ∃ k ∈ (s.coreAt 1).truss, k.swap = false) ∧
    (let s := seats ((List.range 15).map fun i => (1, i)) (exchanging [swapPair false] 5
       (user.modCore 0 fun c => { c with slots := (List.range 15).map fun i => (i, { strand with pin := true }) }))
     (∃ r, s.swapBlocked 0 1 = some r) ∧ (exchanging [swapPair false] 5 user).swapBlocked 0 1 = none) ∧
    (let s := exchanging [swapPair false] 5 user
     let metered := (s.modQuad 0 fun q => { q with budget := [(3, 8191)], flits := [(3, 8192)] })
     Unmetered s 0 (s.partOf 0) 3 ∧ Unmetered s 1 (s.partOf 0) 3 ∧ s.swapRoom (s.partOf 0) [0, 1] = true ∧ metered.swapRoom (metered.partOf 0) [0, 1] = false) ∧
    (∀ c ∈ [0, 1], ∀ e ∈ ((exchanging [swapPair false] 5 (pinned id)).coreAt c).slots, e.2.ds = 0 ∧ e.2.inRep = false ∧ e.2.osc = 0 ∧ e.2.host = none) ∧
    (let s := exchanging [swapPair false] 5 (pinned fun x => { x with status := 4 })
     s.swapBlocked 0 1 = none ∧ ∃ e ∈ (s.coreAt 1).slots, e.1 < 15 ∧ e.2.occupied = true ∧ e.2.pin = true ∧ e.2.ds ≠ 0) ∧
    (let s := saving user
     (s.coreAt 0).saving ≠ none ∧ (s.coreAt 0).halted = false ∧ (∀ k ∈ (s.coreAt 0).truss, k.remote = false) ∧ (∀ k < 15, (s.slotAt 0 k).kill = none) ∧
       s.swapRoom (s.partOf 0) [0] = true ∧ s.softLines (s.saveRegion (s.partOf 0) (s.vcnOf 0)) 0x100000 = [] ∧ ∀ e ∈ (s.coreAt 0).slots, e.2.kill = none ∧ e.2.ds = 0 ∧ e.2.inRep = false ∧ e.2.osc = 0 ∧ e.2.host = none) ∧
    (let s := saving (own (fun x => { x with status := 4 }) user)
     ∃ e ∈ (s.coreAt 0).slots, e.1 < 15 ∧ e.2.occupied = true ∧ e.2.ds ≠ 0 ∧ e.2.trapped = false ∧ e.2.stopped = false) ∧
    (let s := restoring (some 9) true
     (s.coreAt 5).restVcn = some 9 ∧ (s.coreAt 5).vcn = some 9 ∧ (s.coreAt 5).saving = some 3) ∧
    (let s := restoring none true
     (s.coreAt 5).restVcn = some 9 ∧ (s.coreAt 5).vcn ≠ some 9 ∧ (s.coreAt 5).ctxRestored = true) ∧
    (let s := restoring none false
     s.softLines (s.saveRegion (s.partOf 5) 9) 0x100000 = [] ∧ (s.coreAt 5).restored = none ∧
       ((s.modCore 5 fun c => { c with restored := some 2 }).coreAt 5).restored = some 2 ∧
       (s.coreAt 5).vcn ≠ some 9 ∧ (s.coreAt 5).ctxRestored = false ∧ (s.partAt (s.partOf 5)).saved.find 9 = some tenant ∧
       s.restoreFits 5 (s.saveRegion (s.partOf 5) 9) tenant = true ∧ Unmetered s 5 (s.partOf 5) 3 ∧
       (let t := s.modQuad 1 fun q => { q with budget := [(3, 8191)], flits := [(3, 8192)] }
        t.swapRoom (t.partOf 5) [5] = false)) := by
  unfold Unmetered
  refine ⟨?_, ?_, ?_, ?_, ?_, ⟨Option.isSome_iff_exists.mp ?_, ?_⟩, ?_, ?_, ?_, ?_, ?_, ?_, ?_, ?_⟩ <;> decide +kernel

/-- The system at a stage of its start. -/
def started (stage : Nat) (firmware failed : Bool) : State :=
  { State.reset with sys := { Sys.off with powered := true, stage := stage, firmware := firmware, failed := failed } }
/-- Partition 0's replay waits since phase 7 of die 0, which now has reached a phase. -/
def waitsReplay (phase : Nat) (k : Option Nat) : State :=
  ((user.modPart 0 fun p => { p with replayWait := some 7, replayCall := k }).modDie 0 fun d => { d with fphase := BitVec.ofNat _ phase }).setFrames 0
    [(4, frameOf (call 0x51 24 0x99 0x9000 0 0 0 0 []))]

/-- Power off and on; each stage with and without firmware, and after a failure; the first and the last core, of a partition that owns an ASID and
of none; the last VF and port; a replay one phase and two phases late. -/
theorem witness_StartupResult :
    (State.reset.sys.powered = false ∧ (started 0 false true).sys.powered = true) ∧
    ((started 0 true false).sys.firmware = true ∧ (started 0 false true).sys.stage = 0 ∧ (started 1 true false).sys.stage = 1 ∧ 2 ≤ (started 2 true false).sys.stage) ∧
    (((started 2 true false).coreAt 2047).up = false ∧ (started 2 true false).partOf 2047 = noPart ∧ (user.coreAt 0).up = true) ∧
    (let s : State := { user with sys := { user.sys with ast := [(7, 1), (4, 1)] }, cores := [] }
     (s.coreAt 0).up = false ∧ s.partOf 0 ≠ noPart ∧ s.asidOwned 4 (s.partOf 0) = true ∧ s.sys.powered = true) ∧
    (2 ≤ user.sys.stage ∧ (user.fnAt 32).enabled = false ∧ ((enabled user).fnAt 1).enabled = true) ∧
    ((user.partAt 0).replayWait = none ∧ ((waitsReplay 8 none).partAt 0).replayWait = some (0 * 2 ^ 32 + 7) ∧
      (((waitsReplay 8 none).dieAt 0).fphase - BitVec.ofNat 32 7).toNat < 2 ∧ 2 ≤ (((waitsReplay 9 none).dieAt 0).fphase - BitVec.ofNat 32 7).toNat ∧
      ((waitsReplay 9 none).partAt 0).replayCall = none) ∧
    (let s := waitsReplay 9 (some 4)
     let x := frameOf (call 0x51 24 0x99 0x9000 0 0 0 0 [])
     (s.partAt 0).replayCall = some 4 ∧ (s.frames 0).find 4 = some x ∧ (∀ t, s.hostWrite 0 (hdrPasid x.bytes) (hdrReply x.bytes) 32 ≠ .held t) ∧
       ∃ t, s.hostWrite 0 0x80000077 (hdrReply x.bytes) 32 = .held t) := by
  refine ⟨?_, ?_, ?_, ?_, ?_, ?_, ?_, ?_, not_held ?_, ⟨_, rfl⟩⟩ <;> decide +kernel

/-- One core, in the cycle of the strand's slot, its code at hand. -/
def single (off : Nat) (l : List (Nat × Instr)) : State :=
  (coded off l { user with cores := user.cores.take 1 }).modCore 0 fun c => { c with cycle := 35 }
/-- The strand's turn in a step of that machine. -/
def turn (s : State) : State := { s.beginStep.beginCycle 0 with core := 0, slot := s.beginStep.visited 0 }

theorem next_of {o : Host.Outcome State Fault Refusal} {P : State → Prop} [DecidablePred P]
    (h : (match o with
      | .next t => decide (P t)
      | _ => false) = true) : ∃ t, o = .next t ∧ P t := by
  cases o with
  | next t => exact ⟨t, rfl, of_decide_eq_true h⟩
  | fault => cases h
  | refused => cases h

/-- A strand whose turn it is, at an instruction and at the tail before one. -/
theorem witness_StepRunsDecoded :
    (let s := single 0 [(0, .movi false 4 77)]
     let b := turn s
     s.beginStep.upCores = [0] ∧ s.beginStep.events = [] ∧ (s.beginStep.beginCycle 0).tryable 0 (s.beginStep.visited 0) = true ∧ (∀ j < 15, (s.beginStep.slotAt 0 j).stopReq = false) ∧
       ((s.beginStep.beginCycle 0).coreAt 0).arriving = false ∧ b.cur.inRep = false ∧
       b.cur.pc.toNat % 4 = 0 ∧ b.cur.pc.toNat % 32 ≠ 28 ∧ CodeAt b b.cur.pc 0x000400A9 (.movi false 4 77) 12 ∧
       ∃ t, exec (.movi false 4 77) b = .next t ∧ ((t.slotAt 0 3).occupied = true ∧ (t.slotAt 0 3).wait = .none)) ∧
    (let s := single 28 [(32, .nop false)]
     let b := turn s
     let here := b.modCur fun x => { x with pc := x.pc + 4 }
     s.beginStep.upCores = [0] ∧ s.beginStep.events = [] ∧ (s.beginStep.beginCycle 0).tryable 0 (s.beginStep.visited 0) = true ∧ b.cur.inRep = false ∧
       b.cur.pc.toNat % 32 = 28 ∧ b.cur.entered = false ∧ CodeAt here here.cur.pc 4 (.nop false) 8 ∧ ∃ t, exec (.nop false) here = .next t ∧ (t.slotAt 0 3).wait = .none) := by
  refine ⟨⟨?_, ?_, ?_, ?_, ?_, ?_, ?_, ?_, codeAt_of ?_ ?_ ?_ ?_ ?_ ?_, next_of ?_⟩, ⟨?_, ?_, ?_, ?_, ?_, ?_, codeAt_of ?_ ?_ ?_ ?_ ?_ ?_, next_of ?_⟩⟩ <;> decide +kernel

/-- A state that a step starts from and answers a next one. -/
theorem witness_MemoryStaysCanonical : MemOk user ∧ Runs (single 0 [(0, .nop false)]) := by
  refine ⟨by unfold MemOk; decide, ?_⟩
  obtain ⟨t, h, -⟩ : ∃ t, step (single 0 [(0, .nop false)]) = .next t ∧ t.core = t.core := next_of (by decide +kernel)
  exact ⟨t, h⟩

/-- An instruction of each format with its fields at their ends. -/
theorem witness_DecodeEncode :
    [Instr.ext true 15 15 true 63 0, .qnt 31 31 15 { imm := 0, aux := 1, sat := false, rnd := .dyn, type := .i8, mask := 7 },
      .isub 15 15 15 7 { sstr := 0xFF, dstr := 0x7FF, yf := 0, xf := 0, scope := .pkg, bph := 0, bv := false, boff := 0 },
      .mstrm 15 { noff := 0xFFFF, koff := 0xFFFF, count := 0xFFF, row0 := 0xFF, tb := 0, ta := 31 }].all (fun i => i.encoded) = true ∧
    (Instr.ext true 15 15 true 63 0).wf = true := by decide

/-! ### Results: the worked examples of the spec -/

/-- What a next state holds. -/
def nextHas (o : Host.Outcome State Fault Refusal) (f : State → Bool) : Bool :=
  match o with
  | .next t => f t
  | _ => false

/-- The worked address of R56: PA 0x21_2345_7000 is homed on CD1 in slice 3. -/
theorem test_home_slice : user.homeQuadOf 0x2123457000 = 64 + 3 := by decide
/-- The worked reductions of R78: three sums at 2^24, one by one and in the other grouping. -/
theorem test_red_fadd :
    redApply .faddF32 4 0x4B800000 0x3F800000 = 0x4B800000 ∧ redApply .faddF32 4 0x4B800000 0x40000000 = 0x4B800001 ∧
    redApply .faddF32 4 0x4B800001 0x40000000 = 0x4B800002 := by decide +kernel
/-- The worked DADD of R221: lane 0 of d1 and of d2. -/
theorem test_dadd :
    let a : DistReg := { image := (mkLane [0, 0x40800000] [0x4000, 0x4000]).setWidth 6144, lineage := 1 }
    let b : DistReg := { image := (mkLane [0, 0x3F800000] [0x5000, 0x3000]).setWidth 6144, lineage := 2 }
    nextHas (exec (.dadd 3 1 2) (dists a b user)) (fun t =>
      (t.cur.dist 3).lane 0 == mkLane [0, 0, 0x3F000000, 0x3F800000, 0x40800000, 0x40800000, 0x40900000, 0x40A00000] (List.replicate 8 0x1000) &&
        (t.cur.dist 3).lineage == 3 && t.cur.dstat == 0) = true := by decide +kernel
/-- The moments and the quantile of the same example: 2.375, 4.171875 and 1.0. -/
theorem test_dmom_dqnt :
    let l := mkLane [0, 0, 0x3F000000, 0x3F800000, 0x40800000, 0x40800000, 0x40900000, 0x40A00000] (List.replicate 8 0x1000)
    moment 1 l = 0x40180000 ∧ moment 2 l = 0x40858000 ∧ quantile 0x4000 l = 0x3F800000 := by decide +kernel
/-- The same DADD with both lineages 1: the pairs (0, 0) and (1, 1) only, and DEP is set. -/
theorem test_dadd_same :
    let a : DistReg := { image := (mkLane [0, 0x40800000] [0x4000, 0x4000]).setWidth 6144, lineage := 1 }
    let b : DistReg := { image := (mkLane [0, 0x3F800000] [0x5000, 0x3000]).setWidth 6144, lineage := 1 }
    nextHas (exec (.dadd 3 1 2) (dists a b user)) (fun t =>
      ((List.range 8).filter fun i => pointV ((t.cur.dist 3).lane 0) i == 0x40A00000 && pointW ((t.cur.dist 3).lane 0) i == 0x1000).length == 4 &&
        t.cur.dstat == 1) = true := by decide +kernel
/-- The worked row of chapter 14: 64 products of 1.0 added to 2^24 at once give 16,777,280.0, and the other columns keep their values. -/
theorem test_mstrm_row :
    let t : TForm := { noff := 0, koff := 0, count := 1, row0 := 2, tb := 0, ta := 1 }
    let s := (user.storeBytes (2 ^ 52 + 0x2000) ((List.range 64).flatMap fun _ => [0x80, 0x3F])).modCore 0 fun c =>
      { c with
        truss := [trussCommand (.mstrm 6 t) (matrix 64 1 128 9) 0 false], plate := [(2 * 128, 0x4B800000), (2 * 128 + 5, 7)]
        active := { c.active with cells := BitVec.ofNat 131072 (((List.range 64).map fun m => 0x3F80 * 2 ^ (16 * 128 * m)).sum) } }
    nextHas (exec (.trussRowStep 0 2) s) (fun u =>
      (u.coreAt 0).plate.get 0 (2 * 128) == 0x4B800020 && (u.coreAt 0).plate.get 0 (2 * 128 + 5) == 7) = true := by decide +kernel
/-- The worked trap of chapter 16: a store of slot 3 to a page without W. -/
theorem test_page_protect :
    let s := two (({ user with sys := { user.sys with ast := [(0, 1)] } } : State).modCore 0 fun c => { c with l1tlb := [page 0x401000 0xC0B] }) 0x401000 0
    nextHas (exec (.st false 4 6 { mf with size := .w }) s) (fun t =>
      (t.coreAt 0).trapQ == [{ w0 := 0x800000000003000A, w1 := 0x401000 }] && (t.slotAt 0 3).trapped) = true := by decide +kernel
/-- The worked REP of chapter 11: n = 1, k = 4 and s = 1 leave REPS with V 1, N 0, K 3, S 1. -/
theorem test_rep :
    nextHas (exec (.rep 0 3 1) (coded 8 [(8, .rep 0 3 1), (16, vaddCode)] user)) (fun t =>
      t.cur.reps == (1 : BitVec 1) ++ (0 : BitVec 3) ++ (3 : BitVec 8) ++ (1 : BitVec 4) ++ (0 : BitVec 48) && t.cur.pc == 0x1018) = true := by decide +kernel
/-- The worked channel of chapter 13: eight elements of four bytes. -/
theorem test_chan :
    nextHas (exec (.chan 2 1 3 0 3) user) (fun t =>
      ((t.recsAt 0).map fun e => (e.1, e.2.ldepth.toNat, e.2.esize.toNat)) == [(0, 3, 0), (2, 3, 0)] && t.cur.tags.getLsbD 2 && t.cur.tags.getLsbD 3) = true := by
  decide +kernel

end Sys2Proof.Tests
end

/-! SUPPORT. A RED of a strand whose last request is answered (R116), and the statement that it refutes. -/

namespace Sys2Proof.Machine

open Sys2Proof.Safety

/-- The meaning of RED is `execRed`. -/
theorem exec_red_eq (e : Bool) (op : RedOp) (ra rc : GReg) (m : MForm) (s : State) :
    exec (.red e op ra rc m) s = execRed e op ra rc m s := rfl

@[simp] theorem begun_cur_op (s : State) : (begun s).cur.op = s.cur.op := by simp [begun]

theorem ea_ok {s : State} {ra : GReg} {m : MForm} (h : s.cur.tags.getLsbD ra.toNat = false) :
    ea ra m s = .ok (s.cur.g[ra.toNat]! + sx64 m.disp, s) := by
  rw [ea, bind_ok (srcG ra) _ s s _ (srcG_ok h)]
  rfl

/-- A reduction whose request is answered only takes the answer: it performs nothing at its address (R116). -/
theorem redOp_answered {s : State} {e : Bool} {op : RedOp} {size : Size} {o : Order} {a v : Word} {x : Nat} (h : s.cur.op = .done v) :
    redOp e op size o a x s = .ok (.done, s.modCur fun y => { y with op := .idle }) := by
  rw [redOp, bind_ok cur _ s s s.cur rfl, h]
  rfl

/-- So a RED that may run completes and takes the answer, whatever its operands name. -/
theorem exec_red_answered {s : State} {e : Bool} {op : RedOp} {ra rc : GReg} {m : MForm} {v : Word} (hr : Safety.Ready s e false [ra, rc] [])
    (h : s.cur.op = .done v) :
    exec (.red e op ra rc m) s = .next (done s e 8 .done ((begun s).modCur fun y => { y with op := .idle })) := by
  obtain ⟨hw, ht, hm, he⟩ := hr
  have htag (r : GReg) (hr : r ∈ [ra, rc]) : (begun s).cur.tags.getLsbD r.toNat = false := by
    simpa using ht r (by simpa using hr)
  rw [exec_red_eq, execRed]
  refine runStrand_ok (issue_ok hw hm he ?_)
  rw [bind_ok (srcStore rc) _ _ _ _ (srcStore_ok (htag rc (by simp))), bind_ok (ea ra m) _ _ _ _ (ea_ok (htag ra (by simp)))]
  exact redOp_answered (by rw [begun_cur_op, h])

@[simp] theorem State.postElect_mem (s : State) (n : Nat) (v : PostedValue) : (s.postElect n v).mem = s.mem := by
  have keeps (cs : List Nat) (t : State) :
      (cs.foldl (fun t c => if c ≠ s.core ∧ s.cur.live.getLsbD (c % 4) then
        t.modSlot c s.slot fun x => { x with electQ := x.electQ ++ [{ n := n, value := v }] } else t) t).mem = t.mem := by
    induction cs generalizing t with
    | nil => rfl
    | cons c cs ih => rw [List.foldl_cons, ih]; split <;> rfl
  exact keeps (quadCores s.core) s

/-- Moving to the next instruction and posting a result leave memory as the effect left it. -/
@[simp] theorem done_mem (s t : State) (e : Bool) (len : Nat) (v : PostedValue) : (done s e len v t).mem = t.mem := by
  cases e <;> simp [done]

/-! ### The counterexample -/

/-- The only live member of a gang, the answer of whose reduction has come. Its g4 holds the first address of its core's local store and its g6
holds 1: with DSTOP a supervisor can stop a strand that waits for the reduction of an elect step, write its registers, and start it again. -/
def answeredStrand : Slot :=
  (({ Slot.vacant with occupied := true, sid := 1, status := 0x18000, op := .done 0 } : Slot).setG 4 0x7E0000000000).setG 6 1

/-- Core 0, of partition 0, issues that strand's instruction from slot 0; memory is all zero. -/
def answeredState : State :=
  { State.reset with
    core := 0, slot := 0, serial := 2
    parts := [(0, { Part.none with exists_ := true, quads := [0] })]
    cores := [(0, { Core.off with up := true, slots := [(0, answeredStrand)] })] }

/-- A relaxed access of a byte, without displacement. -/
def byteForm : MForm := { zx := false, size := .b, order := .rlx, scope := .core, disp := 0 }

theorem answeredState_ready : Safety.Ready answeredState true false [4, 6] [] := by
  refine ⟨by unfold Written; decide, by unfold Untagged; decide, fun h => absurd h (by decide), fun _ => ?_⟩
  unfold Elected NoSlot
  decide

theorem answeredState_ownStore : OwnStore answeredState (address answeredState 4 byteForm) 0 1 := by
  unfold OwnStore
  decide

theorem answeredState_inOrder : InOrder answeredState .rlx :=
  ⟨fun h => absurd h (by decide), ⟨rfl, rfl⟩, fun _ h => absurd h (by simp [answeredState, State.reset])⟩

/-- Refutes O13, in the clause of RED: its hypotheses do not say that the strand has no request made or answered (`Slot.op`). In a state where
the request is answered, RED.ADD completes and leaves the byte at its address 0, where the clause says 0 + 1. -/
theorem not_localAtomicAndBitResult : ¬ Obligations.LocalAtomicAndBitResult := by
  unfold Obligations.LocalAtomicAndBitResult
  rintro ⟨atomics, -⟩
  obtain ⟨-, reds, -⟩ := atomics answeredState true 5 4 7 6 byteForm 0
  obtain ⟨hadd, -⟩ := reds answeredState_ready (by decide) (by decide) (by decide) answeredState_ownStore answeredState_inOrder (by decide)
  rw [exec_red_answered answeredState_ready (v := 0) rfl] at hadd
  have hmem := congrArg State.mem (Host.Outcome.next.inj hadd)
  rw [done_mem, done_mem] at hmem
  revert hmem
  decide

end Sys2Proof.Machine

/-! SUPPORT. Channel messages at the records they meet, and the retirement of records (R123, R130 to R137). -/

namespace Sys2Proof.Machine

open Sys2Proof.Safety

/-! ### Sequence numbers -/

theorem later_iff {a b : BitVec 32} : later a b = true ↔ IsLater a b := decide_eq_true_iff

theorem later_eq_false_iff {a b : BitVec 32} : later a b = false ↔ ¬ IsLater a b := decide_eq_false_iff_not

theorem latest_eq_laterOf (a b : BitVec 32) : latest a b = laterOf a b := by
  simp only [latest, laterOf, later_iff]

/-! ### What writing a record and sending a message leave unchanged -/

@[simp] theorem State.quadAt_setRec (s : State) (core k : Nat) (r : ChanRec) (q : Nat) : (s.setRec core k r).quadAt q = s.quadAt q := by
  simp only [State.setRec, State.quadAt_modCore]
  split
  · rw [State.quadAt_store]
  · rw [State.quadAt_store, State.quadAt_store]

@[simp] theorem State.quadAt_setRoute (s : State) (core i : Nat) (side : Side) (number : BitVec 24) (k q : Nat) :
    (s.setRoute core i side number k).quadAt q = s.quadAt q := rfl

@[simp] theorem State.quadAt_cleanRoute (s : State) (core fuel i q : Nat) : (s.cleanRoute core fuel i).quadAt q = s.quadAt q := by
  induction fuel generalizing s i with
  | zero => rfl
  | succ n ih =>
    rw [State.cleanRoute]
    split
    · rw [ih, State.quadAt_store]
    · rfl

@[simp] theorem State.quadAt_unlinkRec (s : State) (core k : Nat) (r : ChanRec) (q : Nat) : (s.unlinkRec core k r).quadAt q = s.quadAt q := by
  unfold State.unlinkRec
  repeat' split
  all_goals simp

@[simp] theorem State.quadAt_delRec (s : State) (core k q : Nat) : (s.delRec core k).quadAt q = s.quadAt q := by
  unfold State.delRec
  split <;> simp

theorem unmetered_of_quadAt {s t : State} {core part cls : Nat} (h : Unmetered s core part cls) (e : t.quadAt (core / 4) = s.quadAt (core / 4)) :
    Unmetered t core part cls := by
  rwa [Unmetered, e]

/-- Where no router meters the channel class, a message sent is on its way at once (R126, R185). -/
theorem State.send_eq_post {s : State} {core : Nat} {m : Msg} (h : Unmetered s core m.part 2) : s.send core m = s.post (arrivalOf m) := by
  have hb : s.budgetAt core (budgetKey m.part 2) = 0 := congrArg BitVec.toNat h
  simp [State.send, State.emit, State.countFlits, hb]

/-- What a stub forwards: only DST, MOVE and FWD change (R126). -/
theorem State.forward_eq_post {s : State} {core : Nat} {r : ChanRec} {m : Msg} (h : Unmetered s core m.part 2) :
    s.forward core r m = s.post (arrivalOf { m with dst := r.target, dstVcn := r.targetVcn, move := r.myMove + 1, fwd := true }) :=
  State.send_eq_post h

/-! ### Where a message arrives -/

theorem arrivalOf_ack {m : Msg} (h : m.kind = .ack) : arrivalOf m = .ackArrival m := by rw [arrivalOf, h]
theorem arrivalOf_broken {m : Msg} (h : m.kind = .broken) : arrivalOf m = .brokenArrival m := by rw [arrivalOf, h]
theorem arrivalOf_repoint {m : Msg} (h : m.kind = .repoint) : arrivalOf m = .repointArrival m := by rw [arrivalOf, h]

/-- Each arrival is `State.arrive` with the handler of its kind. -/
theorem exec_arrivalOf (m : Msg) : ∃ f, ∀ s, exec (arrivalOf m) s = .next (s.arrive m f) := by
  unfold arrivalOf
  cases m.kind <;> exact ⟨_, fun _ => rfl⟩

theorem exec_arrivalOf_waits {s : State} {m : Msg} (h : s.msgCore m = none) : exec (arrivalOf m) s = .next (s.post (arrivalOf m)) := by
  obtain ⟨f, hf⟩ := exec_arrivalOf m
  rw [hf, State.arrive, h]

theorem exec_arrivalOf_drops {s : State} {m : Msg} {core : Nat} (hc : s.msgCore m = some core) (hr : s.msgRec core m = none) :
    exec (arrivalOf m) s = .next (s.dropMsg m) := by
  obtain ⟨f, hf⟩ := exec_arrivalOf m
  simp only [hf, State.arrive, hc, hr]

theorem msgCore_of_held_back {s : State} {m : Msg} (hv : m.dstVcn = true)
    (h : s.vcnCore m.part m.dst = none ∨ (s.partAt m.part).saved.find m.dst ≠ none) : s.msgCore m = none := by
  rw [State.msgCore, hv]
  rcases h with h | h
  · simp [h]
  · simp [Option.isSome_iff_ne_none.mpr h]

theorem msgCore_of_core {s : State} {m : Msg} (h : m.dstVcn = false) : s.msgCore m = some m.dst := by
  simp [State.msgCore, h]

theorem msgCore_of_vcn {s : State} {m : Msg} {core : Nat} (hv : m.dstVcn = true) (hs : (s.partAt m.part).saved.find m.dst = none)
    (hc : s.vcnCore m.part m.dst = some core) : s.msgCore m = some core := by
  simp [State.msgCore, hv, hs, hc]

theorem msgCore_of_meets {s : State} {m : Msg} {core k : Nat} {r : ChanRec} (h : Meets s m core k r) : s.msgCore m = some core := by
  obtain ⟨hcore, hvcn, -⟩ := h
  cases hv : m.dstVcn with
  | false => rw [msgCore_of_core hv, hcore hv]
  | true => exact msgCore_of_vcn hv (hvcn hv).1 (hvcn hv).2

/-- An arrival whose message meets a record is handled by it, and the record may retire. -/
theorem exec_of_meets {s t : State} {i : Instr} {m : Msg} {core k : Nat} {r : ChanRec} {handler : State → Nat → Nat → ChanRec → State}
    (h : Meets s m core k r) (hi : exec i s = .next (s.arrive m handler)) (e : handler s core k r = t) :
    exec i s = .next (t.settleRec core k) := by
  have ⟨_, _, hrec⟩ := h
  simp only [hi, State.arrive, msgCore_of_meets h, hrec, e]

/-! ### At a mortise-side record (R130, R135, R136) -/

theorem ChanRec.myMove_mortise {r : ChanRec} (h : r.side = .mortise) : r.myMove = r.move := by
  simp [ChanRec.myMove, h]

theorem ChanRec.myMove_tenon {r : ChanRec} (h : r.side = .tenon) : r.myMove = r.tmove := by
  simp [ChanRec.myMove, h]

section
variable {s : State} {core k : Nat} {r : ChanRec} {m : Msg}

/-- An end marker at a record that stores what arrives is noted in the record. -/
theorem mortiseArrive_end_stored (hs : r.state = .openS ∨ (r.state = .mstub ∧ r.claimed = false)) (hk : m.kind = .endM) :
    s.mortiseArrive core k r m =
      (let t := s.setRec core k { r with endv := true, endseq := m.value }
       if r.state = .openS then t.landTransit r m.value true else t) := by
  rcases hs with hs | ⟨hs, hc⟩
  · simp [State.mortiseArrive, ChanRec.noteArrival, hk, hs]
  · simp [State.mortiseArrive, ChanRec.noteArrival, hk, hs, hc]

/-- An element at such a record stands in its buffer, a joint with its mark and its seals. -/
theorem mortiseArrive_data_stored (hs : r.state = .openS ∨ (r.state = .mstub ∧ r.claimed = false)) (hk : m.kind = .data) :
    s.mortiseArrive core k r m =
      (let e := r.elem m.value
       let put := (s.storeBytes (lsKey core (r.elemOff e)) ((m.payload ++ List.replicate 64 0).take (elemBytes r.esize))).setRec core k
         { r with pres := setBit r.pres e true, marks := setBit r.marks e (m.esize == 7) }
       let t := if m.esize = 7 then put.seal core (r.elemSectors e) else put
       if r.state = .openS then t.landTransit r m.value true else t) := by
  rcases hs with hs | ⟨hs, hc⟩
  · simp [State.mortiseArrive, ChanRec.stores, State.storeElem, hk, hs]
  · simp [State.mortiseArrive, ChanRec.stores, State.storeElem, hk, hs, hc]

theorem mortiseArrive_end_shut (hs : r.state = .shut) (hk : m.kind = .endM) :
    s.mortiseArrive core k r m = (s.setRec core k (r.noteArrival m)).settleTransit r.part r.number r.inc false m.value := by
  simp [State.mortiseArrive, hs, hk]

/-- An element at a SHUT record is consumed; a joint is owed its drop. -/
theorem mortiseArrive_data_shut (hs : r.state = .shut) (hk : m.kind = .data) :
    s.mortiseArrive core k r m =
      (let note := (s.setRec core k (r.noteArrival m)).settleTransit r.part r.number r.inc false m.value
       if m.esize = 7 then note.post (.takeAndDrop core k) else note) := by
  simp [State.mortiseArrive, ChanRec.stores, hs, hk]

/-- A claimed mortise stub notes what arrives and forwards it. -/
theorem mortiseArrive_claimed (hside : r.side = .mortise) (hs : r.state = .mstub) (hc : r.claimed = true)
    (hk : m.kind = .data ∨ m.kind = .endM) (hu : Unmetered s core m.part 2) :
    s.mortiseArrive core k r m =
      (s.setRec core k (r.noteArrival m)).post
        (.channelDataArrival { m with dst := r.target, dstVcn := r.targetVcn, move := r.move + 1, fwd := true }) := by
  have hpost := State.forward_eq_post (r := r) (unmetered_of_quadAt hu (State.quadAt_setRec s core k (r.noteArrival m) _))
  rw [ChanRec.myMove_mortise hside] at hpost
  rcases hk with hk | hk <;> simp [State.mortiseArrive, ChanRec.stores, hs, hc, hpost, arrivalOf, hk]

theorem announceArrive_claimed (hside : r.side = .mortise) (hs : r.state = .mstub) (hc : r.claimed = true) (hk : m.kind = .announce)
    (hu : Unmetered s core m.part 2) :
    s.announceArrive core k r m =
      (s.setRec core k (if IsLater m.smove r.tmove then { r with tloc := m.src, tmove := m.smove } else r)).post
        (.announceArrival { m with dst := r.target, dstVcn := r.targetVcn, move := r.move + 1, fwd := true }) := by
  have hpost (x : ChanRec) := State.forward_eq_post (r := x) (unmetered_of_quadAt hu (State.quadAt_setRec s core k x _))
  by_cases hn : IsLater m.smove r.tmove
  · rw [if_pos hn]
    simp [State.announceArrive, later_iff.mpr hn, hs, hc, hpost, arrivalOf, hk, ChanRec.myMove, hside]
  · rw [if_neg hn]
    simp [State.announceArrive, later_eq_false_iff.mpr hn, hs, hc, hpost, arrivalOf, hk, ChanRec.myMove, hside]

theorem announceArrive_unclaimed (hs : r.state = .mstub) (hc : r.claimed = false) :
    s.announceArrive core k r m =
      s.setRec core k (if IsLater m.smove r.tmove then { r with tloc := m.src, tmove := m.smove, hn := true } else r) := by
  by_cases hn : IsLater m.smove r.tmove
  · rw [if_pos hn]
    simp [State.announceArrive, later_iff.mpr hn, hs, hc]
  · rw [if_neg hn]
    simp [State.announceArrive, later_eq_false_iff.mpr hn, hs, hc]

theorem announceArrive_older (hs : r.state ≠ .mstub) (hn : ¬ IsLater m.smove r.tmove) : s.announceArrive core k r m = s := by
  simp [State.announceArrive, hs, later_eq_false_iff.mpr hn]

/-- A later announcement is answered by the RELEASE of the old tenon record, and a SHUT record sends its BROKEN again. -/
theorem announceArrive_newer (hs : r.state ≠ .mstub) (hn : IsLater m.smove r.tmove) (hu : Unmetered s core r.part 2) :
    s.announceArrive core k r m =
      (let u := s.post (.releaseArrival (answer core r .release .tenon r.tmove r.tloc r.tsent m.smove 0 false))
       let r' := { r with tloc := m.src, tmove := m.smove, tsent := 0 }
       if r.state = .shut then
         ((u.setRec core k r').setRec core k { r' with tsent := 1 }).post
           (.brokenArrival { answer core r .broken .tenon m.smove m.src 0 0 0 true with aux := 1 })
       else u.setRec core k r') := by
  have hrelease : s.send core { Msg.plain .release r .tenon r.tmove core r.tloc with value := r.tsent, new := m.smove } =
      s.post (.releaseArrival (answer core r .release .tenon r.tmove r.tloc r.tsent m.smove 0 false)) := State.send_eq_post hu
  simp only [State.announceArrive, if_neg hs, if_pos (later_iff.mpr hn), hrelease]
  split
  · exact State.send_eq_post (unmetered_of_quadAt hu (by simp))
  · rfl

theorem drainArrive_eq :
    s.drainArrive core k r m =
      s.setRec core k
        { r with
          df := laterOf r.df m.value, dnew := laterOf r.dnew m.new, dfin := r.dfin || m.fin, dtm := laterOf r.dtm m.smove
          upp := r.upp && ! m.fwd } := by
  simp only [State.drainArrive, latest_eq_laterOf]

theorem forwardStored_of_none (h : r.pres = 0) (n : Nat) (q : BitVec 32) : s.forwardStored core r n q = s := by
  induction n generalizing q with
  | zero => rfl
  | succ n ih => simp [State.forwardStored, h, ih]

/-- A mortise stub that holds nothing for the record that claims it forwards nothing. -/
theorem claimMortise_of_nothing_held (hp : r.pres = 0) (hn : r.hn = false)
    (he : r.endv = true → r.endCarried = true ∨ IsLater r.cons r.endseq) :
    s.claimMortise core k r =
      (s.setRec core k { (advanceFwd 257 r) with marks := 0, hn := false }).unseal core r.sealedSectors := by
  have hend : ¬ (r.endv = true ∧ (! r.endCarried) = true ∧ (! later r.cons r.endseq) = true) := by
    rintro ⟨hv, hcar, hl⟩
    rw [Bool.not_eq_true'] at hcar hl
    exact (he hv).elim (by simp [hcar]) (later_eq_false_iff.mp hl)
  simp only [State.claimMortise, forwardStored_of_none hp, if_neg hend, hn, Bool.false_eq_true, if_false]

theorem claimArrive_mstub (hs : r.state = .mstub) (hc : r.claimed = false) (hp : r.pres = 0) (hn : r.hn = false)
    (he : r.endv = true → r.endCarried = true ∨ IsLater r.cons r.endseq) :
    s.claimArrive core k r m =
      ((s.setRec core k
        { (advanceFwd 257 { r with target := m.src, targetVcn := false, claimed := true }) with marks := 0, hn := false }).unseal core
        r.sealedSectors) := by
  have hstub : ¬ ((! r.isStub) = true ∨ r.claimed = true) := by simp [ChanRec.isStub, hs, hc]
  simp only [State.claimArrive, if_neg hstub, if_pos hs]
  exact claimMortise_of_nothing_held hp hn he

theorem claimArrive_not_stub (ht : r.state ≠ .tstub) (hm : r.state ≠ .mstub) : s.claimArrive core k r m = s := by
  simp [State.claimArrive, ChanRec.isStub, ht, hm]

end

/-! ### At a tenon-side record (R132, R135, R136) -/

@[simp] theorem ChanRec.count_state (r : ChanRec) (m : Msg) : (r.count m).state = r.state := by unfold ChanRec.count; split <;> rfl
@[simp] theorem ChanRec.count_claimed (r : ChanRec) (m : Msg) : (r.count m).claimed = r.claimed := by unfold ChanRec.count; split <;> rfl
@[simp] theorem ChanRec.count_inc (r : ChanRec) (m : Msg) : (r.count m).inc = r.inc := by unfold ChanRec.count; split <;> rfl
@[simp] theorem ChanRec.count_number (r : ChanRec) (m : Msg) : (r.count m).number = r.number := by unfold ChanRec.count; split <;> rfl
@[simp] theorem ChanRec.count_part (r : ChanRec) (m : Msg) : (r.count m).part = r.part := by unfold ChanRec.count; split <;> rfl
@[simp] theorem ChanRec.count_next (r : ChanRec) (m : Msg) : (r.count m).next = r.next := by unfold ChanRec.count; split <;> rfl
@[simp] theorem ChanRec.count_ackd (r : ChanRec) (m : Msg) : (r.count m).ackd = r.ackd := by unfold ChanRec.count; split <;> rfl
@[simp] theorem ChanRec.count_route (r : ChanRec) (m : Msg) : (r.count m).route = r.route := by unfold ChanRec.count; split <;> rfl
@[simp] theorem ChanRec.count_move (r : ChanRec) (m : Msg) : (r.count m).move = r.move := by unfold ChanRec.count; split <;> rfl
@[simp] theorem ChanRec.count_tmove (r : ChanRec) (m : Msg) : (r.count m).tmove = r.tmove := by unfold ChanRec.count; split <;> rfl
@[simp] theorem ChanRec.count_target (r : ChanRec) (m : Msg) : (r.count m).target = r.target := by unfold ChanRec.count; split <;> rfl
@[simp] theorem ChanRec.count_targetVcn (r : ChanRec) (m : Msg) : (r.count m).targetVcn = r.targetVcn := by unfold ChanRec.count; split <;> rfl
@[simp] theorem ChanRec.count_fwdn (r : ChanRec) (m : Msg) : (r.count m).fwdn = r.fwdn := by unfold ChanRec.count; split <;> rfl
@[simp] theorem ChanRec.count_myMove (r : ChanRec) (m : Msg) : (r.count m).myMove = r.myMove := by unfold ChanRec.count; split <;> rfl

@[simp] theorem ChanRec.noteFin_state (r : ChanRec) (m : Msg) : (r.noteFin m).state = r.state := by unfold ChanRec.noteFin; split <;> rfl
@[simp] theorem ChanRec.noteFin_inc (r : ChanRec) (m : Msg) : (r.noteFin m).inc = r.inc := by unfold ChanRec.noteFin; split <;> rfl
@[simp] theorem ChanRec.noteFin_number (r : ChanRec) (m : Msg) : (r.noteFin m).number = r.number := by unfold ChanRec.noteFin; split <;> rfl
@[simp] theorem ChanRec.noteFin_part (r : ChanRec) (m : Msg) : (r.noteFin m).part = r.part := by unfold ChanRec.noteFin; split <;> rfl
@[simp] theorem ChanRec.noteFin_next (r : ChanRec) (m : Msg) : (r.noteFin m).next = r.next := by unfold ChanRec.noteFin; split <;> rfl
@[simp] theorem ChanRec.noteFin_ackd (r : ChanRec) (m : Msg) : (r.noteFin m).ackd = r.ackd := by unfold ChanRec.noteFin; split <;> rfl
@[simp] theorem ChanRec.noteFin_route (r : ChanRec) (m : Msg) : (r.noteFin m).route = r.route := by unfold ChanRec.noteFin; split <;> rfl
@[simp] theorem ChanRec.noteFin_move (r : ChanRec) (m : Msg) : (r.noteFin m).move = r.move := by unfold ChanRec.noteFin; split <;> rfl
@[simp] theorem ChanRec.noteFin_tmove (r : ChanRec) (m : Msg) : (r.noteFin m).tmove = r.tmove := by unfold ChanRec.noteFin; split <;> rfl

theorem ChanRec.noteFin_eq (r : ChanRec) (m : Msg) :
    r.noteFin m = if m.fin = true ∧ m.fwd = false then { r with dn := m.aux, dnv := true } else r := by
  simp [ChanRec.noteFin]

section
variable {s : State} {core k : Nat} {r n : ChanRec} {m : Msg}

theorem ackArrive_live (hn : (r.count m).noteFin m = n) (hs : r.state ≠ .tstub) :
    s.ackArrive core k r m =
      (s.settleTransit r.part r.number r.inc true m.value).setRec core k { n with ackd := laterOf n.ackd m.value } := by
  subst hn
  simp [State.ackArrive, hs, latest_eq_laterOf]

/-- The last DRAIN of a record that has counted a message tells of the record as it was. -/
theorem send_finalDrain {t : State} (hu : Unmetered t core r.part 2) :
    t.send core (((r.count m).noteFin m).finalDrain core) =
      t.post (.drainArrival (answer core r .drain .mortise r.move r.route r.next r.move r.tmove true)) := by
  rw [State.send_eq_post (by simpa [ChanRec.finalDrain, Msg.plain] using hu)]
  simp [ChanRec.finalDrain, Msg.plain, answer, arrivalOf]

theorem brokenArrive_open (hn : (r.count m).noteFin m = n) (hs : r.state = .openS) (hu : Unmetered s core r.part 2) :
    s.brokenArrive core k r m =
      (s.setRec core k { n with state := .broken }).post
        (.drainArrival (answer core r .drain .mortise r.move r.route r.next r.move r.tmove true)) := by
  subst hn
  rw [← send_finalDrain (m := m) (unmetered_of_quadAt hu (by simp))]
  simp [State.brokenArrive, hs]

theorem brokenArrive_tail (hn : (r.count m).noteFin m = n) (hs : r.state = .tail) (hu : Unmetered s core r.part 2) :
    s.brokenArrive core k r m =
      (s.setRec core k n).post (.drainArrival (answer core r .drain .mortise r.move r.route r.next r.move r.tmove true)) := by
  subst hn
  rw [← send_finalDrain (m := m) (unmetered_of_quadAt hu (by simp))]
  simp [State.brokenArrive, hs]

/-- A later mortise is followed: the old one is sent the DRAIN of what went there. -/
theorem repointArrive_newer (hn : (r.count m).noteFin m = n) (hs : r.state ≠ .tstub) (hl : IsLater m.smove r.move)
    (hu : Unmetered s core r.part 2) :
    s.repointArrive core k r m =
      (s.setRec core k { n with route := m.src, move := m.smove }).post
        (.drainArrival (answer core r .drain .mortise r.move r.route r.next m.smove r.tmove false)) := by
  subst hn
  refine Eq.trans ?_ (State.send_eq_post (m := answer core r .drain .mortise r.move r.route r.next m.smove r.tmove false)
    (unmetered_of_quadAt hu (State.quadAt_setRec ..)))
  simp [State.repointArrive, hs, later_iff.mpr hl, Msg.plain, answer]

theorem repointArrive_older (hn : (r.count m).noteFin m = n) (hs : r.state ≠ .tstub) (hl : ¬ IsLater m.smove r.move) :
    s.repointArrive core k r m = s.setRec core k n := by
  subst hn
  simp [State.repointArrive, hs, later_eq_false_iff.mpr hl]

theorem releaseArrive_eq :
    s.releaseArrive core k r m =
      s.setRec core k
        (if m.fwd then { r with newt := laterOf r.newt m.new, upn := m.value, upp := false }
         else { r with newt := laterOf r.newt m.new, dn := m.value, dnv := true }) := by
  simp only [State.releaseArrive, latest_eq_laterOf]

/-- An unclaimed tenon stub holds the acknowledgement for the record that claims it. -/
theorem ackArrive_unclaimed (hs : r.state = .tstub) (hc : r.claimed = false) :
    s.ackArrive core k r m =
      (s.modTransit r.part r.number r.inc true fun x =>
        some (if x.value = m.value ∨ x.held = true then { x with value := laterOf r.ackd m.value, held := true } else x)).setRec core k
          { r.count m with ackd := laterOf r.ackd m.value, ha := true } := by
  simp [State.ackArrive, hs, hc, latest_eq_laterOf]

theorem brokenArrive_unclaimed (hs : r.state = .tstub) (hc : r.claimed = false) :
    s.brokenArrive core k r m = s.setRec core k { r.count m with hb := true } := by
  simp [State.brokenArrive, hs, hc]

theorem repointArrive_unclaimed (hs : r.state = .tstub) (hc : r.claimed = false) :
    s.repointArrive core k r m =
      s.setRec core k (if IsLater m.smove r.move then { r.count m with route := m.src, move := m.smove, hp := true } else r.count m) := by
  by_cases hl : IsLater m.smove r.move
  · rw [if_pos hl]
    simp [State.repointArrive, hs, hc, later_iff.mpr hl]
  · rw [if_neg hl]
    simp [State.repointArrive, hs, hc, later_eq_false_iff.mpr hl]

theorem claimArrive_tstub (hs : r.state = .tstub) (hc : r.claimed = false) (ha : r.ha = false) (hp : r.hp = false) (hb : r.hb = false) :
    s.claimArrive core k r m = s.setRec core k { r with target := m.src, targetVcn := false, claimed := true } := by
  simp [State.claimArrive, ChanRec.isStub, hs, hc, State.claimTenon, ha, hp, hb]

/-- A claimed tenon stub forwards what arrives, and counts it twice: as come and as forwarded. -/
theorem tstubForward_count {event : Instr} (hside : r.side = .tenon) (hu : Unmetered s core m.part 2)
    (he : arrivalOf { m with dst := r.target, dstVcn := r.targetVcn, move := r.tmove + 1, fwd := true } = event) :
    s.tstubForward core k (r.count m) m = (s.setRec core k { r.count m with fwdn := r.fwdn + 1 }).post event := by
  subst he
  rw [State.tstubForward, State.forward_eq_post (unmetered_of_quadAt hu (by simp))]
  simp [ChanRec.myMove_tenon hside]

theorem ackArrive_claimed (hs : r.state = .tstub) (hc : r.claimed = true) :
    s.ackArrive core k r m = s.tstubForward core k (r.count m) m := by
  simp [State.ackArrive, hs, hc]

theorem brokenArrive_claimed (hs : r.state = .tstub) (hc : r.claimed = true) :
    s.brokenArrive core k r m = s.tstubForward core k (r.count m) m := by
  simp [State.brokenArrive, hs, hc]

theorem repointArrive_claimed (hs : r.state = .tstub) (hc : r.claimed = true) :
    s.repointArrive core k r m = s.tstubForward core k (r.count m) m := by
  simp [State.repointArrive, hs, hc]

end

/-! ### The drops that a closed record owes (R133) -/

theorem filter_range_eq (n e : Nat) : ((List.range n).filter fun i => decide (i = e)) = if e < n then [e] else [] := by
  induction n with
  | zero => rfl
  | succ n ih =>
    simp only [List.range_succ, List.filter_append, ih, List.filter_cons, List.filter_nil, decide_eq_true_eq]
    rcases Nat.lt_trichotomy e n with h | rfl | h
    · rw [if_pos h, if_neg (by omega), if_pos (by omega), List.append_nil]
    · rw [if_neg (Nat.lt_irrefl e), if_pos rfl, if_pos (Nat.lt_succ_self e), List.nil_append]
    · rw [if_neg (by omega), if_neg (by omega), if_neg (by omega), List.append_nil]

/-- The only bit set is the only number listed. -/
theorem setBits_eq_singleton {n : Nat} {x : BitVec n} {e : Nat} (he : e < n) (h : ∀ i < n, x.getLsbD i = decide (i = e)) :
    setBits x = [e] := by
  have hf : setBits x = (List.range n).filter fun i => decide (i = e) :=
    List.filter_congr fun i hi => h i (List.mem_range.mp hi)
  rw [hf, filter_range_eq, if_pos he]

section
variable {s : State} {core k : Nat} {r : ChanRec}

theorem takeDrops_of_not_shut (hf : (s.recsAt core).find k = some r) (hs : r.state ≠ .shut) : s.takeDrops core k = s := by
  simp only [State.takeDrops, hf, if_pos hs]

/-- A peg has no record: taking and dropping it only empties its element. -/
theorem takeDrops_of_peg {e : Nat} (hf : (s.recsAt core).find k = some r) (he : e < 128) (hs : r.state = .shut)
    (hm : ∀ i < 128, r.marks.getLsbD i = decide (i = e)) (hd : r.drops = []) (hc : carriedRec (s.elemAt core r e) = none) :
    s.takeDrops core k = (s.clearElem core k r e).settleRec core k := by
  simp [State.takeDrops, hf, hs, setBits_eq_singleton he hm, State.dropElems, State.takeDrop, hc, hd, State.dropLate]

end

/-! ### Retirement (R137, Table 5.11) -/

theorem ChanRec.retires_iff (r : ChanRec) : r.retires = true ↔ Retires r := by
  unfold Retires
  cases h : r.state <;> simp [ChanRec.retires, ChanRec.drained, h, ← later_iff, and_assoc, Decidable.imp_iff_not_or]

section
variable {s : State} {core k : Nat} {r : ChanRec}

theorem settleRec_of_not_retires (hf : (s.recsAt core).find k = some r) (h : ¬ Retires r) : s.settleRec core k = s := by
  have hr : r.retires = false := by rwa [← ChanRec.retires_iff, Bool.not_eq_true] at h
  simp [State.settleRec, hf, hr]

theorem settleRec_not_stub (hf : (s.recsAt core).find k = some r) (h : Retires r) (hm : r.state ≠ .mstub) (ht : r.state ≠ .tstub) :
    s.settleRec core k = s.delRec core k := by
  simp [State.settleRec, hf, (ChanRec.retires_iff r).mpr h]

/-- A mortise stub that retires passes its drain on to the record that claimed it. -/
theorem settleRec_mstub (hf : (s.recsAt core).find k = some r) (h : Retires r) (hs : r.state = .mstub) (hu : Unmetered s core r.part 2) :
    s.settleRec core k = (s.delRec core k).post
      (.drainArrival { answer core r .drain .mortise (r.move + 1) r.target r.df r.dnew r.dtm r.dfin with
        dstVcn := r.targetVcn, fwd := true }) := by
  simp only [State.settleRec, hf, (ChanRec.retires_iff r).mpr h, hs]
  exact State.send_eq_post (unmetered_of_quadAt hu (by simp))

/-- A tenon stub that retires tells the record that claimed it how many messages it forwarded. -/
theorem settleRec_tstub (hf : (s.recsAt core).find k = some r) (h : Retires r) (hs : r.state = .tstub) (hu : Unmetered s core r.part 2) :
    s.settleRec core k = (s.delRec core k).post
      (.releaseArrival { answer core r .release .tenon (r.tmove + 1) r.target r.fwdn r.newt 0 false with
        dstVcn := r.targetVcn, fwd := true }) := by
  simp only [State.settleRec, hf, (ChanRec.retires_iff r).mpr h, hs]
  exact State.send_eq_post (unmetered_of_quadAt hu (by simp))

end

/-! #### The route table's entry of a record that leaves its chain (R123, Table 5.4) -/

/-- Bytes outside a stored range load as before. -/
theorem State.load_store_of_disjoint (s : State) (j k n n' x : Nat) (h : j + n' ≤ k ∨ k + n ≤ j) :
    (s.store k n x).load j n' = s.load j n' := by
  rw [State.load, State.load]
  congr 1
  induction n' generalizing j with
  | zero => rfl
  | succ n' ih =>
    rw [Memory.readList, Memory.readList, ih (j + 1) (by omega), State.store, Memory.read_writeList_ne _ _ _ _ (by rw [toBytes_length]; omega)]

theorem State.routeAt_store_self {s : State} (hm : MemOk s) (core i x : Nat) :
    (s.store (routeKey core i) 8 x).routeAt core i = BitVec.ofNat 64 x := by
  rw [State.routeAt, State.load_store _ _ _ hm]
  exact BitVec.eq_of_toNat_eq (by simp)

theorem State.routeAt_store_ne (s : State) {core i j : Nat} (x : Nat) (h : i ≠ j) :
    (s.store (routeKey core j) 8 x).routeAt core i = s.routeAt core i := by
  rw [State.routeAt, State.routeAt, State.load_store_of_disjoint _ _ _ _ _ _ (by unfold routeKey lsKey; omega)]

/-- Cleaning never makes an entry of the route table live: one empty or deleted stays so. -/
theorem State.routeSide_cleanRoute {s : State} {core i : Nat} (hm : MemOk s)
    (h : routeSide (s.routeAt core i) = 0 ∨ routeSide (s.routeAt core i) = 3) (fuel j : Nat) :
    routeSide ((s.cleanRoute core fuel j).routeAt core i) = 0 ∨ routeSide ((s.cleanRoute core fuel j).routeAt core i) = 3 := by
  induction fuel generalizing s j with
  | zero => exact h
  | succ n ih =>
    rw [State.cleanRoute]
    split
    · refine ih (State.wf_store _ _ _ hm) ?_ _
      by_cases hij : i = j
      · subst hij
        rw [State.routeAt_store_self hm]
        exact .inl rfl
      · rwa [State.routeAt_store_ne _ _ hij]
    · exact h

section
variable {s : State} {core k i : Nat} {r : ChanRec}

theorem delRec_head_linked (hf : (s.recsAt core).find k = some r) (hr : s.routeFind core r.side r.number = some i)
    (hk : routeSlot (s.routeAt core i) = k) (hl : r.link.toNat < 192) :
    s.delRec core k = s.setRoute core i r.side r.number r.link.toNat := by
  simp only [State.delRec, hf, State.unlinkRec, hr, if_pos hk, if_pos hl]

theorem delRec_head_last (hf : (s.recsAt core).find k = some r) (hr : s.routeFind core r.side r.number = some i)
    (hk : routeSlot (s.routeAt core i) = k) (hl : 192 ≤ r.link.toNat) :
    s.delRec core k = (s.store (routeKey core i) 8 (3 * 2 ^ 38)).cleanRoute core 256 i := by
  simp only [State.delRec, hf, State.unlinkRec, hr, if_pos hk, if_neg (Nat.not_lt.mpr hl)]

/-- The entry of a chain whose newest record leaves names the next one. -/
theorem routeAt_delRec_linked (hm : MemOk s) (hf : (s.recsAt core).find k = some r) (hr : s.routeFind core r.side r.number = some i)
    (hk : routeSlot (s.routeAt core i) = k) (hl : r.link.toNat < 192) :
    (s.delRec core k).routeAt core i =
      BitVec.ofNat 64 (r.number.toNat * 2 ^ 40 + sideCode r.side * 2 ^ 38 + r.link.toNat * 2 ^ 30) := by
  rw [delRec_head_linked hf hr hk hl, State.setRoute, State.routeAt_store_self hm]

/-- The entry of a chain whose only record leaves is deleted or empty. -/
theorem routeSide_delRec_last (hm : MemOk s) (hf : (s.recsAt core).find k = some r) (hr : s.routeFind core r.side r.number = some i)
    (hk : routeSlot (s.routeAt core i) = k) (hl : 192 ≤ r.link.toNat) :
    routeSide ((s.delRec core k).routeAt core i) = 0 ∨ routeSide ((s.delRec core k).routeAt core i) = 3 := by
  rw [delRec_head_last hf hr hk hl]
  refine State.routeSide_cleanRoute (State.wf_store _ _ _ hm) ?_ _ _
  rw [State.routeAt_store_self hm]
  exact .inr rfl

end

/-! ### The statement -/

/-- Settles O29: each message is handled by the record it meets, kind by kind and state by state. -/
theorem channelArrivalResult : Obligations.ChannelArrivalResult := by
  unfold Obligations.ChannelArrivalResult
  refine ⟨fun s m => ?arrivals, fun s core k r hf hu =>
    ⟨fun hn => settleRec_of_not_retires hf hn, fun hr => ?retires, fun i hm hi hk => ?route⟩⟩
  case arrivals =>
    intro instr
    have hinstr : instr m.kind = arrivalOf m := by
      unfold arrivalOf
      cases m.kind <;> rfl
    refine ⟨fun hv h => ?waits, fun core hc hr => ?drops, fun core k r hm hu hum => ?meets, fun core k r hf => ?owed⟩
    case waits => rw [hinstr, exec_arrivalOf_waits (msgCore_of_held_back hv h)]
    case drops =>
      have hcore : s.msgCore m = some core := by
        rcases hc with ⟨hv, hs, hc⟩ | ⟨hv, rfl⟩
        · exact msgCore_of_vcn hv hs hc
        · exact msgCore_of_core hv
      rw [hinstr]
      exact exec_arrivalOf_drops hcore hr
    case meets =>
      intro becomes leaves counted noted e len newer announced moved drain onward
      have hnoted : (r.count m).noteFin m = noted := ChanRec.noteFin_eq _ m
      exact ⟨
        fun _ hs => ⟨fun hk => exec_of_meets hm rfl (mortiseArrive_end_stored hs hk),
          fun hk => exec_of_meets hm rfl (mortiseArrive_data_stored hs hk)⟩,
        fun _ hs => ⟨fun hk => exec_of_meets hm rfl (mortiseArrive_end_shut hs hk),
          fun hk => exec_of_meets hm rfl (mortiseArrive_data_shut hs hk)⟩,
        fun hside hs hc => ⟨fun hk => exec_of_meets hm rfl (mortiseArrive_claimed hside hs hc (.inl hk) hum),
          fun hk => exec_of_meets hm rfl (mortiseArrive_claimed hside hs hc (.inr hk) hum),
          fun hk => exec_of_meets hm rfl (announceArrive_claimed hside hs hc hk hum)⟩,
        fun _ => exec_of_meets hm rfl drainArrive_eq,
        fun hs hn => ⟨fun hshut _ => exec_of_meets hm rfl ((announceArrive_newer hs hn hu).trans (if_neg hshut)),
          fun hshut _ => exec_of_meets hm rfl ((announceArrive_newer hs hn hu).trans (if_pos hshut))⟩,
        fun hs hn _ => exec_of_meets hm rfl (announceArrive_older hs hn),
        fun hs hc _ => exec_of_meets hm rfl (announceArrive_unclaimed hs hc),
        fun hs hc hp hh he _ => exec_of_meets hm rfl (claimArrive_mstub hs hc hp hh he),
        fun hs => ⟨fun _ => exec_of_meets hm rfl (ackArrive_live hnoted hs),
          fun ho _ => exec_of_meets hm rfl (brokenArrive_open hnoted ho hu),
          fun ht _ => exec_of_meets hm rfl (brokenArrive_tail hnoted ht hu),
          fun hn _ => exec_of_meets hm rfl (repointArrive_newer hnoted hs hn hu),
          fun hn _ => exec_of_meets hm rfl (repointArrive_older hnoted hs hn)⟩,
        fun _ => exec_of_meets hm rfl releaseArrive_eq,
        fun hs hc => ⟨fun _ => exec_of_meets hm rfl (ackArrive_unclaimed hs hc),
          fun _ => exec_of_meets hm rfl (brokenArrive_unclaimed hs hc),
          fun _ => exec_of_meets hm rfl (repointArrive_unclaimed hs hc),
          fun ha hp hb _ => exec_of_meets hm rfl (claimArrive_tstub hs hc ha hp hb)⟩,
        fun hs hc hside => ⟨
          fun hk => exec_of_meets hm rfl ((ackArrive_claimed hs hc).trans (tstubForward_count hside hum (arrivalOf_ack hk))),
          fun hk => exec_of_meets hm rfl ((brokenArrive_claimed hs hc).trans (tstubForward_count hside hum (arrivalOf_broken hk))),
          fun hk => exec_of_meets hm rfl ((repointArrive_claimed hs hc).trans (tstubForward_count hside hum (arrivalOf_repoint hk)))⟩,
        fun ht hs _ => exec_of_meets hm rfl (claimArrive_not_stub ht hs)⟩
    case owed =>
      exact ⟨fun hs => congrArg _ (takeDrops_of_not_shut hf hs),
        fun e he hs hmarks hdrops hpeg => congrArg _ (takeDrops_of_peg hf he hs hmarks hdrops hpeg)⟩
  case retires =>
    exact ⟨fun hms ht => settleRec_not_stub hf hr hms ht, fun hs => settleRec_mstub hf hr hs hu, fun hs => settleRec_tstub hf hr hs hu⟩
  case route =>
    refine ⟨fun hl => ?_, routeSide_delRec_last hm hf hi hk⟩
    rw [routeAt_delRec_linked hm hf hi hk hl]
    cases r.side <;> rfl

end Sys2Proof.Machine

/-! SUPPORT. Launches placed and committed, the sectors of a granule merged, and waiting spills (R142, R155 to R157, R348 to R351). -/

namespace Sys2Proof.Machine

open Sys2Proof.Safety

theorem exec_launchPlacement_eq (part : Nat) (s : State) : exec (.launchPlacement part) s = .next (s.launchPlacement part) := rfl
theorem exec_launchCommit_eq (part lnum : Nat) (s : State) : exec (.launchCommit part lnum) s = execLaunchCommit part lnum s := rfl
theorem exec_mergeSweep_eq (part gran : Nat) (s : State) : exec (.mergeSweep part gran) s = execMergeSweep part gran s := rfl
theorem exec_shadowSpillResume_eq (part : Nat) (s : State) : exec (.shadowSpillResume part) s = execShadowSpillResume part s := rfl

/-! ### Placement (R142, R348 to R351) -/

section
variable {s : State} {part : Nat} {l : Launch} {vcns : List Nat}

theorem launchPlacement_of_empty (h : (s.partAt part).head = none) : s.launchPlacement part = s := by
  simp only [State.launchPlacement, h]

/-- A child is placed under the number of its parent. -/
theorem launchPlacement_child {n : BitVec 16} (hl : (s.partAt part).head = some l)
    (hc : (s.useClass part l).chooseCores part l = some vcns) (hp : l.parent = some n) :
    s.launchPlacement part =
      ((s.useClass part l).modLaunch part l.ticket fun k =>
        { k with phase := .live, lnum := n, numbered := true, placed := vcns.length, vcns := vcns }).placeLaunch part l n vcns := by
  simp only [State.launchPlacement, hl, hc, hp]

/-- A launch of its own takes the next number and the next spare tag (R142). -/
theorem launchPlacement_own {tag : BitVec 8} (hl : (s.partAt part).head = some l)
    (hc : (s.useClass part l).chooseCores part l = some vcns) (hp : l.parent = none)
    (ht : (s.useClass part l).nextTag part = some tag) (hroom : ((s.useClass part l).liveTags part).length < 64)
    (hw : (s.useClass part l).pendingWork part (s.partAt part).nextLnum = false) :
    s.launchPlacement part =
      (let n := (s.partAt part).nextLnum
       (((((s.useClass part l).sweepTag part tag).modPart part fun q =>
          { q with
            nextLnum := q.nextLnum + 1, lastTag := tag
            vst := q.vst.set tag.toNat (BitVec.ofNat 32 (2 ^ 30 + l.tolerant.toNat * 2 ^ 29 + n.toNat)) }).modLaunch part l.ticket
          fun k => { k with phase := .live, lnum := n, numbered := true, tag := tag, placed := vcns.length, vcns := vcns }).placeLaunch
        part l n vcns).post (.launchCommit part n.toNat)) := by
  have hfree : ¬ (64 ≤ ((s.useClass part l).liveTags part).length ∨
      (s.useClass part l).pendingWork part (s.partAt part).nextLnum = true) := by
    rintro (h | h)
    · exact absurd h (Nat.not_le.mpr hroom)
    · rw [hw] at h; cases h
  simp only [State.launchPlacement, hl, hc, hp, ht, if_neg hfree]

end

/-! ### Commit (R156) -/

/-- A partition whose trace ring is off makes no trace record (R392). -/
theorem State.trace_of_off {s : State} {p : Nat} (h : (s.partAt p).trOn = false) (kind slot pcore : Nat) (pc : Word) (payload : List Byte) :
    s.trace p kind slot pcore pc payload = s := by
  simp [State.trace, h]

@[simp] theorem State.partAt_classify_trOn (s : State) (part : Nat) (l : Launch) :
    ((s.classify part l).partAt part).trOn = (s.partAt part).trOn := by
  simp [State.classify]

@[simp] theorem State.partAt_finish_trOn (s : State) (part : Nat) (l : Launch) :
    ((s.finish part l).partAt part).trOn = (s.partAt part).trOn := by
  simp only [State.finish]
  split <;> simp

@[simp] theorem State.partAt_modLaunch_trOn (s : State) (part t : Nat) (f : Launch → Launch) :
    ((s.modLaunch part t f).partAt part).trOn = (s.partAt part).trOn := by
  simp [State.modLaunch]

/-- With the trace ring off a commit is its writes and the merge that it makes due. -/
theorem State.commit_of_trace_off {s : State} {part : Nat} {l : Launch} (h : (s.partAt part).trOn = false) :
    s.commit part l =
      (((s.modPart part fun p =>
        { p with vst := p.vst.set l.tag.toNat (setField (setField (p.vst.get 0 l.tag.toNat) 30 2 2) 20 8 0) }).modLaunch part l.ticket
        fun k => { k with phase := .over, outcome := some 0 }).post (.mergeSweep part 0)) := by
  rw [State.commit, State.trace_of_off (by simp [h])]

section
variable {s : State} {part : Nat} {l : Launch}

theorem execLaunchCommit_of_unnumbered {n : Nat} (h : (s.partAt part).numbered (BitVec.ofNat 16 n) = none) :
    execLaunchCommit part n s = .next s := by
  simp only [execLaunchCommit, h]

theorem execLaunchCommit_pending (h : (s.partAt part).numbered l.lnum = some l) (hw : s.pendingWork part l.lnum = true) :
    execLaunchCommit part l.lnum.toNat s = .next (s.post (.launchCommit part l.lnum.toNat)) := by
  simp [execLaunchCommit, h, hw]

/-- A finished launch waits for its elders. -/
theorem execLaunchCommit_elder (h : (s.partAt part).numbered l.lnum = some l) (hw : s.pendingWork part l.lnum = false)
    (hl : l.phase = .live) (he : (s.finish part l).olderLive part l.tag = true) :
    execLaunchCommit part l.lnum.toNat s = .next ((s.finish part l).post (.launchCommit part l.lnum.toNat)) := by
  simp [execLaunchCommit, h, hw, hl, he]

/-- A finished launch without a live elder commits; LWAIT reports the one that has a ticket. -/
theorem execLaunchCommit_commits (h : (s.partAt part).numbered l.lnum = some l) (hw : s.pendingWork part l.lnum = false)
    (hl : l.phase = .live) (he : (s.finish part l).olderLive part l.tag = false) (ht : l.ticketed = true) :
    execLaunchCommit part l.lnum.toNat s = .next ((s.finish part l).commit part l) := by
  simp [execLaunchCommit, h, hw, hl, he, State.replyLaunch, ht]

end

/-! ### The bytes of a sector -/

theorem toBytes_drop (n k x : Nat) : (toBytes n x).drop k = toBytes (n - k) (x / 256 ^ k) := by
  induction k generalizing n x with
  | zero => simp
  | succ k ih =>
    cases n with
    | zero => simp [toBytes]
    | succ n => rw [toBytes, List.drop_succ_cons, ih, Nat.add_sub_add_right, Nat.div_div_eq_div_mul, Nat.pow_succ']

theorem toBytes_take (n k x : Nat) : (toBytes n x).take k = toBytes (min k n) x := by
  induction n generalizing k x with
  | zero => simp [toBytes]
  | succ n ih =>
    cases k with
    | zero => simp [toBytes]
    | succ k => rw [toBytes, List.take_succ_cons, ih, Nat.succ_min_succ, toBytes]

/-- Only the low `8 n` bits of a number count for its `n` bytes. -/
theorem toBytes_mod (n x : Nat) : toBytes n (x % 2 ^ (8 * n)) = toBytes n x := by
  induction n generalizing x with
  | zero => rfl
  | succ n ih =>
    have hpow : 2 ^ (8 * (n + 1)) = 256 * 2 ^ (8 * n) := by rw [Nat.mul_succ, Nat.pow_add, Nat.mul_comm]
    have hbyte : BitVec.ofNat 8 (x % (256 * 2 ^ (8 * n))) = BitVec.ofNat 8 x :=
      BitVec.eq_of_toNat_eq (by simp)
    rw [toBytes, toBytes, hpow, hbyte, Nat.mod_mul_right_div_self, ih]

/-- The bytes of sector `j` of a shadow line (R54). -/
def ShadowLine.sector (l : ShadowLine) (j : Nat) : List Byte := toBytes 16 (l.data.toNat / 2 ^ (128 * j) % 2 ^ 128)

@[simp] theorem ShadowLine.sector_length (l : ShadowLine) (j : Nat) : (l.sector j).length = 16 := toBytes_length ..

/-- It is that part of the line's image. -/
theorem lineBytes_sector (l : ShadowLine) {j : Nat} (hj : j < 4) : ((lineBytes l.data).drop (16 * j)).take 16 = l.sector j := by
  have hpow : (256 : Nat) ^ (16 * j) = 2 ^ (128 * j) := by
    rw [show 128 * j = 8 * (16 * j) by omega, Nat.pow_mul 2 8]
  rw [ShadowLine.sector, lineBytes, toBytes_drop, toBytes_take, hpow, Nat.min_eq_left (by omega), toBytes_mod 16]

/-- Bytes read outside a written range are as before. -/
theorem Memory.readList_writeList_ne (m : List Host.Cell) (k j n : Nat) (bs : List Byte) (h : j + n ≤ k ∨ k + bs.length ≤ j) :
    Memory.readList (Memory.writeList m k bs) j n = Memory.readList m j n := by
  induction n generalizing j with
  | zero => rfl
  | succ n ih => rw [Memory.readList, Memory.readList, ih (j + 1) (by omega), Memory.read_writeList_ne _ _ _ _ (by omega)]

/-! ### Merging a line (R157) -/

theorem State.homeStore_mem (s : State) (pa : Nat) (bs : List Byte) : (s.homeStore pa bs).mem = Memory.writeList s.mem pa bs := rfl

/-- The merge of one sector of a shadow line. -/
def State.mergeSector (s : State) (pa : Nat) (l : ShadowLine) (i : Nat) : State :=
  if l.dirty.getLsbD i then s.homeStore (pa + 16 * i) (((lineBytes l.data).drop (16 * i)).take 16) else s

theorem State.mergeLine_eq_foldl (s : State) (pa : Nat) (l : ShadowLine) :
    s.mergeLine pa l.dirty (lineBytes l.data) = (List.range 4).foldl (fun t i => t.mergeSector pa l i) s := rfl

/-- What merging a sector does to memory. -/
theorem State.mergeSector_mem (s : State) (pa : Nat) (l : ShadowLine) {i : Nat} (hi : i < 4) :
    (s.mergeSector pa l i).mem =
      if l.dirty.getLsbD i then Memory.writeList s.mem (pa + 16 * i) (l.sector i) else s.mem := by
  rw [State.mergeSector, lineBytes_sector l hi]
  split
  · rw [State.homeStore_mem]
  · rfl

section
variable {s : State} {pa i : Nat} {l : ShadowLine}

theorem State.mergeSector_memOk (hs : MemOk s) (hi : i < 4) : MemOk (s.mergeSector pa l i) := by
  rw [MemOk, State.mergeSector_mem s pa l hi]
  split
  · exact Memory.wf_writeList _ _ hs
  · exact hs

theorem State.mergeSector_readList (hs : MemOk s) (hi : i < 4) (j : Nat) :
    Memory.readList (s.mergeSector pa l i).mem (pa + 16 * j) 16 =
      if j = i ∧ l.dirty.getLsbD j = true then l.sector j else Memory.readList s.mem (pa + 16 * j) 16 := by
  rw [State.mergeSector_mem s pa l hi]
  by_cases hji : j = i
  · subst hji
    have hread := Memory.readList_writeList (pa + 16 * j) (l.sector j) hs
    rw [ShadowLine.sector_length] at hread
    cases hd : l.dirty.getLsbD j <;> simp [hread]
  · have hread := Memory.readList_writeList_ne s.mem (pa + 16 * i) (pa + 16 * j) 16 (l.sector i) (by rw [ShadowLine.sector_length]; omega)
    cases hd : l.dirty.getLsbD i <;> simp [hread, hji]

theorem State.mergeSector_sameOutside (hi : i < 4) : SameOutside s (s.mergeSector pa l i) (pa + 16 * i) 16 := by
  intro a ha
  rw [State.mergeSector_mem s pa l hi]
  split
  · exact Memory.read_writeList_ne _ _ _ _ (by rw [ShadowLine.sector_length]; exact ha)
  · rfl

end

/-- After the first `n` sectors of a line are merged, the dirty ones of them hold the shadow's bytes, and all other memory is as it was. -/
structure MergedTo (s t : State) (pa : Nat) (l : ShadowLine) (n : Nat) : Prop where
  canonical : MemOk t
  sector : ∀ j, Memory.readList t.mem (pa + 16 * j) 16 =
    if j < n ∧ l.dirty.getLsbD j = true then l.sector j else Memory.readList s.mem (pa + 16 * j) 16
  outside : SameOutside s t pa (16 * n)

/-- The next sector is merged, too. -/
theorem MergedTo.mergeSector {s t : State} {pa n : Nat} {l : ShadowLine} (h : MergedTo s t pa l n) (hn : n < 4) :
    MergedTo s (t.mergeSector pa l n) pa l (n + 1) := by
  obtain ⟨hwf, hsector, houtside⟩ := h
  refine ⟨State.mergeSector_memOk hwf hn, fun j => ?_, fun a ha => ?_⟩
  · rw [State.mergeSector_readList hwf hn, hsector]
    by_cases hjn : j = n
    · simp [hjn]
    · simp [hjn, show j < n + 1 ↔ j < n by omega]
  · rw [State.mergeSector_sameOutside hn a (by omega), houtside a (by omega)]

theorem mergedTo_foldl {s : State} (hs : MemOk s) (pa : Nat) (l : ShadowLine) {n : Nat} (hn : n ≤ 4) :
    MergedTo s ((List.range n).foldl (fun t i => t.mergeSector pa l i) s) pa l n := by
  induction n with
  | zero => exact ⟨hs, by simp, fun _ _ => rfl⟩
  | succ n ih =>
    rw [List.range_succ, List.foldl_append]
    exact (ih (by omega)).mergeSector (by omega)

/-- A merged line (R157): its dirty sectors replace those of the base line. -/
theorem State.mergeLine_mergedTo {s : State} (hs : MemOk s) (pa : Nat) (l : ShadowLine) :
    MergedTo s (s.mergeLine pa l.dirty (lineBytes l.data)) pa l 4 := by
  rw [State.mergeLine_eq_foldl]
  exact mergedTo_foldl hs pa l (Nat.le_refl 4)

/-! ### Merging a granule (R157) -/

/-- The value at a key is one that the map lists, or the default. -/
theorem Map.get_eq_default_or_mem {α : Type} (m : Map α) (d : α) (k : Nat) : Map.get m d k = d ∨ (k, Map.get m d k) ∈ m := by
  induction m with
  | nil => exact .inl rfl
  | cons e rest ih =>
    obtain ⟨k', a⟩ := e
    rw [Map.get]
    split
    next h => exact .inr (h ▸ List.mem_cons_self)
    next => exact ih.imp_right (List.mem_cons_of_mem _)

/-- A partition whose overflow area is off has nothing to merge there (R152). -/
theorem State.mergeOverflow_disabled {s : State} {p : Nat} (h : bit (s.partAt p).shos 5 = false) (gr : Nat) : s.mergeOverflow p gr = s := by
  simp [State.mergeOverflow, h]

theorem overflow_disabled_of_parts {s : State} (h : ∀ q ∈ s.parts, q.2.shos.getLsbD 5 = false) (p : Nat) :
    bit (s.partAt p).shos 5 = false := by
  rcases Map.get_eq_default_or_mem s.parts Part.none p with hp | hp
  · rw [State.partAt, hp]; rfl
  · have hoff := h _ hp
    rwa [bit, State.partAt]

/-- With no data spilled or waiting to spill, a granule whose only shadow way is a committed one is merged from that way, which is then gone. -/
theorem State.mergeGranule_of_way {s : State} {gran : Nat} {w : ShadowWay}
    (hway : (s.dieAt (dieOf (gran * 2048))).shadows.filter (fun v => v.gran == gran) = [w]) (hcommitted : s.tagState w.part w.tag = 2)
    (hparts : ∀ q ∈ s.parts, (∀ v ∈ q.2.spills, v.gran ≠ gran) ∧ q.2.shos.getLsbD 5 = false) :
    s.mergeGranule gran =
      (s.mergeWay w).modDie (dieOf (gran * 2048)) fun x =>
        { x with shadows := x.shadows.filter fun v => ! (v.gran == gran && s.tagState v.part v.tag != 1) } := by
  have hoverflow : s.parts.foldl (fun t (p : Nat × Part) => if p.2.exists_ then t.mergeOverflow p.1 gran else t) s = s := by
    refine List.foldlRecOn (motive := (· = s)) s.parts _ rfl ?_
    rintro t rfl p -
    rw [State.mergeOverflow_disabled (overflow_disabled_of_parts (fun q hq => (hparts q hq).2) p.1), ite_self]
  have hspills (p : Nat × Part) (hp : p ∈ s.parts) : p.2.spills.any (fun v => v.gran == gran && s.tagState v.part v.tag != 1) = false := by
    rw [List.any_eq_false]
    intro v hv
    simp [(hparts p hp).1 v hv]
  have hended : (s.dieAt (dieOf (gran * 2048))).shadows.filter (fun v => v.gran == gran && s.tagState v.part v.tag != 1) = [w] := by
    have hsplit := List.filter_filter (p := fun v => s.tagState v.part v.tag != 1) (q := fun v => v.gran == gran)
      (l := (s.dieAt (dieOf (gran * 2048))).shadows)
    rw [hway] at hsplit
    simpa [hcommitted, Bool.and_comm] using hsplit.symm
  unfold State.mergeGranule
  simp only [hoverflow]
  rw [List.foldlRecOn (motive := (· = s)) s.parts _ rfl]
  · simp [hended, hcommitted]
  · rintro t rfl p hp
    simp [hspills p hp]

theorem State.mergeWay_of_line {s : State} {w : ShadowWay} {i : Nat} {l : ShadowLine} (h : w.lines = [(i, l)]) :
    s.mergeWay w = s.mergeLine (w.gran * 2048 + i * 64) l.dirty (lineBytes l.data) := by
  rw [State.mergeWay, h]; rfl

/-- The memory that such a merge leaves: that of the merged line. -/
theorem State.mergeGranule_mem_of_line {s : State} {gran i : Nat} {w : ShadowWay} {l : ShadowLine}
    (hway : (s.dieAt (dieOf (gran * 2048))).shadows.filter (fun v => v.gran == gran) = [w]) (hline : w.lines = [(i, l)])
    (hcommitted : s.tagState w.part w.tag = 2)
    (hparts : ∀ q ∈ s.parts, (∀ v ∈ q.2.spills, v.gran ≠ gran) ∧ q.2.shos.getLsbD 5 = false) :
    (s.mergeGranule gran).mem = (s.mergeLine (gran * 2048 + i * 64) l.dirty (lineBytes l.data)).mem := by
  have hgran : w.gran = gran := by
    have hmem : w ∈ (s.dieAt (dieOf (gran * 2048))).shadows.filter (fun v => v.gran == gran) := hway ▸ List.mem_singleton_self w
    exact eq_of_beq (List.mem_filter.mp hmem).2
  rw [State.mergeGranule_of_way hway hcommitted hparts, State.modDie_mem, State.mergeWay_of_line hline, hgran]

/-! ### Spills that waited (R155) -/

/-- A spill all of whose lines find room ends there. -/
theorem State.spill_of_room {s u : State} {w v : ShadowWay} (h : (s.cleanBucket w.part w.gran).spillLines w = (u, v)) (hv : v.lines = []) :
    s.spill w = u := by
  simp [State.spill, h, hv]

/-! ### The statement -/

/-- Settles O31: each occurrence in the life of a launch, case by case of what it meets. -/
theorem launchLifeResult : Obligations.LaunchLifeResult := by
  unfold Obligations.LaunchLifeResult
  intro s part
  refine ⟨fun h => ?empty, fun l vcns hl hc => ⟨fun n hp => ?child, fun tag hp ht hroom hw => ?own⟩, fun n h => ?unnumbered,
    fun l h ht => ⟨fun hw => ?pending, fun hw hlive => ⟨fun he => ?elder, fun he htr => ?commit⟩⟩,
    fun gran => ⟨fun g hg => ?more, fun hg => ?last, fun w i l hm hway hline hcom hparts => ?merged⟩,
    fun h => ?noSpill, fun w rest u v hw h hv => ?spill⟩
  case empty => rw [exec_launchPlacement_eq, launchPlacement_of_empty h]
  case child => rw [exec_launchPlacement_eq, launchPlacement_child hl hc hp]
  case own => rw [exec_launchPlacement_eq, launchPlacement_own hl hc hp ht hroom hw]
  case unnumbered => rw [exec_launchCommit_eq, execLaunchCommit_of_unnumbered h]
  case pending => rw [exec_launchCommit_eq, execLaunchCommit_pending h hw]
  case elder => rw [exec_launchCommit_eq, execLaunchCommit_elder h hw hlive he]
  case commit =>
    rw [exec_launchCommit_eq, execLaunchCommit_commits h hw hlive he ht, State.commit_of_trace_off (by rwa [State.partAt_finish_trOn])]
  case more => simp only [exec_mergeSweep_eq, execMergeSweep, hg]
  case last => simp only [exec_mergeSweep_eq, execMergeSweep, hg]
  case merged =>
    obtain ⟨-, hsector, houtside⟩ := State.mergeLine_mergedTo hm (gran * 2048 + i * 64) l
    have hmem := State.mergeGranule_mem_of_line hway hline hcom hparts
    refine ⟨fun j hj => ?_, fun a ha => ?_⟩
    · simpa [hmem, hj, ShadowLine.sector] using hsector j
    · rw [hmem]; exact houtside a ha
  case noSpill => simp only [exec_shadowSpillResume_eq, execShadowSpillResume, h]
  case spill => simp only [exec_shadowSpillResume_eq, execShadowSpillResume, hw, State.spill_of_room h hv]

end Sys2Proof.Machine

/-! SUPPORT. Reading back what the encoder packs (R200 to R205): word 0, the words of each format, the codes of fields and narrow
registers; with that, decoding inverts encoding. -/

namespace Sys2Proof

/-! ### Fields of a packed word

The library's lemmas about fields of `hi ++ lo`, indexed without the width of `hi ++ lo`: a packed word is a `BitVec 32`, while the widths of
its parts stand in it as a sum, and simp's index tells the two apart. -/

section
variable {v w start len : Nat} (hi : BitVec v) (lo : BitVec w)

@[simp] theorem extractLsb'_append_high (h : w ≤ start) :
    (no_index (hi ++ lo)).extractLsb' start len = hi.extractLsb' (start - w) len :=
  BitVec.extractLsb'_append_eq_of_le h

@[simp] theorem extractLsb'_append_low (h : start + len ≤ w) :
    (no_index (hi ++ lo)).extractLsb' start len = lo.extractLsb' start len :=
  BitVec.extractLsb'_append_eq_of_add_le h

theorem getLsbD_append_ite (i : Nat) : (no_index (hi ++ lo)).getLsbD i = if i < w then lo.getLsbD i else hi.getLsbD (i - w) :=
  BitVec.getLsbD_append

end

/-! ### Word 0, the codes of fields, and the words of each format -/

@[simp] theorem W0.unpack_pack (f : W0) : W0.unpack f.pack = f := by
  simp [W0.unpack, W0.pack, getLsbD_append_ite, BitVec.extractLsb'_eq_self, -BitVec.getLsbD_eq_getElem]

@[simp] theorem Size.ofCode_code (x : Size) : Size.ofCode x.code = some x := by cases x <;> rfl
@[simp] theorem Order.ofCode_code (x : Order) : Order.ofCode x.code = x := by cases x <;> rfl
@[simp] theorem Scope.ofCode_code (x : Scope) : Scope.ofCode x.code = some x := by cases x <;> rfl
@[simp] theorem Rnd.ofCode_code (x : Rnd) : Rnd.ofCode x.code = some x := by cases x <;> rfl
@[simp] theorem ElemType.ofCode_code (x : ElemType) : ElemType.ofCode x.code = some x := by cases x <;> rfl
@[simp] theorem Cond.ofCode_code (x : Cond) : Cond.ofCode x.code = some x := by cases x <;> rfl
@[simp] theorem AmoOp.ofCode_code (x : AmoOp) : AmoOp.ofCode x.code = some x := by cases x <;> rfl
@[simp] theorem RedOp.ofCode_code (x : RedOp) : RedOp.ofCode x.code = some x := by cases x <;> rfl
@[simp] theorem VredOp.ofCode_code (x : VredOp) : VredOp.ofCode x.code = some x := by cases x <;> rfl

@[simp] theorem MForm.unpack_pack (m : MForm) : MForm.unpack m.pack = .ok m := by
  simp [MForm.unpack, MForm.pack, getLsbD_append_ite, BitVec.extractLsb'_eq_self, -BitVec.getLsbD_eq_getElem]

@[simp] theorem VForm.unpack_pack (v : VForm) : VForm.unpack v.pack = .ok v := by
  simp [VForm.unpack, VForm.pack, getLsbD_append_ite, BitVec.extractLsb'_eq_self, -BitVec.getLsbD_eq_getElem]

@[simp] theorem TForm.unpack_pack (t : TForm) : TForm.unpack t.pack1 t.pack2 = t := by
  simp [TForm.unpack, TForm.pack1, TForm.pack2, BitVec.extractLsb'_eq_self]

@[simp] theorem CForm.unpack_pack (c : CForm) : CForm.unpack c.pack1 c.pack2 c.pack3 = .ok c := by
  simp [CForm.unpack, CForm.pack1, CForm.pack2, CForm.pack3, getLsbD_append_ite, BitVec.extractLsb'_eq_self, -BitVec.getLsbD_eq_getElem]

@[simp] theorem withM_pack (m : MForm) (k : MForm → Except DecodeErr Instr) : withM m.pack k = k m := by
  rw [withM, MForm.unpack_pack]

@[simp] theorem withV_pack (v : VForm) (k : VForm → Except DecodeErr Instr) : withV v.pack k = k v := by
  rw [withV, VForm.unpack_pack]

@[simp] theorem withC_pack (c : CForm) (k : CForm → Except DecodeErr Instr) : withC c.pack1 c.pack2 c.pack3 k = k c := by
  rw [withC, CForm.unpack_pack]

/-! ### Narrow operands in a 4-bit field (R201), and a wide one in two words -/

@[simp] theorem reg3_wide (r : BitVec 3) : reg3 (wide r) = r := by
  simp [reg3, wide, BitVec.extractLsb'_setWidth_of_le, BitVec.extractLsb'_eq_self]

@[simp] theorem reg2_wide (r : BitVec 2) : reg2 (wide r) = r := by
  simp [reg2, wide, BitVec.extractLsb'_setWidth_of_le, BitVec.extractLsb'_eq_self]

@[simp] theorem classOk_wide {k : Nat} (r : BitVec k) (x : Except DecodeErr Instr) : classOk k (wide r) x = x := by
  have h : (wide r).toNat < 2 ^ k := by
    rw [wide, BitVec.toNat_setWidth]
    exact Nat.lt_of_le_of_lt (Nat.mod_le _ _) r.isLt
  rw [classOk, if_pos h]

/-- A ring under a mark bit, as MSTRM and MOUT name it in fb. -/
@[simp] theorem reg3_append (b : BitVec 1) (q : QReg) : reg3 (no_index (b ++ q)) = q := by
  simp [reg3, BitVec.extractLsb'_eq_self]

/-- The two words of the immediate of MOVI. -/
@[simp] theorem append_halves (x : BitVec 64) : x.extractLsb' 32 32 ++ x.extractLsb' 0 32 = x := BitVec.extractLsb'_append_extractLsb'

theorem getLsbD_wide_ofBool (b : Bool) : (wide (BitVec.ofBool b)).getLsbD 0 = b := by cases b <;> rfl

@[simp] theorem extractLsb'_wide_ofBool (b : Bool) : (wide (BitVec.ofBool b)).extractLsb' 1 3 = 0 := by cases b <;> rfl

/-! ### The checks of an entry, and the entry that word 0's fields select -/

@[simp] theorem zeroed_true (i : Instr) : zeroed true i = .ok i := rfl

@[simp] theorem oneOf_some {α : Type} (a : α) (k : α → Except DecodeErr Instr) : oneOf (some a) k = k a := rfl

theorem limit_ok {i : Instr} (h : i.wf = true) : limit (.ok i) = .ok i := if_pos h

/-- What `decodeFields` reads once word 0 is unpacked. -/
def decodeEntry (f : W0) (w1 w2 w3 : BitVec 32) : Except DecodeErr Instr :=
  if f.op.toNat < 0x20 then decSystem f w1 w2
  else if f.op.toNat < 0x40 then decInteger f w1 w2
  else if f.op.toNat < 0x70 then decMemory f w1
  else if f.op.toNat < 0x80 then decCopy f w1 w2 w3
  else if f.op.toNat < 0xA0 then decStrand f w1 w2 w3
  else if f.op.toNat < 0xC0 then decVector f w1
  else decTensor f w1 w2

theorem decodeFields_pack (f : W0) (w1 w2 w3 : BitVec 32) : decodeFields f.pack w1 w2 w3 = decodeEntry f w1 w2 w3 := by
  simp only [decodeFields, decodeEntry, W0.unpack_pack]

/-! ### What the operand limits say about the bits of aux that choose between two instructions -/

theorem VForm.aux_of_memOk {v : VForm} (h : v.memOk = true) : v.aux = 0 := by
  simp only [VForm.memOk, Bool.and_eq_true, beq_iff_eq] at h
  obtain ⟨haux, -⟩ := h
  exact haux

theorem VForm.aux_of_ringOk {v : VForm} (h : v.ringOk = true) : v.aux = 8 := by
  simp only [VForm.ringOk, Bool.and_eq_true, beq_iff_eq] at h
  obtain ⟨⟨haux, -⟩, -⟩ := h
  exact haux

theorem VForm.aux_of_vmvgOk {v : VForm} {dir : BitVec 4} (h : v.vmvgOk dir = true) : v.aux = dir := by
  simp only [VForm.vmvgOk, Bool.and_eq_true, beq_iff_eq] at h
  obtain ⟨⟨⟨-, haux⟩, -⟩, -⟩ := h
  exact haux

/-! ### Round trips, by the number of words and their format -/

/-- Decoding the encoding gives the instruction back, if it is well formed and has one. -/
def RoundTrips (i : Instr) : Prop := i.wf = true → i.encoded = true → decode (encode i) = .ok i

namespace RoundTrips

/-- An occurrence has no encoding. -/
theorem event {i : Instr} (h : encode i = []) : RoundTrips i := fun _ he => absurd he (by simp [Instr.encoded, h])

/-- The operand limits come last, and a well-formed instruction keeps them. -/
theorem of_limit {i : Instr} (h : decode (encode i) = limit (.ok i)) : RoundTrips i := fun hw _ => h.trans (limit_ok hw)

section
variable {i : Instr} {f : W0} {w1 w2 w3 : BitVec 32}

theorem two (he : encode i = [f.pack, w1]) (hl : f.len = 0) (ho : opWords f.op.toNat = some 2) (hd : decodeEntry f w1 0 0 = .ok i) :
    RoundTrips i :=
  of_limit (by rw [he, ← hd, ← decodeFields_pack]; simp [decode, hl, ho])

theorem three (he : encode i = [f.pack, w1, w2]) (hl : f.len = 1) (ho : opWords f.op.toNat = some 3)
    (hd : decodeEntry f w1 w2 0 = .ok i) : RoundTrips i :=
  of_limit (by rw [he, ← hd, ← decodeFields_pack]; simp [decode, hl, ho])

theorem four (he : encode i = [f.pack, w1, w2, w3]) (hl : f.len = 2) (ho : opWords f.op.toNat = some 4)
    (hd : decodeEntry f w1 w2 w3 = .ok i) : RoundTrips i :=
  of_limit (by rw [he, ← hd, ← decodeFields_pack]; simp [decode, hl, ho])

end

theorem formM {g : MForm → Instr} {m : MForm} {f : W0} (he : encode (g m) = [f.pack, m.pack]) (hl : f.len = 0)
    (ho : opWords f.op.toNat = some 2) (hd : decodeEntry f m.pack 0 0 = withM m.pack fun m => .ok (g m)) : RoundTrips (g m) :=
  two he hl ho (by rw [hd, withM_pack])

theorem formV {g : VForm → Instr} {v : VForm} {f : W0} (he : encode (g v) = [f.pack, v.pack]) (hl : f.len = 0)
    (ho : opWords f.op.toNat = some 2) (hd : decodeEntry f v.pack 0 0 = withV v.pack fun v => .ok (g v)) : RoundTrips (g v) :=
  two he hl ho (by rw [hd, withV_pack])

theorem formC {g : CForm → Instr} {c : CForm} {f : W0} (he : encode (g c) = [f.pack, c.pack1, c.pack2, c.pack3]) (hl : f.len = 2)
    (ho : opWords f.op.toNat = some 4)
    (hd : decodeEntry f c.pack1 c.pack2 c.pack3 = withC c.pack1 c.pack2 c.pack3 fun c => .ok (g c)) : RoundTrips (g c) :=
  four he hl ho (by rw [hd, withC_pack])

theorem formT {g : TForm → Instr} {t : TForm} {f : W0} (he : encode (g t) = [f.pack, t.pack1, t.pack2]) (hl : f.len = 1)
    (ho : opWords f.op.toNat = some 3) (hd : decodeEntry f t.pack1 t.pack2 0 = .ok (g (TForm.unpack t.pack1 t.pack2))) :
    RoundTrips (g t) :=
  three he hl ho (by rw [hd, TForm.unpack_pack])

end RoundTrips

open RoundTrips in
/-- Instruction by instruction: where every operand fills its field, the entry answers the instruction by computation; elsewhere the packed
word, code or narrow register is read back by its lemma above. -/
theorem roundTrips (i : Instr) : RoundTrips i := by
  cases i
  -- Operands that fill fields of word 0, or words of their own
  case nop | j | jl | jr | jlr | trap | tret | brk | ifence | sleep
      | add | sub | and | or | xor | andn | shl | shr | sar | ror | min | max | minN | maxN
      | addi | subi | andi | ori | xori | andni | shli | shri | sari | rori | mini | maxi | miniN | maxiN
      | mul | mulh | mulhN | div | divN | rem | remN | muli | clz | ctz | popc | brev | bswap | sel | addpc
      | wosc | unsub | cpyres | fork | spawn | exit | yield | migr | pin | unpin | gang | tdone
      | snd | sndb | sndj | rcv | trcv | close | dropj | movj | jkind | gdup | lwait | labrt | vrel | mswap | mstat =>
    exact two rfl rfl rfl rfl
  -- Formats M, V, C and T (Tables 9.3 to 9.6)
  case ld | st | ldx | stx | bld | bst | pf | cwb | cinv | cas | binit | barr | bexp | bwait | btest | arm | join | jdec =>
    exact formM rfl rfl rfl rfl
  case vldg | vsts | vadd | vsub | vmul | vand | vor | vxor | vshl | vshr | vsar | vmin | vmax | vminN | vmaxN
      | vfadd | vfsub | vfmul | vfmin | vfmax | vfdiv | vfsqrt | vfrcp | vfrsq | vfma | vfms | vfnma
      | vcvt | vperm | vbc | vhad | qnt =>
    exact formV rfl rfl rfl rfl
  case cpy | cpy2 | cpym | taskr => exact formC rfl rfl rfl rfl
  case mcmd | lsta | mzero => exact formT rfl rfl rfl rfl
  -- A condition or an operation in fn
  case bCc => exact two rfl rfl rfl (by simp [decodeEntry, decSystem, noElect])
  case biCc => exact three rfl rfl rfl (by simp [decodeEntry, decSystem, noElect])
  case setCc | setiCc => exact two rfl rfl rfl (by simp [decodeEntry, decInteger])
  case amo | red => exact two rfl rfl rfl (by simp [decodeEntry, decMemory])
  case vcmpCc | vred => exact two rfl rfl rfl (by simp [decodeEntry, decVector, noElect])
  -- Ring, mask and distribution registers in 4-bit fields
  case qcfg | qpush | qpop | qstat => exact two rfl rfl rfl (by simp [decodeEntry, decCopy, fn0, noElect])
  case cpyq | isub | osub => exact four rfl rfl rfl (by simp [decodeEntry, decCopy, fn0, noElect])
  case mand | mor | mxor | mnot | mpop | mset | vsel => exact two rfl rfl rfl (by simp [decodeEntry, decVector, fn0, noElect])
  case dfrom | dld | dst | dadd | dsub | dmul | dmax | dmin | daff | dmom | dqnt =>
    exact two rfl rfl rfl (by simp [decodeEntry, decTensor, fn0, noElect])
  -- Operands packed into word 1
  case srd | swr | xlat | rep =>
    exact two rfl rfl rfl (by simp [decodeEntry, decSystem, fn0, noElect, BitVec.extractLsb'_eq_self])
  case ext | ins | addsh =>
    exact two rfl rfl rfl
      (by simp [decodeEntry, decInteger, fn0, BitVec.extractLsb'_eq_self, getLsbD_append_ite, -BitVec.getLsbD_eq_getElem])
  case fence | nbar =>
    exact two rfl rfl rfl
      (by simp [decodeEntry, decMemory, fn0, noElect, BitVec.extractLsb'_eq_self, getLsbD_append_ite, -BitVec.getLsbD_eq_getElem])
  case chan | grant | lnch =>
    exact two rfl rfl rfl (by simp [decodeEntry, decStrand, fn0, noElect, BitVec.extractLsb'_eq_self])
  case tasks => exact three rfl rfl rfl (by simp [decodeEntry, decStrand, fn0, noElect, BitVec.extractLsb'_eq_self])
  case tdset | tdget | dlinSet | dlinGet =>
    exact two rfl rfl rfl
      (by simp [decodeEntry, decTensor, fn0, noElect, BitVec.extractLsb'_eq_self, getLsbD_append_ite, -BitVec.getLsbD_eq_getElem])
  -- An immediate of two words
  case movi => exact three rfl rfl rfl (by simp [decodeEntry, decInteger, fn0])
  -- The bit that marks a ring, and the bit that clears the plate
  case mstrm | mstrmRing | mout | moutRing =>
    exact three rfl rfl rfl
      (by simp [decodeEntry, decTensor, fn0, noElect, getLsbD_append_ite, getLsbD_wide_ofBool, -BitVec.getLsbD_eq_getElem])
  -- A bit of aux that a well-formed instruction fixes
  case vld | vst =>
    exact fun hw => two rfl rfl rfl (by simp [decodeEntry, decVector, fn0, noElect, VForm.aux_of_memOk hw]) hw
  case vldRing | vstRing =>
    exact fun hw => two rfl rfl rfl (by simp [decodeEntry, decVector, fn0, noElect, VForm.aux_of_ringOk hw]) hw
  case vmvgToG | vmvgToV =>
    exact fun hw => two rfl rfl rfl (by simp [decodeEntry, decVector, fn0, VForm.aux_of_vmvgOk hw]) hw
  -- The rows without an encoding
  all_goals exact event rfl

/-- Settles O60: decoding inverts encoding, instruction by instruction. -/
theorem decodeEncode : Obligations.DecodeEncode := by
  unfold Obligations.DecodeEncode
  exact roundTrips

/-- The words that the encoder writes for a well-formed instruction decode to it. -/
theorem decode_of_encode {i : Instr} {w : BitVec 32} {ws : List (BitVec 32)} (he : encode i = w :: ws) (hw : i.wf = true) :
    decode (w :: ws) = .ok i :=
  he ▸ roundTrips i hw (by rw [Instr.encoded, he]; rfl)

/-- Settles O59: the sample words are those that the encoder writes for their instructions. -/
theorem sampleDecodings : Obligations.SampleDecodings := by
  unfold Obligations.SampleDecodings
  exact ⟨decode_of_encode rfl rfl, decode_of_encode rfl rfl, decode_of_encode rfl rfl, decode_of_encode rfl rfl, decode_of_encode rfl rfl,
    decode_of_encode rfl rfl, decode_of_encode rfl rfl, decode_of_encode rfl rfl, decode_of_encode rfl rfl⟩

end Sys2Proof

/-! SUPPORT. The place of a strand: how an instruction and a control transfer move pc, DS, XTGT and the position among the delay slots
(R206, R207). -/

namespace Sys2Proof.Machine

theorem Slot.ds_lt (x : Slot) : x.ds < 4 := Nat.mod_lt _ (by decide)

@[simp] theorem Slot.ds_setDs (x : Slot) (n : Nat) : (x.setDs n).ds = n % 4 := field_setField_same x.status 2 2 n (by decide)

/-- Setting DS changes no other bit of STATUS. -/
theorem Slot.getLsbD_status_setDs (x : Slot) (n : Nat) {i : Nat} (hi : i < 32) (h2 : i ≠ 2) (h3 : i ≠ 3) :
    (x.setDs n).status.getLsbD i = x.status.getLsbD i := by
  rw [Slot.setDs, getLsbD_setField _ _ _ _ _ hi, if_neg (by omega)]

/-! ### The move to the next instruction, field by field -/

section
variable (x : Slot) (len : Nat)

/-- The three ways to move on: outside delay slots, from the last slot to the target, and from a slot before it. -/
theorem Slot.advance_cases :
    x.ds = 0 ∧ x.advance len = { x with pc := x.pc + BitVec.ofNat 64 len, entered := false, slotPos := x.slotPos - 1 } ∨
    x.ds = 1 ∧ x.advance len = { x.setDs 0 with pc := x.xtgt, entered := true, slotPos := x.slotPos - 1 } ∨
    2 ≤ x.ds ∧ x.advance len =
      { x.setDs (x.ds - 1) with pc := x.pc + BitVec.ofNat 64 len, entered := false, slotPos := x.slotPos - 1 } := by
  by_cases h0 : x.ds = 0
  · exact .inl ⟨h0, if_pos h0⟩
  · by_cases h1 : x.ds = 1
    · exact .inr (.inl ⟨h1, (if_neg h0).trans (if_pos h1)⟩)
    · exact .inr (.inr ⟨by omega, (if_neg h0).trans (if_neg h1)⟩)

@[simp] theorem Slot.advance_slotPos : (x.advance len).slotPos = x.slotPos - 1 := by
  rcases x.advance_cases len with ⟨-, h⟩ | ⟨-, h⟩ | ⟨-, h⟩ <;> rw [h]

@[simp] theorem Slot.advance_pc : (x.advance len).pc = if x.ds = 1 then x.xtgt else x.pc + BitVec.ofNat 64 len := by
  rcases x.advance_cases len with ⟨hds, h⟩ | ⟨hds, h⟩ | ⟨hds, h⟩ <;> rw [h]
  · rw [if_neg (by omega)]
  · rw [if_pos hds]
  · rw [if_neg (by omega)]

@[simp] theorem Slot.advance_entered : (x.advance len).entered = decide (x.ds = 1) := by
  rcases x.advance_cases len with ⟨hds, h⟩ | ⟨hds, h⟩ | ⟨hds, h⟩ <;> rw [h]
  · exact (decide_eq_false (by omega)).symm
  · exact (decide_eq_true hds).symm
  · exact (decide_eq_false (by omega)).symm

@[simp] theorem Slot.advance_ds : (x.advance len).ds = x.ds - 1 := by
  have hlt := x.ds_lt
  rcases x.advance_cases len with ⟨hds, h⟩ | ⟨hds, h⟩ | ⟨hds, h⟩ <;> rw [h]
  · change x.ds = x.ds - 1
    omega
  · change (x.setDs 0).ds = x.ds - 1
    rw [Slot.ds_setDs, hds]
  · change (x.setDs (x.ds - 1)).ds = x.ds - 1
    rw [Slot.ds_setDs, Nat.mod_eq_of_lt (by omega)]

/-- Only pc, DS and the position in the delay slots change. -/
theorem Slot.advance_frame :
    x.advance len = { x with pc := (x.advance len).pc, entered := (x.advance len).entered, slotPos := (x.advance len).slotPos,
                             status := (x.advance len).status } := by
  rcases x.advance_cases len with ⟨-, h⟩ | ⟨-, h⟩ | ⟨-, h⟩ <;> rw [h] <;> rfl

@[simp] theorem Slot.advance_xtgt : (x.advance len).xtgt = x.xtgt := by rw [Slot.advance_frame]
@[simp] theorem Slot.advance_g : (x.advance len).g = x.g := by rw [Slot.advance_frame]

theorem Slot.getLsbD_status_advance {i : Nat} (hi : i < 32) (h2 : i ≠ 2) (h3 : i ≠ 3) :
    (x.advance len).status.getLsbD i = x.status.getLsbD i := by
  rcases x.advance_cases len with ⟨-, h⟩ | ⟨-, h⟩ | ⟨-, h⟩ <;> rw [h]
  · exact x.getLsbD_status_setDs 0 hi h2 h3
  · exact x.getLsbD_status_setDs _ hi h2 h3

/-! ### A control transfer, field by field -/

variable (target : Option Word)

@[simp] theorem Slot.transfer_pc : (x.transfer len target).pc = x.pc + BitVec.ofNat 64 len := by cases target <;> rfl
@[simp] theorem Slot.transfer_slotPos : (x.transfer len target).slotPos = 2 := by cases target <;> rfl
@[simp] theorem Slot.transfer_g : (x.transfer len target).g = x.g := by cases target <;> rfl
@[simp] theorem Slot.transfer_ds : (x.transfer len target).ds = if target.isSome then 2 else 0 := by
  cases target with
  | none => exact Slot.ds_setDs _ 0
  | some t => exact Slot.ds_setDs _ 2
@[simp] theorem Slot.transfer_xtgt : (x.transfer len target).xtgt = target.getD x.xtgt := by cases target <;> rfl

theorem Slot.getLsbD_status_transfer {i : Nat} (hi : i < 32) (h2 : i ≠ 2) (h3 : i ≠ 3) :
    (x.transfer len target).status.getLsbD i = x.status.getLsbD i := by
  cases target with
  | none => exact x.getLsbD_status_setDs 0 hi h2 h3
  | some t => exact x.getLsbD_status_setDs 2 hi h2 h3

end

/-- Settles O2: each field of the place, after a transfer and after each of its two delay slots. -/
theorem advanceOverDelaySlots : Obligations.AdvanceOverDelaySlots := by
  unfold Obligations.AdvanceOverDelaySlots
  intro x len len1 len2 t taken after1 after2
  refine ⟨?taken, ?after1, ?after2, ?fallen, ?position, ?straight, ?frame⟩
  case taken => simp [taken]
  case after1 => simp [after1, taken]
  case after2 => simp [after2, after1, taken]
  case fallen => simp
  case position => simp [after2, after1, taken]
  case straight => exact fun h => by simp [h]
  case frame =>
    exact ⟨x.advance_g len, x.advance_xtgt len, x.transfer_g len (some t),
      fun i hi h2 h3 => ⟨x.getLsbD_status_transfer len (some t) hi h2 h3, x.getLsbD_status_advance len hi h2 h3⟩⟩

end Sys2Proof.Machine

/-! SUPPORT. What may not stand in a delay slot traps there (R207), and the instructions on the strand itself (R208, R242, R284, R286, R326). -/

namespace Sys2Proof.Machine

open Sys2Proof.Safety

theorem bind_error {α β : Type} {m : Exec α} (f : α → Exec β) {s : State} {e : Stop} (h : m s = .error e) : (m >>= f) s = .error e := by
  simp only [bind, StateT.bind, h, Except.bind]

theorem runStrand_trap {m : Exec Unit} {s : State} {c : BitVec 8} {v : Word} {mal : Bool} (h : m (s.setWait .none) = .error (.trap c v mal)) :
    runStrand m s = .next (s.takeTrap s.core s.slot c v mal) := by
  simp only [runStrand, h]

/-- Outside a REP block a trap is taken at once (R247). -/
theorem runAhead_trap {m : Exec Unit} {s : State} {c : BitVec 8} {v : Word} {mal : Bool} (hr : s.cur.inRep = false)
    (h : m (s.setWait .none) = .error (.trap c v mal)) : runAhead m s = .next (s.takeTrap s.core s.slot c v mal) := by
  simp only [runAhead, h, hr, Bool.false_eq_true, if_false]

/-! ### The delay-slot rule (R207) -/

/-- The strand stands in a delay slot, its registers are written, and no REP block is in progress. -/
def InDelaySlot (s : State) : Prop := (s.cur.slotPos ≠ 0 ∨ s.cur.ds ≠ 0) ∧ s.cur.inRep = false ∧ s.cur.pend = 0

section
variable {s : State} (h : InDelaySlot s)
include h

theorem InDelaySlot.noDelaySlot_traps : noDelaySlot (begun s) = .error (.trap Cause.delaySlot s.cur.pc false) := by
  have hslot : (begun s).cur.slotPos ≠ 0 ∨ (begun s).cur.ds ≠ 0 := by simpa [begun, Slot.ds] using h.1
  rw [noDelaySlot, if_pos hslot, begun_cur_pc]

theorem InDelaySlot.gated_traps {α : Type} (ahead : Bool) (dests : List GReg) (rest : Exec α) :
    (do repGate ahead dests; noDelaySlot; rest) (s.setWait .none) = .error (.trap Cause.delaySlot s.cur.pc false) := by
  have ⟨_, hrep, _⟩ := h
  rw [bind_ok _ _ _ (begun s) () (repGate_ok fun hr => absurd hr (by simp [hrep]))]
  exact bind_error _ h.noDelaySlot_traps

theorem InDelaySlot.scoreboarded_traps {α : Type} (regs : List GReg) (ahead : Bool) (dests : List GReg) (rest : Exec α) :
    (do scoreboard regs; repGate ahead dests; noDelaySlot; rest) (s.setWait .none) = .error (.trap Cause.delaySlot s.cur.pc false) := by
  have ⟨_, _, hpend⟩ := h
  rw [bind_ok _ _ _ (s.setWait .none) () (scoreboard_ok (by simp [hpend]))]
  exact h.gated_traps ahead dests rest

/-- An instruction that waits for its registers, for the block, and then checks its place has no effect in a delay slot. -/
theorem InDelaySlot.runStrand_gated (ahead : Bool) (dests : List GReg) (rest : Exec Unit) :
    runStrand (do repGate ahead dests; noDelaySlot; rest) s = .next (s.takeTrap s.core s.slot Cause.delaySlot s.cur.pc false) :=
  runStrand_trap (h.gated_traps ahead dests rest)

theorem InDelaySlot.runStrand_scoreboarded (regs : List GReg) (ahead : Bool) (dests : List GReg) (rest : Exec Unit) :
    runStrand (do scoreboard regs; repGate ahead dests; noDelaySlot; rest) s
      = .next (s.takeTrap s.core s.slot Cause.delaySlot s.cur.pc false) :=
  runStrand_trap (h.scoreboarded_traps regs ahead dests rest)

theorem InDelaySlot.runAhead_transfer (len : Nat) (regs dests : List GReg) (target : Exec (Option Word)) :
    runAhead (issueTransfer len regs dests target) s = .next (s.takeTrap s.core s.slot Cause.delaySlot s.cur.pc false) :=
  runAhead_trap h.2.1 (h.scoreboarded_traps (regs ++ dests) true dests _)

end

/-- Settles O4: each instruction that R207 names checks its place before it does anything. -/
theorem delaySlotRestriction : Obligations.DelaySlotRestriction := by
  unfold Obligations.DelaySlotRestriction
  intro s i hslot hrep hpend hi
  have h : InDelaySlot s := ⟨hslot, hrep, hpend⟩
  cases i
  case j | jl | jr | jlr | bCc | biCc => exact h.runAhead_transfer _ _ _ _
  case trap | brk | tret | rep | exit => exact h.runStrand_gated _ _ _
  case fork | migr | join => exact h.runStrand_scoreboarded _ _ _ _
  all_goals exact False.elim hi

/-! ### The instructions on the strand itself -/

/-- An instruction without an elect form whose effect completes moves to the next. -/
theorem issuePlain_ok {s u : State} {len : Nat} {regs dests : List GReg} {body : Exec Unit} (hw : Written s (regs ++ dests))
    (hr : MayRun s false dests) (hb : body (begun s) = .ok ((), u)) :
    issuePlain len regs dests body (s.setWait .none) = .ok ((), done s false len .done u) :=
  issue_ok hw hr (fun h => absurd h (by decide)) (bind_ok body _ _ _ _ hb)

theorem runStrand_plain {s u : State} {regs dests : List GReg} {body : Exec Unit} (h : Safety.Ready s false false regs dests)
    (hb : body (begun s) = .ok ((), u)) : runStrand (issuePlain 8 regs dests body) s = .next (done s false 8 .done u) :=
  runStrand_ok (issuePlain_ok h.1 h.2.2.1 hb)

/-! #### The registers that VREL leaves (R326) -/

theorem testBit_lanesOf (x : BitVec 384) (n i : Nat) (hi : i < 384 * n) : (lanesOf x n).testBit i = x.getLsbD (i % 384) := by
  induction n generalizing i with
  | zero => omega
  | succ n ih =>
    rw [lanesOf, Nat.add_comm, Nat.testBit_two_pow_mul_add _ x.isLt]
    split
    · rename_i h
      rw [Nat.mod_eq_of_lt h]; rfl
    · rename_i h
      rw [ih _ (by omega), Nat.mod_eq_sub_mod (by omega : i ≥ 384)]

/-- The eight weights of a released lane are 0x1000. -/
theorem testBit_releasedWeights : ∀ j < 8, ∀ k < 16, (0x10001000100010001000100010001000 : Nat).testBit (16 * j + k) = decide (k = 12) := by
  decide

/-- A released lane has the value +0.0 and the weight 0x1000 eight times. -/
theorem getLsbD_releasedLane {i : Nat} (hi : i < 384) : releasedLane.getLsbD i = (decide (256 ≤ i) && decide (i % 16 = 12)) := by
  rw [releasedLane, BitVec.getLsbD_ofNat, decide_eq_true hi, Bool.true_and, Nat.testBit_mul_two_pow]
  by_cases h : 256 ≤ i
  · have hw := testBit_releasedWeights ((i - 256) / 16) (by omega) ((i - 256) % 16) (by omega)
    rw [Nat.div_add_mod, show (i - 256) % 16 = i % 16 by omega] at hw
    rw [hw]
  · simp [h]

theorem DistReg.getLsbD_released {i : Nat} (hi : i < 6144) :
    DistReg.released.image.getLsbD i = (decide (256 ≤ i % 384) && decide (i % 16 = 12)) := by
  have hlane := getLsbD_releasedLane (Nat.mod_lt i (by decide : 0 < 384))
  rw [show i % 384 % 16 = i % 16 by omega] at hlane
  rw [DistReg.released, BitVec.getLsbD_ofNat, testBit_lanesOf _ 16 i hi, hlane, decide_eq_true hi, Bool.true_and]

theorem Slot.getLsbD_status_release (x : Slot) {i : Nat} (hi : i < 32) :
    x.release.status.getLsbD i = (decide (i ≠ 0) && x.status.getLsbD i) := by
  rw [Slot.release, getLsbD_setBit _ _ _ _ hi]
  by_cases h : i = 0 <;> simp [h]

theorem Slot.release_d (x : Slot) (d : Fin 4) : x.release.d[d] = DistReg.released := by
  simp [Slot.release]

/-- Settles O8: what each instruction does to its strand or core once it may run. -/
theorem strandControlResult : Obligations.StrandControlResult := by
  unfold Obligations.StrandControlResult
  intro s e
  refine ⟨fun ⟨hw, _, hm, he⟩ => runAhead_ok (issue_ok hw hm he rfl), fun h => ⟨?ifence, ?pin, ?unpin, ?yield, ?vrel⟩⟩
  case ifence =>
    intro hosc
    have hosc' : (begun s).cur.osc = 0 := by simpa [begun] using hosc
    refine runStrand_plain h ?_
    rw [bind_ok cur _ _ _ _ rfl, if_neg (by simpa using hosc')]
    rfl
  case pin => exact runStrand_plain h rfl
  case unpin => exact runStrand_plain h rfl
  case yield => exact runStrand_plain h rfl
  case vrel =>
    refine ⟨(begun s).modCur Slot.release, runStrand_plain h rfl, ?_⟩
    rw [State.cur_modCur]
    refine ⟨rfl, rfl, fun d => ?_, begun_cur_g s, ?_, fun i hi => ?_⟩
    · rw [Slot.release_d]
      exact ⟨rfl, fun i hi => DistReg.getLsbD_released hi⟩
    · simp [Slot.release, begun]
    · rw [Slot.getLsbD_status_release _ hi]
      simp [begun]

end Sys2Proof.Machine

/-! SUPPORT. Every instruction, every occurrence and so every step answers a next state (R208, R362): what an instruction cannot complete it
traps on or waits for, and an occurrence that is not due leaves the state as it is. -/

namespace Sys2Proof.Machine

/-- The outcome is a next state. -/
def AnswersNext {α : Type} (o : Host.Outcome α Fault Refusal) : Prop := ∃ t, o = .next t

namespace AnswersNext

theorem next {α : Type} (t : α) : AnswersNext (.next t) := ⟨t, rfl⟩

theorem ite {α : Type} {c : Prop} [Decidable c] {a b : Host.Outcome α Fault Refusal} (ha : AnswersNext a) (hb : AnswersNext b) :
    AnswersNext (if c then a else b) := by
  split
  · exact ha
  · exact hb

/-- Every way in which a strand's instruction can stop has a next state. -/
theorem runStrand (m : Exec Unit) (s : State) : AnswersNext (Machine.runStrand m s) := by
  unfold Machine.runStrand
  split <;> exact next _

theorem runAhead (m : Exec Unit) (s : State) : AnswersNext (Machine.runAhead m s) := by
  unfold Machine.runAhead
  split <;> exact next _

theorem runEvent (m : Exec Unit) (s : State) : AnswersNext (Machine.runEvent m s) := by
  unfold Machine.runEvent
  split <;> exact next _

theorem swrRow (num : BitVec 12) (applies : Bool) (v : Word) (s : State) : AnswersNext (Machine.swrRow num applies v s) :=
  ite (next s) (runStrand _ s)

/-- A call is not at the head, waits for its reply, or is popped. -/
theorem serve (num f k : Nat) (body : List Byte → State → Except State (State × CallReply)) (s : State) :
    AnswersNext (Machine.serve num f k body s) := by
  unfold Machine.serve
  dsimp only
  repeat' split
  all_goals exact next _

theorem redAtHome (r : RedReq) (s : State) : AnswersNext (execRedAtHome r s) := by
  unfold execRedAtHome
  refine ite (next _) ?_
  split <;> exact next _

theorem electValueTaken (core slot : Nat) (s : State) : AnswersNext (execElectValueTaken core slot s) := by
  unfold execElectValueTaken
  dsimp only
  split
  · split
    · exact next _
    · exact ite (runStrand _ _) (next _)
  · exact next _

theorem sleepTimeout (core slot : Nat) (s : State) : AnswersNext (execSleepTimeout core slot s) := by
  unfold execSleepTimeout
  dsimp only
  split
  · exact next _
  · refine ite (next _) ?_
    split
    · exact runStrand _ _
    · exact next _

theorem shootdownAcknowledge (part : Nat) (s : State) : AnswersNext (execShootdownAcknowledge part s) := by
  unfold execShootdownAcknowledge
  split
  · exact next _
  · exact ite (next _) (ite (next _) (next _))

theorem writeBackArrival (core line : Nat) (s : State) : AnswersNext (execWriteBackArrival core line s) := by
  unfold execWriteBackArrival
  split
  · exact next _
  · exact ite (next _) (ite (next _) (next _))

theorem invalidationAtHolder (rdc : Bool) (holder line : Nat) (s : State) : AnswersNext (execInvalidationAtHolder rdc holder line s) := by
  unfold execInvalidationAtHolder
  split
  · exact next _
  · exact next _

theorem recallAck (line : Nat) (s : State) : AnswersNext (execRecallAck line s) := by
  unfold execRecallAck
  split
  · exact next _
  · exact ite (next _) (next _)

theorem copyChunkDone (quad index : Nat) (s : State) : AnswersNext (execCopyChunkDone quad index s) := by
  unfold execCopyChunkDone
  split
  · exact next _
  · exact ite (next _) (ite (next _) (next _))

theorem shadowSpillResume (part : Nat) (s : State) : AnswersNext (execShadowSpillResume part s) := by
  unfold execShadowSpillResume
  split
  · exact next _
  · exact next _

/-- A launch that is over has work pending, an older launch before it, or a reply to wait for: it is due again, or gone. -/
theorem launchCommit (part lnum : Nat) (s : State) : AnswersNext (execLaunchCommit part lnum s) := by
  unfold execLaunchCommit
  dsimp only
  split
  · exact next _
  · refine ite (next _) ?_
    split
    · refine ite (next _) ?_
      split <;> exact next _
    · split <;> exact next _

theorem mergeSweep (part granule : Nat) (s : State) : AnswersNext (execMergeSweep part granule s) := by
  unfold execMergeSweep
  dsimp only
  split
  · exact next _
  · exact next _

theorem swapPrepareTimeout (p q : Nat) (s : State) : AnswersNext (execSwapPrepareTimeout p q s) := by
  unfold execSwapPrepareTimeout
  split
  · exact next _
  · exact ite (next _) (ite (next _) (next _))

theorem swapExchange (p q : Nat) (s : State) : AnswersNext (execSwapExchange p q s) := by
  unfold execSwapExchange
  split
  · exact next _
  · refine ite (next _) ?_
    split
    · exact next _
    · exact ite (next _) (next _)

theorem swapCopyDone (p q : Nat) (s : State) : AnswersNext (execSwapCopyDone p q s) := by
  unfold execSwapCopyDone
  split
  · exact next _
  · exact ite (next _) (next _)

theorem tenantSaveComplete (core : Nat) (s : State) : AnswersNext (execTenantSaveComplete core s) :=
  ite (next _) (ite (next _) (next _))

theorem replayStop (part : Nat) (s : State) : AnswersNext (execReplayStop part s) := by
  unfold execReplayStop
  dsimp only
  split
  · exact next _
  · refine ite (next _) ?_
    split
    · exact next _
    · split <;> exact next _

theorem tenantRestoreComplete (core : Nat) (s : State) : AnswersNext (execTenantRestoreComplete core s) := by
  unfold execTenantRestoreComplete
  extract_lets c again
  split
  · exact next _
  · extract_lets
    refine ite (next _) (ite (next _) ?_)
    split
    · exact next _
    · split
      refine ite (next _) ?_
      extract_lets
      split
      exact next _

theorem contextRestoreComplete (core slot : Nat) (s : State) : AnswersNext (execContextRestoreComplete core slot s) := by
  unfold execContextRestoreComplete
  refine ite (next _) ?_
  dsimp only
  split
  · exact next _
  · exact next _

theorem nbarMulticastDown (part group : Nat) (s : State) : AnswersNext (execNbarMulticastDown part group s) := by
  unfold execNbarMulticastDown
  dsimp only
  split
  · exact next _
  · exact next _

end AnswersNext

/-- Every instruction and every occurrence answers a next state. -/
theorem exec_answersNext (i : Instr) (s : State) : AnswersNext (exec i s) := by
  cases i
  -- Instructions that may run ahead of a REP block
  case nop | j | jl | jr | jlr | bCc | biCc
      | add | sub | and | or | xor | andn | shl | shr | sar | ror | min | max | minN | maxN
      | addi | subi | andi | ori | xori | andni | shli | shri | sari | rori | mini | maxi | miniN | maxiN
      | mul | mulh | mulhN | div | divN | rem | remN | muli | clz | ctz | popc | brev | bswap
      | ext | ins | setCc | setiCc | sel | movi | addsh | addpc =>
    exact .runAhead _ _
  case undefinedEncoding | fetchFault => exact .next _
  -- The other instructions
  case trap | brk | tret | srd | swr | ifence | sleep | xlat | rep
      | ld | st | ldx | stx | bld | bst | pf | cwb | cinv | fence | wosc | amo | cas | red
      | binit | barr | bexp | bwait | btest | nbar | arm
      | cpy | cpy2 | cpym | cpyq | qcfg | qpush | qpop | qstat | isub | osub | unsub | cpyres
      | fork | spawn | gang | join | jdec | exit | yield | migr | pin | unpin | taskr | tasks | tdone
      | chan | snd | sndb | sndj | rcv | trcv | close | dropj | movj | jkind | grant | gdup | mcmd | lnch | lwait | labrt
      | vld | vldRing | vst | vstRing | vldg | vsts
      | vadd | vsub | vmul | vand | vor | vxor | vshl | vshr | vsar | vmin | vmax | vminN | vmaxN
      | vfadd | vfsub | vfmul | vfmin | vfmax | vfdiv | vfsqrt | vfrcp | vfrsq | vfma | vfms | vfnma
      | vcvt | vcmpCc | vsel | vperm | vbc | vmvgToG | vmvgToV | vred | vhad | qnt
      | mand | mor | mxor | mnot | mpop | mset | vrel
      | dfrom | dld | dst | dadd | dsub | dmul | dmax | dmin | daff | dmom | dqnt | dlinSet | dlinGet
      | tdset | tdget | lsta | mswap | mstrm | mstrmRing | mout | moutRing | mzero | mstat =>
    exact .runStrand _ _
  -- Register writes and calls
  case hasidWrite | dirptrWrite | lslkWrite | tqpopWrite | xkillWrite | xjntWrite | shobWrite | shosWrite | savbWrite | regWrite
      | callrWrite | callpopWrite | frecWrite =>
    exact .runStrand _ _
  case invdOnePage | invdRange | invdAsid | invdPartition | dirdoneListComplete | dirdoneBroadcast | dstopStop | dstopRestart =>
    exact .swrRow _ _ _ _
  case ident | attest | fwload | status | launch | labort | revoke | unrevoke | prien | emureply | faultarea | spdm | resize
      | save | restore | suprst | trace | replay =>
    unfold exec
    exact .serve _ _ _ _ _
  -- Occurrences without a condition
  case hostReadCompletion | hostAtomicCompletion | infeedTile | outfeedTile | channelDataArrival | ackArrival | brokenArrival
      | repointArrival | drainArrival | claimArrival | announceArrival | releaseArrival | takeAndDrop | slotPop | dequePushResume
      | steal | launchPlacement | lstaComplete | mswapPerform | trussRowStep | apertureWrite | apertureRead | doorbell | purlinFrame
      | traceLossSample | completionTimeout | atsTranslationCompletion | invalidateRequest | deferredQueueRoom | budgetWindow
      | samplingWindow | trapQueueEntry | traceReadyHistogram =>
    exact .next _
  -- Occurrences that the home, a core or a strand carries out
  case tlbWalkDone => exact .runEvent _ _
  case homeReadRequest | ownershipRequest | writeThroughAtHome | updateOnlyGrantRequest | atomicAtHome =>
    exact .ite (.next _) (.runEvent _ _)
  case redAtHome => exact .redAtHome _ _
  case electValueTaken => exact .electValueTaken _ _ _
  case sleepTimeout => exact .sleepTimeout _ _ _
  -- Occurrences that depend on the state they find
  case pageRequestResponse | migrationLanding | powerOn | coreResetRelease | vfEnable | l1VtagDrop => exact .ite (.next _) (.next _)
  case framingArrival | sliceExpiry => exact .ite (.next _) (.ite (.next _) (.next _))
  case startupStageComplete => exact .ite (.next _) (.ite (.next _) (.ite (.next _) (.next _)))
  case softError => exact .ite (.next _) (.ite (.next _) (.next _))
  case shootdownAcknowledge => exact .shootdownAcknowledge _ _
  case writeBackArrival => exact .writeBackArrival _ _ _
  case invalidationAtHolder => exact .invalidationAtHolder _ _ _ _
  case recallAck => exact .recallAck _ _
  case copyChunkDone => exact .copyChunkDone _ _ _
  case shadowSpillResume => exact .shadowSpillResume _ _
  case launchCommit => exact .launchCommit _ _ _
  case mergeSweep => exact .mergeSweep _ _ _
  case swapPrepareTimeout => exact .swapPrepareTimeout _ _ _
  case swapExchange => exact .swapExchange _ _ _
  case swapCopyDone => exact .swapCopyDone _ _ _
  case tenantSaveComplete => exact .tenantSaveComplete _ _
  case replayStop => exact .replayStop _ _
  case tenantRestoreComplete => exact .tenantRestoreComplete _ _
  case contextRestoreComplete => exact .contextRestoreComplete _ _ _
  case nbarMulticastDown => exact .nbarMulticastDown _ _ _

/-! ### A cycle of a core, and a step -/

theorem runFetched_answersNext (f : Fetched) (s : State) : AnswersNext (runFetched f s) := by
  cases f with
  | instr i n => exact exec_answersNext i s
  | undefined_ l => exact exec_answersNext (.undefinedEncoding l) s
  | fault c v mal => exact exec_answersNext (.fetchFault c v mal) s
  | wait => exact .next _

theorem issueStream_answersNext (s : State) : AnswersNext (issueStream s) := runFetched_answersNext _ _

theorem issueBlock_answersNext (s : State) : AnswersNext (issueBlock s) := by
  unfold issueBlock
  refine .ite (.runStrand _ _) ?_
  obtain ⟨t, ht⟩ := exec_answersNext s.cur.blockInstr (s.modCur Slot.enterBlock)
  simp only [ht]
  exact .next _

theorem orElseIssue_answersNext {a b : State → Host.Outcome State Fault Refusal} (ha : ∀ s, AnswersNext (a s))
    (hb : ∀ s, AnswersNext (b s)) (s : State) : AnswersNext (orElseIssue a b s) := by
  obtain ⟨t, ht⟩ := ha s
  simp only [orElseIssue, ht]
  exact .ite (hb t) (.next t)

theorem issueSlot_answersNext (c k : Nat) (s : State) : AnswersNext (issueSlot c k s) :=
  .ite (issueStream_answersNext _)
    (.ite (orElseIssue_answersNext issueStream_answersNext issueBlock_answersNext _)
      (orElseIssue_answersNext issueBlock_answersNext issueStream_answersNext _))

theorem issueFrom_answersNext (c : Nat) (ks : List Nat) (s : State) : AnswersNext (issueFrom c ks s) := by
  induction ks generalizing s with
  | nil => exact .next _
  | cons k rest ih =>
    obtain ⟨t, ht⟩ := issueSlot_answersNext c k s
    simp only [issueFrom, ht]
    exact .ite (ih s) (.ite (.next _) (.ite (ih t) (.next _)))

theorem coreCycle_answersNext (c : Nat) (s : State) : AnswersNext (coreCycle c s) := by
  unfold coreCycle
  extract_lets n was u stops
  obtain ⟨⟨t, issued⟩, ht⟩ := issueFrom_answersNext c (lendOrder n) (u.freeArrival c)
  rw [ht]
  exact .next _

theorem takeEvent_answersNext (k : Nat) (s : State) : AnswersNext (takeEvent k s) := by
  unfold takeEvent
  split
  · exact .next s
  · exact exec_answersNext _ _

theorem advance_answersNext (s : State) : AnswersNext (advance s) := by
  unfold advance
  split
  · split
    · exact .next s
    · exact takeEvent_answersNext 0 s
    · exact takeEvent_answersNext _ s
  · split
    · exact coreCycle_answersNext _ s
    · split
      · exact coreCycle_answersNext _ s
      · exact takeEvent_answersNext _ s

/-- Settles O57: what a step chooses is a cycle of a core or an occurrence, and each answers a next state. -/
theorem stepAnswersNext : Obligations.StepAnswersNext := by
  unfold Obligations.StepAnswersNext
  exact fun s => advance_answersNext s.beginStep

end Sys2Proof.Machine

/-! SUPPORT. The frame of the integer family, and of the vector and distribution instructions that reach no memory (R206, R225 to R232,
R310, R324, R325): what their effects write of the issuing strand's slot, and that nothing else changes but the lane operations counted. -/

namespace Sys2Proof.Machine

open Sys2Proof.Safety

/-! ### Effects that complete or trap -/

/-- From every state the computation completes in a state that `Q` relates to it, or traps. -/
def Keeps (Q : State → State → Prop) {α : Type} (m : Exec α) : Prop :=
  ∀ s, (∃ a t, m s = .ok (a, t) ∧ Q s t) ∨ ∃ c v mal, m s = .error (.trap c v mal)

/-- The computation changes nothing. -/
abbrev OnlyReads {α : Type} (m : Exec α) : Prop := Keeps (· = ·) m

namespace Keeps

section
variable {Q Q' Q'' : State → State → Prop} {α β : Type} {m : Exec α} {f : α → Exec β}

theorem bind (hm : Keeps Q m) (hf : ∀ a, Keeps Q' (f a)) (hQ : ∀ s t u, Q s t → Q' t u → Q'' s u) : Keeps Q'' (m >>= f) := by
  intro s
  rcases hm s with ⟨a, t, hok, ht⟩ | ⟨c, v, mal, herr⟩
  · rw [bind_ok m f s t a hok]
    rcases hf a t with ⟨b, u, hok', hu⟩ | htrap
    · exact .inl ⟨b, u, hok', hQ s t u ht hu⟩
    · exact .inr htrap
  · exact .inr ⟨c, v, mal, bind_error f herr⟩

theorem after_read (hm : OnlyReads m) (hf : ∀ a, Keeps Q (f a)) : Keeps Q (m >>= f) := hm.bind hf fun _ _ _ h hu => h ▸ hu

theorem then_pure {b : β} (hm : Keeps Q m) : Keeps Q (m >>= fun _ => pure b) :=
  hm.bind (fun _ s => .inl ⟨b, s, rfl, rfl⟩) fun _ _ _ ht h => h ▸ ht

theorem ite {c : Prop} [Decidable c] {m n : Exec α} (hm : Keeps Q m) (hn : Keeps Q n) : Keeps Q (if c then m else n) := by
  split
  · exact hm
  · exact hn

theorem trap (c : BitVec 8) (v : Word) : Keeps Q (Machine.trap (α := α) c v) := fun _ => .inr ⟨c, v, false, rfl⟩

theorem modCur {g : Slot → Slot} (h : ∀ s, Q s (s.modCur g)) : Keeps Q (Machine.modCur g) := fun s => .inl ⟨(), _, rfl, h s⟩

end

theorem cur : OnlyReads Machine.cur := fun s => .inl ⟨s.cur, s, rfl, rfl⟩

theorem srcG (r : GReg) : OnlyReads (Machine.srcG r) := by
  intro s
  unfold Machine.srcG
  split
  · exact .inr ⟨_, _, _, rfl⟩
  · exact .inl ⟨_, _, rfl, rfl⟩

theorem checkDest (r : GReg) : OnlyReads (Machine.checkDest r) := by
  intro s
  unfold Machine.checkDest
  split
  · exact .inr ⟨_, _, _, rfl⟩
  · exact .inl ⟨_, _, rfl, rfl⟩

end Keeps

/-! ### How an instruction with e = 0 ends -/

section
variable {Q : State → State → Prop} {body : Exec PostedValue} {regs dests : List GReg} {ahead : Bool} {len : Nat}

/-- It waits and has done nothing, traps, or has its effect and moves on; one that may not run ahead of a REP block moves on in none. -/
theorem issue_cases (hb : Keeps Q body) (s : State) {o : Except Stop (Unit × State)}
    (ho : issue len false ahead regs dests body (s.setWait .none) = o) :
    o = .error (.wait .memory (s.setWait .none)) ∨ (∃ c v mal, o = .error (.trap c v mal)) ∨
      ∃ u, Q (begun s) u ∧ (ahead = false → s.cur.inRep = false) ∧ o = .ok ((), u.modCur fun x => x.ranAhead.advance len) := by
  subst ho
  by_cases hs : (regs ++ dests).any fun r => (s.setWait .none).cur.pend.getLsbD r.toNat
  · exact .inl (bind_error _ (if_pos hs))
  · have hboard : scoreboard (regs ++ dests) (s.setWait .none) = .ok ((), s.setWait .none) := if_neg hs
    have ho : issue len false ahead regs dests body (s.setWait .none) = _ := bind_ok _ _ _ _ _ hboard
    by_cases hg : (s.setWait .none).cur.inRep ∧ ! (ahead ∧ (s.setWait .none).cur.block ≠ [] ∧ (s.setWait .none).cur.aheadN < 16 ∧
        dests.all fun r => ! (blockReads (s.setWait .none).cur.block).contains r)
    · exact .inl (ho.trans (bind_error _ (if_pos hg)))
    · have hgate : repGate ahead dests (s.setWait .none) = .ok ((), s.setWait .none) := if_neg hg
      have hrep : ahead = false → s.cur.inRep = false := by
        rintro rfl
        simpa [Slot.inRep] using hg
      replace ho := ho.trans (bind_ok _ _ _ _ _ hgate)
      rcases hb (s.setWait .none) with ⟨a, u, hok, hu⟩ | ⟨c, v, mal, herr⟩
      · exact .inr (.inr ⟨u, hu, hrep, ho.trans (bind_ok _ _ _ u () (bind_ok _ _ _ _ _ hok))⟩)
      · exact .inr (.inl ⟨c, v, mal, ho.trans (bind_error _ (bind_error _ herr))⟩)

end

/-! ### Registers that a write leaves as they are -/

theorem getElem!_set!_of_ne {α : Type} [Inhabited α] {n i j : Nat} (v : Vector α n) (a : α) (h : i ≠ j) : (v.set! i a)[j]! = v[j]! := by
  by_cases hj : j < n
  · rw [getElem!_pos _ j hj, getElem!_pos _ j hj, Vector.getElem_set!_ne hj h]
  · rw [getElem!_neg _ j hj, getElem!_neg _ j hj]

section
variable (x : Slot) {r rd : GReg} (v : Word) (h : r ≠ rd)
include h

theorem Slot.setG_g_of_ne : (x.setG rd v).g[r.toNat]! = x.g[r.toNat]! :=
  getElem!_set!_of_ne _ _ fun e => h (BitVec.eq_of_toNat_eq e.symm)

theorem Slot.setG_tags_of_ne : (x.setG rd v).tags.getLsbD r.toNat = x.tags.getLsbD r.toNat :=
  (getLsbD_setBit _ _ _ _ r.isLt).trans (if_neg fun e => h (BitVec.eq_of_toNat_eq e))

end

/-- What word 0 with e = 0 says of the fields e and fd. -/
theorem head_fields {len : BitVec 2} {op : BitVec 8} {fn : BitVec 5} {e : Bool} {fd fa fb fc : BitVec 4} {w : BitVec 32}
    (h : some (head len op fn e fd fa fb fc) = some w) (he : w.getLsbD 10 = false) : e = false ∧ w.extractLsb' 16 4 = fd := by
  cases h
  have hf := W0.unpack_pack (W0.mk fc fb fa fd fn e op len)
  exact ⟨(congrArg W0.e hf).symm.trans he, congrArg W0.fd hf⟩

/-! ### The integer family (R225 to R232) -/

/-- What an integer instruction that writes `rd` leaves of its strand's slot. -/
structure IntegerWrites (rd : GReg) (x y : Slot) : Prop where
  rest : y = { x with g := y.g, tags := y.tags, status := y.status, pc := y.pc, entered := y.entered, slotPos := y.slotPos, wait := y.wait,
                      aheadN := y.aheadN }
  g : ∀ r : GReg, r ≠ rd → y.g[r.toNat]! = x.g[r.toNat]! ∧ y.tags.getLsbD r.toNat = x.tags.getLsbD r.toNat
  status : ∀ b < 32, b ≠ 2 → b ≠ 3 → y.status.getLsbD b = x.status.getLsbD b

/-- Only that slot changes. -/
def IntegerFrame (rd : GReg) (s t : State) : Prop := ∃ y, t = s.setSlot s.core s.slot y ∧ IntegerWrites rd s.cur y

theorem IntegerFrame.wait (rd : GReg) (s : State) (w : Wait) : IntegerFrame rd s (s.setWait w) :=
  ⟨{ s.cur with wait := w }, rfl, rfl, fun _ _ => ⟨rfl, rfl⟩, fun _ _ _ _ => rfl⟩

theorem Slot.ranAhead_frame (x : Slot) : x.ranAhead = { x with aheadN := x.ranAhead.aheadN } := by
  unfold Slot.ranAhead
  split <;> rfl

theorem IntegerWrites.advance (rd : GReg) (x : Slot) (v : Word) (len : Nat) :
    IntegerWrites rd x (({ x with wait := .none } : Slot).setG rd v |>.ranAhead.advance len) where
  rest := by
    rw [Slot.advance_frame, Slot.ranAhead_frame]
    rfl
  g r hr := by
    rw [Slot.advance_frame, Slot.ranAhead_frame]
    exact ⟨Slot.setG_g_of_ne _ v hr, Slot.setG_tags_of_ne _ v hr⟩
  status b hb h2 h3 := by
    rw [Slot.getLsbD_status_advance _ _ hb h2 h3, Slot.ranAhead_frame]
    rfl

/-- One general register is written. -/
def WroteG (rd : GReg) (s t : State) : Prop := ∃ v, t = s.modCur fun x => x.setG rd v

theorem Keeps.writeG (rd : GReg) (v : Word) : Keeps (WroteG rd) (Machine.writeG rd v) := .modCur fun _ => ⟨v, rfl⟩

@[simp] theorem State.setWait_setWait (s : State) (w w' : Wait) : (s.setWait w).setWait w' = s.setWait w' := State.modCur_modCur ..

/-! #### What the two ways of running do with these ends -/

section
variable {m : Exec Unit} {s : State} {w : Wait}

theorem runStrand_wait (h : m (s.setWait .none) = .error (.wait w (s.setWait .none))) : runStrand m s = .next (s.setWait w) := by
  simp only [runStrand, h]
  exact congrArg _ (State.setWait_setWait s .none w)

theorem runAhead_wait (h : m (s.setWait .none) = .error (.wait w (s.setWait .none))) : runAhead m s = .next (s.setWait w) := by
  simp only [runAhead, h]
  exact congrArg _ (State.setWait_setWait s .none w)

/-- While a REP block is in progress the trap of an instruction ahead of it waits (R247). -/
theorem runAhead_held_trap {c : BitVec 8} {v : Word} {mal : Bool} (hr : s.cur.inRep = true)
    (h : m (s.setWait .none) = .error (.trap c v mal)) : runAhead m s = .next (s.setWait .memory) := by
  simp only [runAhead, h, hr, if_true]

end

section
variable {s t : State} {rd ra rb : GReg}

/-- An instruction whose effect writes `rd` changes nothing else when it takes no trap. -/
theorem integerFrame_of_runAhead {len : Nat} {regs : List GReg} {body : Exec PostedValue} (hb : Keeps (WroteG rd) body)
    (h : runAhead (issue len false true regs [rd] body) s = .next t) (ht : ∀ c v mal, t ≠ s.takeTrap s.core s.slot c v mal) :
    IntegerFrame rd s t := by
  rcases issue_cases hb s rfl with ho | ⟨c, v, mal, ho⟩ | ⟨u, ⟨v, rfl⟩, -, ho⟩
  · cases h.symm.trans (runAhead_wait ho)
    exact .wait rd s _
  · cases hr : s.cur.inRep with
    | true =>
      cases h.symm.trans (runAhead_held_trap hr ho)
      exact .wait rd s _
    | false =>
      cases h.symm.trans (runAhead_trap hr ho)
      exact absurd rfl (ht c v mal)
  · cases h.symm.trans (runAhead_ok ho)
    refine ⟨_, ?_, .advance rd s.cur v len⟩
    rw [State.modCur_modCur, begun, State.setWait, State.modCur_modCur]
    rfl

theorem integerFrame_binary {f : Word → Word → Word} (h : runAhead (binary false rd ra rb f) s = .next t)
    (ht : ∀ c v mal, t ≠ s.takeTrap s.core s.slot c v mal) : IntegerFrame rd s t :=
  integerFrame_of_runAhead
    (.after_read (.srcG ra) fun _ => .after_read (.srcG rb) fun _ => .after_read (.checkDest rd) fun _ => (Keeps.writeG rd _).then_pure) h ht

theorem integerFrame_unary {f : Word → Word} (h : runAhead (unary false rd ra f) s = .next t)
    (ht : ∀ c v mal, t ≠ s.takeTrap s.core s.slot c v mal) : IntegerFrame rd s t :=
  integerFrame_of_runAhead
    (.after_read (.srcG ra) fun _ => .after_read (.checkDest rd) fun _ => (Keeps.writeG rd _).then_pure) h ht

/-- Every instruction of the integer family writes the register of fd alone. -/
theorem integerFrame_of_exec {i : Instr} {w : BitVec 32} (hi : IsInteger i) (hw : (encode i).head? = some w) (he : w.getLsbD 10 = false)
    (h : exec i s = .next t) (ht : ∀ c v mal, t ≠ s.takeTrap s.core s.slot c v mal) : IntegerFrame (w.extractLsb' 16 4) s t := by
  cases i
  case add | sub | and | or | xor | andn | shl | shr | sar | ror | min | max | minN | maxN
      | mul | mulh | mulhN | div | divN | rem | remN | ins | setCc | addsh =>
    obtain ⟨rfl, hrd⟩ := head_fields hw he
    rw [hrd]
    exact integerFrame_binary h ht
  case addi | subi | andi | ori | xori | andni | shli | shri | sari | rori | mini | maxi | miniN | maxiN
      | muli | clz | ctz | popc | brev | bswap | ext | setiCc =>
    obtain ⟨rfl, hrd⟩ := head_fields hw he
    rw [hrd]
    exact integerFrame_unary h ht
  case sel e rd ra rb rc =>
    obtain ⟨rfl, hrd⟩ := head_fields hw he
    rw [hrd]
    exact integerFrame_of_runAhead (.after_read (.srcG ra) fun _ => .after_read (.srcG rb) fun _ => .after_read (.srcG rc) fun _ =>
      .after_read (.checkDest rd) fun _ => (Keeps.writeG rd _).then_pure) h ht
  case movi e rd imm =>
    obtain ⟨rfl, hrd⟩ := head_fields hw he
    rw [hrd]
    exact integerFrame_of_runAhead (.after_read (.checkDest rd) fun _ => (Keeps.writeG rd _).then_pure) h ht
  case addpc e rd imm =>
    obtain ⟨rfl, hrd⟩ := head_fields hw he
    rw [hrd]
    exact integerFrame_of_runAhead (.after_read (.checkDest rd) fun _ => .after_read .cur fun _ => (Keeps.writeG rd _).then_pure) h ht
  all_goals exact False.elim hi

end

/-! ### The vector and distribution instructions that reach no memory (R310, R324, R325) -/

/-- What an instruction that writes the registers named leaves of its strand's slot. -/
structure VectorWrites (vd : Option VReg) (rd : Option GReg) (md : Option MReg) (dd : Option DReg) (x y : Slot) : Prop where
  rest : y = { x with g := y.g, tags := y.tags, v := y.v, m := y.m, d := y.d, dstat := y.dstat, status := y.status, pc := y.pc
                      entered := y.entered, slotPos := y.slotPos, wait := y.wait } := by rfl
  g : ∀ r : GReg, rd ≠ some r → y.g[r.toNat]! = x.g[r.toNat]! ∧ y.tags.getLsbD r.toNat = x.tags.getLsbD r.toNat := by
    exact fun _ _ => ⟨rfl, rfl⟩
  v : ∀ r : VReg, vd ≠ some r → y.v[r.toNat]! = x.v[r.toNat]! := by exact fun _ _ => rfl
  m : ∀ r : MReg, md ≠ some r → y.m[r.toNat]! = x.m[r.toNat]! := by exact fun _ _ => rfl
  d : ∀ r : Fin 4, dd.map BitVec.toNat ≠ some r.val → y.d[r] = x.d[r] := by exact fun _ _ => rfl
  dstat : dd = none → y.dstat = x.dstat := by exact fun _ => rfl
  status : ∀ b < 32, b = 1 ∨ 9 ≤ b → y.status.getLsbD b = x.status.getLsbD b := by exact fun _ _ _ => rfl
  flags : ∀ b < 32, vd = none → b ≠ 0 → b ≠ 2 → b ≠ 3 → y.status.getLsbD b = x.status.getLsbD b := by exact fun _ _ _ _ _ _ => rfl

namespace VectorWrites

section
variable {vd : Option VReg} {rd : Option GReg} {md : Option MReg} {dd : Option DReg} {x y z : Slot}

theorem trans (h : VectorWrites vd rd md dd x y) (h' : VectorWrites vd rd md dd y z) : VectorWrites vd rd md dd x z where
  rest := by
    have hz := h'.rest
    rw [h.rest] at hz
    exact hz
  g r hr := ⟨(h'.g r hr).1.trans (h.g r hr).1, (h'.g r hr).2.trans (h.g r hr).2⟩
  v r hr := (h'.v r hr).trans (h.v r hr)
  m r hr := (h'.m r hr).trans (h.m r hr)
  d r hr := (h'.d r hr).trans (h.d r hr)
  dstat hd := (h'.dstat hd).trans (h.dstat hd)
  status b hb hr := (h'.status b hb hr).trans (h.status b hb hr)
  flags b hb hv h0 h2 h3 := (h'.flags b hb hv h0 h2 h3).trans (h.flags b hb hv h0 h2 h3)

theorem inRep (h : VectorWrites vd rd md dd x y) : y.inRep = x.inRep := by rw [h.rest]; rfl
theorem member (h : VectorWrites vd rd md dd x y) : y.member = x.member := by rw [h.rest]
theorem lnum (h : VectorWrites vd rd md dd x y) : y.lnum = x.lnum := by rw [h.rest]

variable (x)

theorem refl : VectorWrites vd rd md dd x x := {}

theorem wait (w : Wait) : VectorWrites vd rd md dd x { x with wait := w } := {}

theorem advance (len : Nat) : VectorWrites vd rd md dd x (x.advance len) := by
  have hs {b : Nat} (hb : b < 32) (h2 : b ≠ 2) (h3 : b ≠ 3) := x.getLsbD_status_advance len hb h2 h3
  rw [x.advance_frame len]
  exact { status := fun b hb h => hs hb (by omega) (by omega), flags := fun b hb _ _ h2 h3 => hs hb h2 h3 }

theorem anchor : VectorWrites vd rd md dd x x.anchor where
  status b hb h := (getLsbD_setBit _ _ _ _ hb).trans (if_neg (by omega))
  flags b hb _ h0 _ _ := (getLsbD_setBit _ _ _ _ hb).trans (if_neg h0)

end

section
variable (x : Slot)

theorem setG {vd : Option VReg} {md : Option MReg} {dd : Option DReg} (r : GReg) (v : Word) :
    VectorWrites vd (some r) md dd x (x.setG r v) where
  g r' hr := ⟨x.setG_g_of_ne v fun h => hr (h ▸ rfl), x.setG_tags_of_ne v fun h => hr (h ▸ rfl)⟩

theorem setV {rd : Option GReg} {md : Option MReg} {dd : Option DReg} (r : VReg) (w : BitVec 1024) :
    VectorWrites (some r) rd md dd x { x.anchor with v := x.v.set! r.toNat w } :=
  (anchor x).trans { v := fun r' hr => getElem!_set!_of_ne _ _ fun h => hr (congrArg some (BitVec.eq_of_toNat_eq h)) }

theorem setM {vd : Option VReg} {rd : Option GReg} {dd : Option DReg} (r : MReg) (w : BitVec 32) :
    VectorWrites vd rd (some r) dd x { x.anchor with m := if r = 0 then x.m else x.m.set! r.toNat w } :=
  (anchor x).trans
    { m := fun r' hr => by
        split
        · rfl
        · exact getElem!_set!_of_ne _ _ fun h => hr (congrArg some (BitVec.eq_of_toNat_eq h)) }

theorem setD {vd : Option VReg} {rd : Option GReg} {md : Option MReg} (r : DReg) (w : DistReg) :
    VectorWrites vd rd md (some r) x { x.anchor with d := x.d.set! r.toNat w } :=
  (anchor x).trans
    { d := fun r' hr => Vector.getElem_set!_ne r'.isLt fun h => hr (congrArg some h)
      dstat := fun h => absurd h (by simp) }

theorem orFlags {rd : Option GReg} {md : Option MReg} {dd : Option DReg} (r : VReg) (f : BitVec 5) :
    VectorWrites (some r) rd md dd x (x.orFlags f) where
  status b hb h := (getLsbD_setField _ _ _ _ _ hb).trans (if_neg (by omega))
  flags _ _ h := absurd h (by simp)

theorem setDstat {vd : Option VReg} {rd : Option GReg} {md : Option MReg} (r : DReg) (w : BitVec 64) :
    VectorWrites vd rd md (some r) x { x with dstat := w } where
  dstat h := absurd h (by simp)

end

end VectorWrites


/-! ### The lane operations counted (R350) -/

section
variable (s : State) (c k p : Nat) (l : Option (BitVec 16)) (a b : Nat) (y : Slot)

@[simp] theorem State.addWork_core : (s.addWork c p l a b).core = s.core := by cases l <;> rfl
@[simp] theorem State.addWork_slot : (s.addWork c p l a b).slot = s.slot := by cases l <;> rfl
@[simp] theorem State.addWork_mem : (s.addWork c p l a b).mem = s.mem := by cases l <;> rfl

@[simp] theorem State.slotAt_addWork : (s.addWork c p l a b).slotAt c k = s.slotAt c k := by
  cases l <;> simp [State.addWork, State.slotAt]

/-- The work counts and a slot of the core are separate fields. -/
theorem State.addWork_setSlot : (s.setSlot c k y).addWork c p l a b = (s.addWork c p l a b).setSlot c k y := by
  have hc : (s.setSlot c k y).addWork c p none a b = (s.addWork c p none a b).setSlot c k y := by
    simp only [State.addWork, State.setSlot, State.modCore_modCore]
  cases l with
  | none => exact hc
  | some n =>
    simp only [State.addWork] at hc ⊢
    rw [hc]
    rfl

end

/-- The state with lane operations of the issuing strand counted. -/
def State.worked (s : State) (n : Nat) : State :=
  s.addWork s.core s.myPart (if s.cur.member = true then some s.cur.lnum else none) n 0

section
variable (s : State) (n : Nat)

@[simp] theorem State.worked_core : (s.worked n).core = s.core := State.addWork_core ..
@[simp] theorem State.worked_slot : (s.worked n).slot = s.slot := State.addWork_slot ..
@[simp] theorem State.worked_mem : (s.worked n).mem = s.mem := State.addWork_mem ..
@[simp] theorem State.worked_cur : (s.worked n).cur = s.cur := by simp [State.cur, State.worked]

end

/-! ### States that agree up to the slot that issues -/

/-- Nothing but the issuing strand's slot differs. -/
def UpToSlot (s t : State) : Prop := ∀ z, t.setSlot s.core s.slot z = s.setSlot s.core s.slot z

namespace UpToSlot

section
variable {s t u : State}

theorem refl (s : State) : UpToSlot s s := fun _ => rfl

section
variable (h : UpToSlot s t)
include h

theorem core : t.core = s.core := by simpa using congrArg State.core (h s.cur)
theorem slot : t.slot = s.slot := by simpa using congrArg State.slot (h s.cur)
theorem myPart : t.myPart = s.myPart := by
  have hp := congrArg State.myPart (h s.cur)
  exact hp

theorem trans (h' : UpToSlot t u) : UpToSlot s u := fun z =>
  calc
    u.setSlot s.core s.slot z = t.setSlot s.core s.slot z := h.core ▸ h.slot ▸ h' z
    _ = s.setSlot s.core s.slot z := h z

theorem modCur (f : Slot → Slot) : t.modCur f = s.setSlot s.core s.slot (f t.cur) :=
  calc
    t.modCur f = t.setSlot s.core s.slot (f t.cur) := h.core ▸ h.slot ▸ rfl
    _ = s.setSlot s.core s.slot (f t.cur) := h _

theorem worked (hm : t.cur.member = s.cur.member) (hl : t.cur.lnum = s.cur.lnum) (n : Nat) : UpToSlot (s.worked n) (t.worked n) := by
  intro z
  simp only [State.worked_core, State.worked_slot]
  simp only [State.worked, h.core, h.myPart, hm, hl, ← State.addWork_setSlot, h z]

end

theorem of_modCur (s : State) (f : Slot → Slot) : UpToSlot s (s.modCur f) := fun _ => State.setSlot_setSlot ..

end

end UpToSlot

/-! ### What the instructions do to the state -/

section
variable (vd : Option VReg) (rd : Option GReg) (md : Option MReg) (dd : Option DReg) (s t : State)

/-- Only the registers named of the issuing strand's slot have been written. -/
def SlotWrites : Prop := VectorWrites vd rd md dd s.cur t.cur ∧ UpToSlot s t

/-- The same, but lane operations may have been counted. -/
def VectorFrame : Prop := VectorWrites vd rd md dd s.cur t.cur ∧ (UpToSlot s t ∨ ∃ n, UpToSlot (s.worked n) t)

/-- What is left when the strand has moved on or waits. -/
def VectorResult : Prop :=
  ∃ y, (t = s.setSlot s.core s.slot y ∨ ∃ n, t = (s.worked n).setSlot s.core s.slot y) ∧ VectorWrites vd rd md dd s.cur y

end

section
variable {vd : Option VReg} {rd : Option GReg} {md : Option MReg} {dd : Option DReg} {s t u : State}

theorem SlotWrites.modCur (s : State) {f : Slot → Slot} (h : VectorWrites vd rd md dd s.cur (f s.cur)) :
    SlotWrites vd rd md dd s (s.modCur f) := by
  have hcur : (s.modCur f).cur = f s.cur := State.slotAt_modSlot ..
  exact ⟨hcur ▸ h, .of_modCur s f⟩

theorem SlotWrites.trans_frame (h : SlotWrites vd rd md dd s t) (h' : VectorFrame vd rd md dd t u) : VectorFrame vd rd md dd s u := by
  obtain ⟨hw, hs⟩ := h
  obtain ⟨hw', hs'⟩ := h'
  exact ⟨hw.trans hw', hs'.imp hs.trans fun ⟨n, hn⟩ => ⟨n, (hs.worked hw.member hw.lnum n).trans hn⟩⟩

theorem VectorFrame.refl (s : State) : VectorFrame vd rd md dd s s := ⟨.refl _, .inl (.refl s)⟩

theorem VectorFrame.worked (s : State) (n : Nat) : VectorFrame vd rd md dd s (s.worked n) :=
  ⟨(s.worked_cur n).symm ▸ .refl _, .inr ⟨n, .refl _⟩⟩

theorem VectorFrame.modCur (h : VectorFrame vd rd md dd s u) {f : Slot → Slot} (hf : VectorWrites vd rd md dd u.cur (f u.cur)) :
    VectorResult vd rd md dd s (u.modCur f) := by
  obtain ⟨hw, hs⟩ := h
  refine ⟨f u.cur, hs.imp (fun hs => hs.modCur f) fun ⟨n, hs⟩ => ⟨n, ?_⟩, hw.trans hf⟩
  simpa only [State.worked_core, State.worked_slot] using hs.modCur f

theorem VectorResult.wait (s : State) (w : Wait) : VectorResult vd rd md dd s (s.setWait w) := (VectorFrame.refl s).modCur (.wait s.cur w)

end

/-! ### The writes of a vector instruction, and how it ends -/

namespace Keeps

section
variable {vd : Option VReg} {rd : Option GReg} {md : Option MReg} {dd : Option DReg} {α β : Type}

theorem after_writes {m : Exec α} {f : α → Exec β} (hm : Keeps (SlotWrites vd rd md dd) m) (hf : ∀ a, Keeps (VectorFrame vd rd md dd) (f a)) :
    Keeps (VectorFrame vd rd md dd) (m >>= f) := hm.bind hf fun _ _ _ => SlotWrites.trans_frame

theorem pure (a : α) : Keeps (VectorFrame vd rd md dd) (Pure.pure a : Exec α) := fun s => .inl ⟨a, s, rfl, .refl s⟩

theorem of_writes {m : Exec Unit} (hm : Keeps (SlotWrites vd rd md dd) m) : Keeps (VectorFrame vd rd md dd) m := by
  intro s
  exact (hm s).imp (fun ⟨a, t, hok, ht⟩ => ⟨a, t, hok, ht.1, .inl ht.2⟩) id

theorem laneWork (m : BitVec 32) : Keeps (VectorFrame vd rd md dd) (Machine.laneWork m) := fun s =>
  .inl ⟨(), _, rfl, .worked s (popCount m)⟩

theorem writesG (r : GReg) (v : Word) : Keeps (SlotWrites vd (some r) md dd) (Machine.writeG r v) :=
  .modCur fun s => .modCur s (.setG s.cur r v)

theorem writeV (r : VReg) (w : BitVec 1024) : Keeps (SlotWrites (some r) rd md dd) (Machine.writeV r w) :=
  .modCur fun s => .modCur s (.setV s.cur r w)

theorem writeM (r : MReg) (w : BitVec 32) : Keeps (SlotWrites vd rd (some r) dd) (Machine.writeM r w) :=
  .modCur fun s => .modCur s (.setM s.cur r w)

theorem writeD (r : DReg) (w : DistReg) : Keeps (SlotWrites vd rd md (some r)) (Machine.writeD r w) :=
  .modCur fun s => .modCur s (.setD s.cur r w)

theorem raise_ (r : VReg) (f : BitVec 5) : Keeps (SlotWrites (some r) rd md dd) (Machine.raise_ f) :=
  .modCur fun s => .modCur s (.orFlags s.cur r f)

theorem raiseDstat (r : DReg) (norm dep : Bool) : Keeps (SlotWrites vd rd md (some r)) (Machine.raiseDstat norm dep) :=
  .modCur fun s => .modCur s (.setDstat s.cur r _)

theorem lanewise (r : VReg) (v : VForm) (f : Slot → Nat → Nat × BitVec 5) :
    Keeps (VectorFrame (some r) rd md dd) (Machine.lanewise r v f) :=
  .after_read .cur fun _ => .after_writes (.writeV r _) fun _ => .after_writes (.raise_ r _) fun _ => .laneWork _

end

end Keeps

theorem Slot.ranAhead_of_not_inRep {x : Slot} (h : x.inRep = false) : x.ranAhead = x := by simp [Slot.ranAhead, h]

section
variable {vd : Option VReg} {rd : Option GReg} {md : Option MReg} {dd : Option DReg} {s t : State} {regs dests : List GReg}

/-- An instruction whose effect keeps to its frame leaves the rest as it was when it takes no trap. -/
theorem vectorResult_of_issue {body : Exec PostedValue} (hb : Keeps (VectorFrame vd rd md dd) body)
    (h : runStrand (issue 8 false false regs dests body) s = .next t) (ht : ∀ c v mal, t ≠ s.takeTrap s.core s.slot c v mal) :
    VectorResult vd rd md dd s t := by
  rcases issue_cases hb s rfl with ho | ⟨c, v, mal, ho⟩ | ⟨u, hu, hrep, ho⟩
  · cases h.symm.trans (runStrand_wait ho)
    exact .wait s _
  · cases h.symm.trans (runStrand_trap ho)
    exact absurd rfl (ht c v mal)
  · cases h.symm.trans (runStrand_ok ho)
    have hu : VectorFrame vd rd md dd s u := (SlotWrites.modCur s (.wait s.cur .none)).trans_frame hu
    have hr : u.cur.inRep = false := hu.1.inRep.trans (hrep rfl)
    refine hu.modCur ?_
    rw [Slot.ranAhead_of_not_inRep hr]
    exact .advance u.cur 8

theorem vectorResult_of_issuePlain {body : Exec Unit} (hb : Keeps (VectorFrame vd rd md dd) body)
    (h : runStrand (issuePlain 8 regs dests body) s = .next t) (ht : ∀ c v mal, t ≠ s.takeTrap s.core s.slot c v mal) :
    VectorResult vd rd md dd s t := vectorResult_of_issue hb.then_pure h ht

end


/-! ### The instructions -/

section
variable {vd : Option VReg} {rd : Option GReg} {md : Option MReg} {dd : Option DReg} {s t : State}

theorem Keeps.laneWork_then_pure {α : Type} (m : BitVec 32) (a : α) :
    Keeps (VectorFrame vd rd md dd) (Machine.laneWork m >>= fun _ => Pure.pure a) := (Keeps.laneWork m).then_pure

section
variable (ht : ∀ c v mal, t ≠ s.takeTrap s.core s.slot c v mal)
include ht

theorem vectorResult_lanewise {regs dests : List GReg} {r : VReg} {v : VForm} {f : Slot → Nat → Nat × BitVec 5}
    (h : runStrand (issueV regs dests (lanewise r v f)) s = .next t) : VectorResult (some r) rd md dd s t :=
  vectorResult_of_issuePlain (.lanewise r v f) h ht

theorem vectorResult_vbc {r : VReg} {ra : GReg} {v : VForm} (h : execVbc r ra v s = .next t) : VectorResult (some r) rd md dd s t :=
  vectorResult_of_issuePlain (.after_read (.srcG ra) fun _ => .lanewise r v _) h ht

theorem vectorResult_vhad {r va : VReg} {rb rc : GReg} {v : VForm} (h : execVhad r va rb rc v s = .next t) :
    VectorResult (some r) rd md dd s t :=
  vectorResult_of_issuePlain (.after_read (.srcG rb) fun _ => .after_read (.srcG rc) fun _ =>
    .ite (.after_read (.trap _ _) fun _ => .after_read .cur fun _ => .lanewise r v _) (.after_read .cur fun _ => .lanewise r v _)) h ht

theorem vectorResult_qnt {r va : VReg} {rb : GReg} {v : VForm} (h : execQnt r va rb v s = .next t) :
    VectorResult (some r) (some rb) md dd s t :=
  vectorResult_of_issuePlain (.after_read (.checkDest rb) fun _ => .after_read .cur fun _ =>
    .ite (.after_writes (.writesG rb _) fun _ => .lanewise r v _) (.after_writes (.writesG rb _) fun _ => .lanewise r v _)) h ht

theorem vectorResult_vmvgToG {r : GReg} {va : VReg} {v : VForm} (h : execVmvgToG false r va v s = .next t) :
    VectorResult vd (some r) md dd s t :=
  vectorResult_of_issue (.after_read (.checkDest r) fun _ => .after_read .cur fun _ => .after_writes (.writesG r _) fun _ =>
    .laneWork_then_pure _ _) h ht

theorem vectorResult_vmvgToV {r : VReg} {ra : GReg} {v : VForm} (h : execVmvgToV false r ra v s = .next t) :
    VectorResult (some r) rd md dd s t :=
  vectorResult_of_issue (.after_read (.srcG ra) fun _ => .after_read .cur fun _ => .after_writes (.writeV r _) fun _ =>
    .laneWork_then_pure _ _) h ht

theorem vectorResult_vred {op : VredOp} {r va : VReg} {v : VForm} (h : execVred false op r va v s = .next t) :
    VectorResult (some r) rd md dd s t :=
  vectorResult_of_issue (.after_read .cur fun _ => .after_writes (.writeV r _) fun _ => .after_writes (.raise_ r _) fun _ =>
    .laneWork_then_pure _ _) h ht

theorem vectorResult_vcmpCc {cc : Cond} {r : MReg} {va vb : VReg} {v : VForm} (h : execVcmpCc cc r va vb v s = .next t) :
    VectorResult vd rd (some r) dd s t :=
  vectorResult_of_issuePlain (.after_read .cur fun _ => .after_writes (.writeM r _) fun _ => .laneWork _) h ht

theorem vectorResult_maskOp {r : MReg} {f : Slot → BitVec 32} (h : maskOp r f s = .next t) : VectorResult vd rd (some r) dd s t :=
  vectorResult_of_issuePlain (.after_read .cur fun _ => .of_writes (.writeM r _)) h ht

theorem vectorResult_mset {r : MReg} {ra : GReg} (h : execMset r ra s = .next t) : VectorResult vd rd (some r) dd s t :=
  vectorResult_of_issuePlain (.after_read (.srcG ra) fun _ => .of_writes (.writeM r _)) h ht

theorem vectorResult_mpop {r : GReg} {ma : MReg} (h : execMpop r ma s = .next t) : VectorResult vd (some r) md dd s t :=
  vectorResult_of_issuePlain (.after_read (.checkDest r) fun _ => .after_read .cur fun _ => .of_writes (.writesG r _)) h ht

theorem vectorResult_dfrom {r : DReg} {va vb : VReg} {v : VForm} (h : execDfrom r va vb v s = .next t) :
    VectorResult vd rd md (some r) s t :=
  vectorResult_of_issuePlain (.after_read .cur fun _ => .of_writes (.writeD r _)) h ht

theorem vectorResult_distOp {r da db : DReg} {f : Ext → Ext → Ext} (h : distOp r da db f s = .next t) : VectorResult vd rd md (some r) s t :=
  vectorResult_of_issuePlain (.after_read .cur fun _ => .after_writes (.raiseDstat r _ _) fun _ => .of_writes (.writeD r _)) h ht

theorem vectorResult_daff {r da : DReg} {rb : GReg} (h : execDaff r da rb s = .next t) : VectorResult vd rd md (some r) s t :=
  vectorResult_of_issuePlain (.after_read (.srcG rb) fun _ => .after_read .cur fun _ => .of_writes (.writeD r _)) h ht

theorem vectorResult_dmom {r : VReg} {da : DReg} {v : VForm} (h : execDmom false r da v s = .next t) : VectorResult (some r) rd md dd s t :=
  vectorResult_of_issue (.after_read .cur fun _ => .after_writes (.writeV r _) fun _ => .pure _) h ht

theorem vectorResult_dqnt {r : VReg} {da : DReg} {v : VForm} (h : execDqnt false r da v s = .next t) : VectorResult (some r) rd md dd s t :=
  vectorResult_of_issue (.after_read .cur fun _ => .after_writes (.writeV r _) fun _ => .pure _) h ht

theorem vectorResult_dlinSet {r : DReg} {lin : BitVec 16} (h : execDlinSet r lin s = .next t) : VectorResult vd rd md (some r) s t :=
  vectorResult_of_issuePlain (.after_read .cur fun _ => .of_writes (.writeD r _)) h ht

theorem vectorResult_dlinGet {r : GReg} {da : DReg} (h : execDlinGet r da s = .next t) : VectorResult vd (some r) md dd s t :=
  vectorResult_of_issuePlain (.after_read (.checkDest r) fun _ => .after_read .cur fun _ => .of_writes (.writesG r _)) h ht

/-- Every instruction of the vector and distribution families that reaches no memory writes the registers it names. -/
theorem vectorResult_of_exec {i : Instr} {w : BitVec 32} (hi : vectorDests i = some (vd, rd, md, dd))
    (hw : (encode i).head? = some w) (he : w.getLsbD 10 = false) (h : exec i s = .next t) : VectorResult vd rd md dd s t := by
  cases i <;> cases hi
  case vadd | vsub | vmul | vand | vor | vxor | vshl | vshr | vsar | vmin | vmax | vminN | vmaxN | vfadd | vfsub | vfmul | vfmin | vfmax
      | vfdiv | vfsqrt | vfrcp | vfrsq | vfma | vfms | vfnma | vcvt | vsel | vperm => exact vectorResult_lanewise ht h
  case vbc => exact vectorResult_vbc ht h
  case vhad => exact vectorResult_vhad ht h
  case qnt => exact vectorResult_qnt ht h
  case vmvgToG =>
    obtain ⟨rfl, -⟩ := head_fields hw he
    exact vectorResult_vmvgToG ht h
  case vmvgToV =>
    obtain ⟨rfl, -⟩ := head_fields hw he
    exact vectorResult_vmvgToV ht h
  case vred =>
    obtain ⟨rfl, -⟩ := head_fields hw he
    exact vectorResult_vred ht h
  case dmom =>
    obtain ⟨rfl, -⟩ := head_fields hw he
    exact vectorResult_dmom ht h
  case dqnt =>
    obtain ⟨rfl, -⟩ := head_fields hw he
    exact vectorResult_dqnt ht h
  case vcmpCc => exact vectorResult_vcmpCc ht h
  case mand | mor | mxor | mnot => exact vectorResult_maskOp ht h
  case mset => exact vectorResult_mset ht h
  case mpop => exact vectorResult_mpop ht h
  case dfrom => exact vectorResult_dfrom ht h
  case dadd | dsub | dmul | dmax | dmin => exact vectorResult_distOp ht h
  case daff => exact vectorResult_daff ht h
  case dlinSet => exact vectorResult_dlinSet ht h
  case dlinGet => exact vectorResult_dlinGet ht h

end

end

/-- Settles O54: an effect of the integer family writes its destination alone; one of the vector and distribution instructions writes the
registers it names in the slot and counts lane operations; then the strand moves on, and a strand that waits has done nothing. -/
theorem registerFrame : Obligations.RegisterFrame := by
  unfold Obligations.RegisterFrame
  refine ⟨fun s t i w hi hw he h ht => ?_, fun s t i w vd rd md dd hi hw he h ht => ?_⟩
  · obtain ⟨y, rfl, hy⟩ := integerFrame_of_exec hi hw he h ht
    simp only [State.slotAt_setSlot, State.setSlot_mem, implies_true, true_and]
    exact ⟨hy.rest, hy.g, hy.status⟩
  · obtain ⟨y, hst, hy⟩ := vectorResult_of_exec ht hi hw he h
    have hslot : t.slotAt s.core s.slot = y := by rcases hst with rfl | ⟨n, rfl⟩ <;> exact State.slotAt_setSlot ..
    have hmem : t.mem = s.mem := by
      rcases hst with rfl | ⟨n, rfl⟩
      · rfl
      · exact s.worked_mem n
    simp only [hslot, hmem, implies_true, true_and]
    exact ⟨hst, hy.rest, hy.g, hy.v, hy.m, hy.d, hy.dstat, hy.status, hy.flags⟩

end Sys2Proof.Machine

/-! SUPPORT. How an instruction that may run reads its registers, completes or traps, plain or by election; and the integer
family (R224 to R232). -/

namespace Sys2Proof.Machine

open Sys2Proof.Safety

/-! ### An instruction that may run -/

section
variable {s : State} {e ahead : Bool} {r : GReg} {regs dests : List GReg}

/-- Outside delay slots an instruction moves straight on. -/
theorem Slot.advance_of_ds_eq_zero {x : Slot} (h : x.ds = 0) (len : Nat) :
    x.advance len = { x with pc := x.pc + BitVec.ofNat 64 len, entered := false, slotPos := x.slotPos - 1 } := if_pos h

/-- Beginning an instruction changes of the cores only the wait of the strand's slot. -/
theorem coreAt_begun (s : State) (c : Nat) : ∃ xs, (begun s).coreAt c = { s.coreAt c with slots := xs } := by
  by_cases hc : c = s.core
  · subst hc
    exact ⟨_, State.coreAt_modCore s s.core fun co => { co with slots := co.slots.set s.slot { s.cur with wait := .none } }⟩
  · exact ⟨_, State.coreAt_modCore_ne s s.core c (fun co => { co with slots := co.slots.set s.slot { s.cur with wait := .none } }) hc⟩

theorem slotAt_begun_ne {c k : Nat} (h : ¬ (c = s.core ∧ k = s.slot)) : (begun s).slotAt c k = s.slotAt c k :=
  State.slotAt_modCur_ne s _ c k h

theorem slotAt_begun (s : State) (c k : Nat) : ∃ w, (begun s).slotAt c k = { s.slotAt c k with wait := w } := by
  by_cases h : c = s.core ∧ k = s.slot
  · obtain ⟨rfl, rfl⟩ := h
    exact ⟨.none, State.cur_setWait s .none⟩
  · exact ⟨(s.slotAt c k).wait, slotAt_begun_ne h⟩

theorem srcG_begun (h : s.cur.tags.getLsbD r.toNat = false) : srcG r (begun s) = .ok (reg s r, begun s) := by
  rw [srcG_ok (by rwa [begun_cur_tags]), begun_cur_g]; rfl

theorem checkDest_begun (h : s.cur.tags.getLsbD r.toNat = false) : checkDest r (begun s) = .ok ((), begun s) :=
  checkDest_ok (by rwa [begun_cur_tags])

theorem srcG_of_ready (h : Safety.Ready s e ahead regs dests) (hr : r ∈ regs) : srcG r (begun s) = .ok (reg s r, begun s) :=
  srcG_begun (h.2.1 r (List.mem_append_left _ hr))

theorem checkDest_of_ready (h : Safety.Ready s e ahead regs dests) (hr : r ∈ dests) : checkDest r (begun s) = .ok ((), begun s) :=
  checkDest_begun (h.2.1 r (List.mem_append_right _ hr))

/-- What may run with more registers may run with fewer. -/
theorem ready_of_subset {regs' : List GReg} (h : Safety.Ready s e ahead regs dests) (hr : regs' ⊆ regs ++ dests) :
    Safety.Ready s e ahead regs' dests := by
  obtain ⟨hw, ht, hm, he⟩ := h
  have hsub : regs' ++ dests ⊆ regs ++ dests := List.append_subset.2 ⟨hr, List.subset_append_right ..⟩
  exact ⟨fun r h => hw r (hsub h), fun r h => ht r (hsub h), hm, he⟩

variable {len : Nat} {body : Exec PostedValue} {v : PostedValue} {u : State}

theorem runAhead_issue (h : Safety.Ready s e true regs dests) (hb : body (begun s) = .ok (v, u)) :
    runAhead (issue len e true regs dests body) s = .next (done s e len v u) :=
  runAhead_ok (issue_ok h.1 h.2.2.1 h.2.2.2 hb)

theorem runStrand_issue (h : Safety.Ready s e false regs dests) (hb : body (begun s) = .ok (v, u)) :
    runStrand (issue len e false regs dests body) s = .next (done s e len v u) :=
  runStrand_ok (issue_ok h.1 h.2.2.1 h.2.2.2 hb)

end

/-! ### The integer family -/

section
variable {s : State} {e : Bool} {rd ra rb : GReg}

theorem runAhead_binary {f : Word → Word → Word} {x : Word} (h : Safety.Ready s e true [ra, rb] [rd])
    (hx : f (reg s ra) (reg s rb) = x) : runAhead (binary e rd ra rb f) s = .next (wrote s e 8 rd x) := by
  subst hx
  refine runAhead_issue h ?_
  rw [bind_ok _ _ _ _ _ (srcG_of_ready h (by simp)), bind_ok _ _ _ _ _ (srcG_of_ready h (by simp)),
    bind_ok _ _ _ _ _ (checkDest_of_ready h (by simp))]
  rfl

theorem runAhead_unary {f : Word → Word} {x : Word} (h : Safety.Ready s e true [ra] [rd]) (hx : f (reg s ra) = x) :
    runAhead (unary e rd ra f) s = .next (wrote s e 8 rd x) := by
  subst hx
  refine runAhead_issue h ?_
  rw [bind_ok _ _ _ _ _ (srcG_of_ready h (by simp)), bind_ok _ _ _ _ _ (checkDest_of_ready h (by simp))]
  rfl

theorem exec_sel {rc : GReg} (h : Safety.Ready s e true [ra, rb, rc] [rd]) :
    exec (.sel e rd ra rb rc) s = .next (wrote s e 8 rd (if reg s rc ≠ 0 then reg s ra else reg s rb)) := by
  refine runAhead_issue h ?_
  rw [bind_ok _ _ _ _ _ (srcG_of_ready h (by simp)), bind_ok _ _ _ _ _ (srcG_of_ready h (by simp)),
    bind_ok _ _ _ _ _ (srcG_of_ready h (by simp)), bind_ok _ _ _ _ _ (checkDest_of_ready h (by simp))]
  rfl

theorem exec_movi (h : Safety.Ready s e true [] [rd]) (v : Word) : exec (.movi e rd v) s = .next (wrote s e 12 rd v) := by
  refine runAhead_issue h ?_
  rw [bind_ok _ _ _ _ _ (checkDest_of_ready h (by simp))]
  rfl

theorem exec_addpc (h : Safety.Ready s e true [] [rd]) (imm : BitVec 32) :
    exec (.addpc e rd imm) s = .next (wrote s e 8 rd (s.cur.pc + imm.signExtend 64)) := by
  rw [← begun_cur_pc]
  refine runAhead_issue h ?_
  rw [bind_ok _ _ _ _ _ (checkDest_of_ready h (by simp))]
  rfl

end

/-! #### The functions of the tables -/

theorem minS_eq (a b : Word) : minS a b = if b.toInt < a.toInt then b else a := by simp [minS, BitVec.slt]
theorem maxS_eq (a b : Word) : maxS a b = if a.toInt < b.toInt then b else a := by simp [maxS, BitVec.slt]
theorem minU_eq (a b : Word) : minU a b = if b.toNat < a.toNat then b else a := by simp [minU, BitVec.ult]
theorem maxU_eq (a b : Word) : maxU a b = if a.toNat < b.toNat then b else a := by simp [maxU, BitVec.ult]

theorem condHolds_eq_holds (cc : Cond) (a b : Word) : condHolds cc a b = Holds cc a b := by
  cases cc
  case eq | ne => simp [condHolds, Holds, bne, Bool.beq_eq_decide_eq]
  case lt | ge => simp [condHolds, Holds, BitVec.slt, ← decide_not]
  case ltN | geN => simp [condHolds, Holds, BitVec.ult, ← decide_not]

/-- The comparison as a register value (R231). -/
theorem ofFlag_condHolds (cc : Cond) (a b : Word) : ofFlag (condHolds cc a b) = if Holds cc a b then 1 else 0 := by
  rw [condHolds_eq_holds]; rfl

theorem field_eq_extractLsb' {n : Nat} (x : BitVec n) (lo len : Nat) : field x lo len = (x.extractLsb' lo len).toNat := by
  simp [field, BitVec.extractLsb'_toNat, Nat.shiftRight_eq_div_pow]

theorem extW_signed (a : Word) (w lo : Nat) : extW true w lo a = (a.extractLsb' lo w).signExtend 64 := by
  change sxNat w (field a lo w) = _
  rw [field_eq_extractLsb', sxNat, BitVec.ofNat_toNat, BitVec.setWidth_eq]; rfl

theorem extW_unsigned (a : Word) (w lo : Nat) : extW false w lo a = (a.extractLsb' lo w).setWidth 64 := by
  change BitVec.ofNat 64 (field a lo w) = _
  rw [field_eq_extractLsb', BitVec.ofNat_toNat]

/-- INS replaces the bits of its field (R229). -/
theorem getLsbD_insW (w lo : Nat) (old a : Word) {i : Nat} (hi : i < 64) :
    (insW w lo old a).getLsbD i = if lo ≤ i ∧ i < lo + w then a.getLsbD (i - lo) else old.getLsbD i :=
  getLsbD_setField old lo w a.toNat i hi

/-- BSWAP reverses the bytes (R228). -/
theorem extractLsb'_bswapW (a : Word) : ∀ i < 8, (bswapW a).extractLsb' (8 * i) 8 = a.extractLsb' (8 * (7 - i)) 8 := by
  intro i hi
  unfold bswapW
  interval_cases i <;> simp

/-- Settles O1: each instruction computes its table's function of its operands; `Machine.binary` and `Machine.unary` write it. -/
theorem integerResult : Obligations.IntegerResult := by
  unfold Obligations.IntegerResult
  refine ⟨fun e rd ra rb s h => ?_, fun e rd ra imm s h => ?_⟩
  · have plain (f : Word → Word → Word) := runAhead_binary (f := f) h rfl
    exact ⟨plain _, plain _, plain _, plain _, plain _, plain _, plain _, plain _, plain _, plain _,
      runAhead_binary h (minS_eq _ _), runAhead_binary h (maxS_eq _ _), runAhead_binary h (minU_eq _ _), runAhead_binary h (maxU_eq _ _),
      plain _, plain _, plain _, plain _, plain _, plain _, plain _, fun cc => runAhead_binary h (ofFlag_condHolds cc _ _),
      fun _ => plain _, fun rc hrc => exec_sel hrc⟩
  · have plain (f : Word → Word) := runAhead_unary (f := f) h rfl
    have dest : Safety.Ready s e true [] [rd] := ready_of_subset h (List.nil_subset _)
    have old : Safety.Ready s e true [rd, ra] [rd] := ready_of_subset h (by simp)
    exact ⟨plain _, plain _, plain _, plain _, plain _, plain _, plain _, plain _, plain _, plain _,
      runAhead_unary h (minS_eq _ _), runAhead_unary h (maxS_eq _ _), runAhead_unary h (minU_eq _ _), runAhead_unary h (maxU_eq _ _),
      plain _, plain _, plain _, plain _, plain _, ⟨_, extractLsb'_bswapW _, plain _⟩,
      fun w1 lo => ⟨runAhead_unary h (extW_signed _ _ _), runAhead_unary h (extW_unsigned _ _ _)⟩,
      fun w1 lo _ => ⟨_, fun i hi => getLsbD_insW (w1.toNat + 1) lo.toNat _ _ hi, runAhead_binary old rfl⟩,
      fun cc => runAhead_unary h (ofFlag_condHolds cc _ _), exec_movi dest, exec_addpc dest imm⟩

end Sys2Proof.Machine

/-! SUPPORT. Control transfers: the words of the delay slots, the link, and the target (R233 to R236). -/

namespace Sys2Proof.Machine

open Sys2Proof.Safety

/-! ### The address after the delay slots (R233) -/

theorem field_eq_iff {n : Nat} (x : BitVec n) (lo len k : Nat) (hk : k < 2 ^ len) :
    field x lo len = k ↔ x.extractLsb' lo len = BitVec.ofNat len k := by
  rw [field_eq_extractLsb', ← BitVec.toNat_inj, BitVec.toNat_ofNat, Nat.mod_eq_of_lt hk]

theorem skipTail_eq_pastTail (a : Word) : skipTail a = pastTail a := by
  simp only [skipTail, pastTail, field_eq_iff a 0 5 28 (by decide)]
  rfl

/-- The length of an instruction by its word 0 is that of R200, or 8 for len 11. -/
theorem getD_lengthOf (w : BitVec 32) : BitVec.ofNat 64 ((lengthOf w).getD 8) =
    if w.extractLsb' 0 2 = 3 then (8 : Word) else 8 + 4 * (w.extractLsb' 0 2).setWidth 64 := by
  simp only [lengthOf, W0.unpack, beq_iff_eq]
  generalize w.extractLsb' 0 2 = len
  revert len
  decide

theorem afterSlot_eq (s : State) (a : Word) : s.afterSlot a = pastTail (a + peekedLength s a) := by
  unfold State.afterSlot peekedLength
  rw [skipTail_eq_pastTail]
  cases s.peekWord0 a with
  | none => rfl
  | some w => exact congrArg (fun n => pastTail (a + n)) (getD_lengthOf w)

theorem linkAfterSlots_eq_link (s : State) (a : Word) : s.linkAfterSlots a 8 = link s a := by
  rw [State.linkAfterSlots, afterSlot_eq, afterSlot_eq, skipTail_eq_pastTail]; rfl

theorem linkReady_ok {s : State} {a : Word} (h : SlotsAtHand s a) : linkReady a 8 s = .ok ((), s) := by
  have hfirst : s.peekWait (pastTail (a + BitVec.ofNat 64 8)) = none := h.1
  have hsecond : s.peekWait (s.afterSlot (pastTail (a + BitVec.ofNat 64 8))) = none := by rw [afterSlot_eq]; exact h.2
  simp only [linkReady, skipTail_eq_pastTail, hfirst, hsecond]

/-! ### Transfers that may run -/

section
variable {s u : State} {len : Nat} {regs dests : List GReg} {target : Exec (Option Word)} {t : Option Word} {r rd : GReg}

theorem runAhead_transfer (h : MayJump s regs dests) (hb : target (begun s) = .ok (t, u)) :
    runAhead (issueTransfer len regs dests target) s = .next (moved len t u) := by
  obtain ⟨hw, -, hn, hr⟩ := h
  exact runAhead_ok (issueTransfer_ok hw hn hr hb)

theorem srcG_of_mayJump (h : MayJump s regs dests) (hr : r ∈ regs) : srcG r (begun s) = .ok (reg s r, begun s) :=
  srcG_begun (h.2.1 r (List.mem_append_left _ hr))

theorem relTarget_begun (s : State) (disp : BitVec 32) :
    relTarget disp (begun s) = .ok (s.cur.pc + 4 * disp.signExtend 64, begun s) := by
  rw [← begun_cur_pc]; rfl

/-- The state after the link is written. -/
def linked (s : State) (rd : GReg) : State := (begun s).modCur fun x => x.setG rd (link (s.setWait .none) s.cur.pc)

theorem writeLink_begun (h : MayJump s regs [rd]) (hl : SlotsAtHand (s.setWait .none) s.cur.pc) :
    writeLink rd (begun s) = .ok ((), linked s rd) := by
  have hl' : SlotsAtHand (begun s) (begun s).cur.pc := by rwa [begun_cur_pc]
  unfold writeLink
  rw [bind_ok _ _ _ _ _ (checkDest_begun (h.2.1 rd (by simp))), bind_ok cur _ _ _ _ rfl, bind_ok _ _ _ _ _ (linkReady_ok hl'),
    bind_ok get _ _ _ _ rfl, linkAfterSlots_eq_link, begun_cur_pc]
  rfl

end

/-- Settles O3: each transfer finds its target, and its link where it writes one, and moves to its delay slots. -/
theorem controlTransferResult : Obligations.ControlTransferResult := by
  unfold Obligations.ControlTransferResult
  intro s rd ra rb cc imm disp target _
  have relative {α : Type} (f : Word → Exec α) : (relTarget disp >>= f) (begun s) = f target (begun s) :=
    bind_ok _ _ _ _ _ (relTarget_begun s disp)
  refine ⟨fun h => ?j, fun h hl => ?jl, fun h => ?jr, fun h hl => ?jlr, fun h => ?bCc, fun h => ?biCc⟩
  case j => exact runAhead_transfer h (relative _)
  case jl => exact runAhead_transfer h ((relative _).trans (bind_ok _ _ _ _ _ (writeLink_begun h hl)))
  case jr => exact runAhead_transfer h (bind_ok _ _ _ _ _ (srcG_of_mayJump h (by simp)))
  case jlr =>
    exact runAhead_transfer h ((bind_ok _ _ _ _ _ (srcG_of_mayJump h (by simp))).trans (bind_ok _ _ _ _ _ (writeLink_begun h hl)))
  case bCc =>
    rw [← condHolds_eq_holds]
    exact runAhead_transfer h ((bind_ok _ _ _ _ _ (srcG_of_mayJump h (by simp))).trans <|
      (bind_ok _ _ _ _ _ (srcG_of_mayJump h (by simp))).trans (relative _))
  case biCc =>
    rw [← condHolds_eq_holds]
    exact runAhead_transfer h ((bind_ok _ _ _ _ _ (srcG_of_mayJump h (by simp))).trans (relative _))

end Sys2Proof.Machine

/-! SUPPORT. The trap entry (R362 to R365), the instructions that trap (R202, R208, R237), and the return from a trap (R238). -/

namespace Sys2Proof.Machine

open Sys2Proof.Safety

/-! ### What the end of a host access leaves of a core -/

theorem State.coreAt_dropTranslations (s : State) (k : Nat) (v : Invalidation) (c : Nat) : (s.dropTranslations k v).coreAt c = s.coreAt c := by
  unfold State.dropTranslations; split <;> rfl

theorem State.coreAt_beginInvalidation (s : State) (k : Nat) (v : Invalidation) (rest : List Invalidation) (c : Nat) :
    (s.beginInvalidation k v rest).coreAt c = s.coreAt c := State.coreAt_dropTranslations s k v c

theorem State.coreAt_runInvalidations (s : State) (k fuel c : Nat) : (s.runInvalidations k fuel).coreAt c = s.coreAt c := by
  induction fuel generalizing s with
  | zero => rfl
  | succ fuel ih =>
    unfold State.runInvalidations
    split
    · rfl
    · rename_i v rest _
      have begins : (if v.begun then s else s.beginInvalidation k v rest).coreAt c = s.coreAt c := by
        split
        · rfl
        · exact s.coreAt_beginInvalidation k v rest c
      revert begins
      generalize (if v.begun then s else s.beginInvalidation k v rest) = u
      intro begins
      dsimp only
      split
      · exact begins
      · exact (ih _).trans begins

/-- Uncounting a request changes of a core only its counts of requests (R35). -/
theorem State.coreAt_uncountHost (s : State) (unit core part : Nat) (h : HostAccess) (c : Nat) :
    ∃ g, (s.uncountHost false unit core part h).coreAt c = { s.coreAt c with gen := g } := by
  unfold State.uncountHost
  split
  · rw [State.settleInvalidations, State.coreAt_runInvalidations]
    by_cases hc : c = core
    · subst hc
      exact ⟨_, State.coreAt_modCore s c fun x => { x with gen := x.gen.done h.gen }⟩
    · exact ⟨_, State.coreAt_modCore_ne s core c (fun x => { x with gen := x.gen.done h.gen }) hc⟩
  · exact ⟨_, rfl⟩

theorem State.slotAt_of_coreAt_slots {s t : State} {c : Nat} (h : (t.coreAt c).slots = (s.coreAt c).slots) (k : Nat) :
    t.slotAt c k = s.slotAt c k := by rw [State.slotAt, h]; rfl

theorem State.slotAt_uncountHost (s : State) (unit core part : Nat) (h : HostAccess) (c k : Nat) :
    (s.uncountHost false unit core part h).slotAt c k = s.slotAt c k := by
  obtain ⟨g, hg⟩ := s.coreAt_uncountHost unit core part h c
  exact State.slotAt_of_coreAt_slots (by rw [hg]) k

/-- The end of a strand's host access changes of its core the counts of requests, and of the slots only that one. -/
theorem State.coreAt_dropHost (s : State) (c k : Nat) : ∃ g xs, (s.dropHost c k).coreAt c = { s.coreAt c with gen := g, slots := xs } := by
  unfold State.dropHost
  split
  · rename_i h _
    obtain ⟨g, hg⟩ := s.coreAt_uncountHost 0 c (s.partOf c) h c
    rw [State.modSlot, State.setSlot, State.coreAt_modCore, hg]
    exact ⟨_, _, rfl⟩
  · exact ⟨_, _, rfl⟩

theorem State.slotAt_dropHost_self (s : State) (c k : Nat) : (s.dropHost c k).slotAt c k = { s.slotAt c k with host := none } := by
  unfold State.dropHost
  split
  · rw [State.slotAt_modSlot, State.slotAt_uncountHost]
  · rename_i h
    exact h ▸ rfl

theorem State.slotAt_dropHost_ne (s : State) (c k j : Nat) (hj : j ≠ k) : (s.dropHost c k).slotAt c j = s.slotAt c j := by
  unfold State.dropHost
  split
  · rw [State.modSlot, State.slotAt_setSlot_slot _ _ _ _ _ hj, State.slotAt_uncountHost]
  · rfl

/-! ### The trap of a user strand (R362) -/

theorem State.coreAt_setSlot (s : State) (c k : Nat) (x : Slot) :
    (s.setSlot c k x).coreAt c = { s.coreAt c with slots := (s.coreAt c).slots.set k x } := State.coreAt_modCore ..

/-- Whether a record has entered a queue depends on the queue and what waits at its source alone. -/
theorem queued_of_queue_eq {s s' t : State} {c : Nat} {r : TrapRecord} (h : Queued s t c r)
    (hs : (s.coreAt c).trapQ = (s'.coreAt c).trapQ ∧ (s.coreAt c).held = (s'.coreAt c).held) : Queued s' t c r := by
  unfold Queued at *
  rwa [hs.1, hs.2] at h

theorem queued_trace {s t : State} {c : Nat} {r : TrapRecord} (h : Queued s t c r) (p kind slot pcore : Nat) (pc : Word)
    (pl : List Byte) : Queued s (t.trace p kind slot pcore pc pl) c r := by
  obtain ⟨n, htrace⟩ := State.coreAt_trace t p kind slot pcore pc pl c
  unfold Queued at *
  rw [htrace]
  exact h

theorem trapWord0_strand (slot : Nat) (cause : BitVec 8) (mal : Bool) (value : Word) :
    { w0 := trapWord0 0 0 slot mal cause, w1 := value } = strandTrap slot cause mal value := by
  simp [trapWord0, strandTrap]

/-- A user strand's slot after its trap is taken. -/
def Slot.userTrapped (x : Slot) (cause : BitVec 8) (value : Word) (mal : Bool) : Slot :=
  { x with
    xstat := zx64 x.status, xcause := BitVec.ofNat 64 (mal.toNat * 256 + cause.toNat), xvalue := value, xpc := x.pc
    trapped := true, wait := .none, sleep := none, host := none, prog := Progress.none, op := .idle }

theorem State.slotAt_takeUserTrap (s : State) (c k : Nat) (cause : BitVec 8) (value : Word) (mal : Bool) (hk : k < 15) :
    (s.takeUserTrap c k cause value mal).slotAt c k = (s.slotAt c k).userTrapped cause value mal := by
  rw [State.takeUserTrap, State.slotAt_trace, State.slotAt_pushTrap _ _ _ _ hk, State.slotAt_setSlot, State.slotAt_dropHost_self]
  rfl

theorem State.takeUserTrap_queued (s : State) (c k : Nat) (cause : BitVec 8) (value : Word) (mal : Bool) :
    Queued s (s.takeUserTrap c k cause value mal) c (strandTrap k cause mal value) := by
  obtain ⟨g, xs, hdrop⟩ := s.coreAt_dropHost c k
  rw [State.takeUserTrap, trapWord0_strand]
  refine queued_trace (queued_of_queue_eq (State.pushTrap_queued _ _ _) ?_) _ _ _ _ _ _
  rw [State.coreAt_setSlot, hdrop]
  exact ⟨rfl, rfl⟩

theorem takeUserTrap_userTrap (s : State) (cause : BitVec 8) (value : Word) (mal : Bool) (hk : s.slot < 15) :
    UserTrap s (s.takeUserTrap s.core s.slot cause value mal) cause value mal := by
  unfold UserTrap
  rw [State.slotAt_takeUserTrap _ _ _ _ _ _ hk]
  exact ⟨rfl, rfl, rfl, rfl, rfl, rfl, rfl, rfl, rfl, rfl, rfl, rfl, rfl, rfl, rfl, rfl, rfl, s.takeUserTrap_queued _ _ _ _ _⟩

/-! ### The trap of the supervisor slot (R365) -/

theorem Map.get_map {α : Type} (m : Map α) (d : α) (k : Nat) (g : Nat × α → Nat × α) (hkey : ∀ e, (g e).1 = e.1)
    (hd : (g (k, d)).2 = d) : Map.get (m.map g) d k = (g (k, Map.get m d k)).2 := by
  induction m with
  | nil => exact hd.symm
  | cons e rest ih =>
    obtain ⟨k', a⟩ := e
    have hcons : Map.get ((k', a) :: rest |>.map g) d k = if k' = k then (g (k', a)).2 else Map.get (rest.map g) d k := by
      rw [List.map_cons, show g (k', a) = (k', (g (k', a)).2) from Prod.ext (hkey _) rfl]; rfl
    rw [hcons, Map.get]
    split
    · rename_i h; rw [h]
    · exact ih

/-- What a double fault does to a core. -/
def Core.doubleFaulted (co : Core) : Core :=
  { co with
    halted := true
    slots := co.slots.map fun e => if e.1 < 15 ∧ e.2.occupied = true then (e.1, { e.2 with kill := some true }) else e }

theorem Core.doubleFaulted_slot (co : Core) (k : Nat) :
    co.doubleFaulted.slots.get Slot.vacant k =
      if k < 15 ∧ (co.slots.get Slot.vacant k).occupied = true then { co.slots.get Slot.vacant k with kill := some true }
      else co.slots.get Slot.vacant k := by
  unfold Core.doubleFaulted
  rw [Map.get_map _ _ _ _ (fun e => by split <;> rfl) (by simp [Slot.vacant])]
  split <;> rfl

/-- The supervisor slot after its trap is taken. -/
def Slot.supervisorTrapped (x : Slot) (entry : Word) (cause : BitVec 8) (value : Word) (mal : Bool) : Slot :=
  { x with
    xstat := zx64 x.status, xcause := BitVec.ofNat 64 (mal.toNat * 256 + cause.toNat), xvalue := value, xpc := x.pc
    wait := .none, sleep := none, host := none, prog := Progress.none, op := .idle, pc := entry, entered := true, slotPos := 0
    repHold := x.repHold || bit x.reps 63 }.setDs 0

/-- The trap saves the slot; then a second one before the TRET is a double fault. -/
theorem takeSupervisorTrap_cases (s : State) (c : Nat) (cause : BitVec 8) (value : Word) (mal : Bool) :
    ∃ u : State, (u.coreAt c).trapQ = (s.coreAt c).trapQ ∧ (u.coreAt c).halted = (s.coreAt c).halted ∧
      u.slotAt c 15 = (s.slotAt c 15).supervisorTrapped (s.coreAt c).xvec cause value mal ∧ (∀ k < 15, u.slotAt c k = s.slotAt c k) ∧
      ((s.coreAt c).inTrap = true ∧
          (∃ f type func body, s.takeSupervisorTrap c cause value mal = (u.modCore c Core.doubleFaulted).postFault f type func body) ∨
        (s.coreAt c).inTrap = false ∧ s.takeSupervisorTrap c cause value mal = u.modCore c fun co => { co with inTrap := true }) := by
  obtain ⟨g, xs, hdrop⟩ := s.coreAt_dropHost c 15
  have hxvec : ((s.dropHost c 15).coreAt c).xvec = (s.coreAt c).xvec := by rw [hdrop]
  have hin : ((s.dropHost c 15).coreAt c).inTrap = (s.coreAt c).inTrap := by rw [hdrop]
  unfold State.takeSupervisorTrap
  dsimp only
  rw [hin, hxvec, State.slotAt_dropHost_self]
  generalize htr : State.trace _ _ _ _ _ _ _ = tr
  obtain ⟨n, htrace⟩ : ∃ n, tr.coreAt c = { (s.dropHost c 15).coreAt c with traceLost := n } := htr ▸ State.coreAt_trace ..
  have hslots (k : Nat) : tr.slotAt c k = (s.dropHost c 15).slotAt c k := State.slotAt_of_coreAt_slots (by rw [htrace]) k
  refine ⟨tr.setSlot c 15 ((s.slotAt c 15).supervisorTrapped (s.coreAt c).xvec cause value mal), ?_, ?_, State.slotAt_setSlot ..,
    fun k hk => ?_, ?_⟩
  · rw [State.coreAt_setSlot, htrace, hdrop]
  · rw [State.coreAt_setSlot, htrace, hdrop]
  · rw [State.slotAt_setSlot_slot _ _ _ _ _ (by omega), hslots, State.slotAt_dropHost_ne _ _ _ _ (by omega)]
  · cases (s.coreAt c).inTrap
    · exact .inr ⟨rfl, rfl⟩
    · exact .inl ⟨rfl, _, _, _, _, rfl⟩

theorem State.slotAt_doubleFaulted (s : State) (c k : Nat) :
    (s.modCore c Core.doubleFaulted).slotAt c k =
      if k < 15 ∧ (s.slotAt c k).occupied = true then { s.slotAt c k with kill := some true } else s.slotAt c k := by
  rw [State.slotAt, State.coreAt_modCore]
  exact Core.doubleFaulted_slot _ _

theorem takeSupervisorTrap_supervisorTrap (s : State) (cause : BitVec 8) (value : Word) (mal : Bool) (hk : s.slot = 15) :
    SupervisorTrap s (s.takeSupervisorTrap s.core cause value mal) cause value mal := by
  obtain ⟨u, hqueue, hhalted, hslot, husers, h⟩ := takeSupervisorTrap_cases s s.core cause value mal
  have hcur : s.cur = s.slotAt s.core 15 := by rw [State.cur, hk]
  unfold SupervisorTrap
  rw [hcur, hk]
  rcases h with ⟨hin, f, type, func, body, heq⟩ | ⟨hin, heq⟩
  · have hsaved : (s.takeSupervisorTrap s.core cause value mal).slotAt s.core 15 = u.slotAt s.core 15 := by
      rw [heq, State.slotAt_postFault, State.slotAt_doubleFaulted, if_neg (by omega)]
    have hcore : (s.takeSupervisorTrap s.core cause value mal).coreAt s.core = (u.coreAt s.core).doubleFaulted := by
      rw [heq, State.coreAt_postFault, State.coreAt_modCore]
    rw [hsaved, hslot, hcore, hin]
    refine ⟨rfl, rfl, rfl, rfl, rfl, rfl, rfl, rfl, hqueue, fun h => Bool.noConfusion h, fun _ => ⟨rfl, fun k hk' hocc => ?_⟩⟩
    rw [heq, State.slotAt_postFault, State.slotAt_doubleFaulted, husers k hk', if_pos ⟨hk', hocc⟩]
  · have hcore : (s.takeSupervisorTrap s.core cause value mal).coreAt s.core = { u.coreAt s.core with inTrap := true } := by
      rw [heq, State.coreAt_modCore]
    have hsaved : (s.takeSupervisorTrap s.core cause value mal).slotAt s.core 15 = u.slotAt s.core 15 :=
      State.slotAt_of_coreAt_slots (by rw [hcore]) 15
    rw [hsaved, hslot, hcore, hin]
    exact ⟨rfl, rfl, rfl, rfl, rfl, rfl, rfl, rfl, hqueue, fun _ => ⟨rfl, hhalted⟩, fun h => Bool.noConfusion h⟩

/-- Every trap that the issuing strand takes is its trap entry (R362 to R365). -/
theorem takeTrap_trapped (s : State) (cause : BitVec 8) (value : Word) (mal : Bool) :
    Trapped s (s.takeTrap s.core s.slot cause value mal) cause value mal := by
  constructor <;> intro hk
  · rw [State.takeTrap, if_neg (by omega)]
    exact takeUserTrap_userTrap s cause value mal hk
  · rw [State.takeTrap, if_pos hk]
    exact takeSupervisorTrap_supervisorTrap s cause value mal hk

/-! ### The instructions that trap (R202, R208, R237) -/

section
variable {s : State} (hn : NoSlot s) (hr : s.cur.inRep = false)
include hn hr

/-- Outside REP blocks and delay slots an instruction that may stand in neither goes on. -/
theorem gated_begun {α : Type} (rest : Exec α) : (do repGate false []; noDelaySlot; rest) (s.setWait .none) = rest (begun s) := by
  rw [bind_ok _ _ _ _ _ (repGate_ok fun h => by rw [hr] at h; cases h),
    bind_ok _ _ _ _ _ (noDelaySlot_ok (by simpa [begun, NoSlot, Slot.ds] using hn))]

theorem exec_trap (imm : BitVec 32) (h : imm = 0x40 → s.cur.osc = 0) :
    exec (.trap imm) s = .next (s.takeTrap s.core s.slot Cause.syscall (imm.setWidth 64) false) := by
  refine runStrand_trap ((gated_begun hn hr _).trans ?_)
  by_cases himm : imm = linkCall
  · have hosc : (begun s).cur.osc = 0 := by simpa [begun] using h himm
    rw [if_pos himm, bind_ok releaseNow _ _ _ _ (if_pos hosc)]
    rfl
  · rw [if_neg himm]
    rfl

theorem exec_trap_waits (h : s.cur.osc ≠ 0) : exec (.trap 0x40) s = .next ((begun s).modCur fun x => { x with wait := .memory }) := by
  have hosc : (begun s).cur.osc ≠ 0 := by simpa [begun] using h
  have hwaits : (begun s).modCur (fun x => { x with wait := .memory }) = s.setWait .memory := State.setWait_setWait s .none .memory
  rw [hwaits]
  refine runStrand_wait ((gated_begun hn hr _).trans ?_)
  rw [if_pos (show (0x40 : BitVec 32) = linkCall from rfl)]
  exact bind_error _ (if_neg hosc)

theorem exec_brk (imm : BitVec 32) : exec (.brk imm) s = .next (s.takeTrap s.core s.slot Cause.brk (imm.setWidth 64) false) :=
  runStrand_trap ((gated_begun hn hr _).trans rfl)

omit hn in
theorem exec_undefinedEncoding (length : Bool) :
    exec (.undefinedEncoding length) s =
      .next (s.takeTrap s.core s.slot (if length then Cause.length else Cause.illegal) (if length then s.cur.pc else 0) false) := by
  change execUndefinedEncoding length s = _
  rw [← begun_cur_pc]
  exact runAhead_trap hr rfl

omit hn in
theorem exec_fetchFault (cause : BitVec 8) (va : Word) (mal : Bool) :
    exec (.fetchFault cause va mal) s = .next (s.takeTrap s.core s.slot cause va mal) := by
  change execFetchFault cause va mal s = _
  exact runAhead_trap hr rfl

end

/-- Settles O6: each ends in a trap of the issuing strand, which `takeTrap_trapped` describes. -/
theorem trapInstructions : Obligations.TrapInstructions := by
  unfold Obligations.TrapInstructions
  intro s imm cause va mal hn hr
  exact ⟨fun h => ⟨_, exec_trap hn hr imm h, takeTrap_trapped ..⟩, exec_trap_waits hn hr, ⟨_, exec_brk hn hr imm, takeTrap_trapped ..⟩,
    ⟨_, exec_undefinedEncoding hr false, takeTrap_trapped ..⟩, ⟨_, exec_undefinedEncoding hr true, takeTrap_trapped ..⟩,
    ⟨_, exec_fetchFault hr cause va mal, takeTrap_trapped ..⟩⟩

/-! ### The return from a trap (R238) -/

theorem getLsbD_setField_field {n m : Nat} (x : BitVec n) (y : BitVec m) (lo len : Nat) {i : Nat} (hi : i < n) :
    (setField x lo len (field y lo len)).getLsbD i = if lo ≤ i ∧ i < lo + len then y.getLsbD i else x.getLsbD i := by
  rw [getLsbD_setField _ _ _ _ _ hi, testBit_field]
  split
  · rename_i h
    rw [decide_eq_true (by omega), Bool.true_and, Nat.add_sub_cancel' h.1]
  · rfl

/-- DS, RM, FLAGS, NB and M come from XSTAT. -/
theorem Slot.getLsbD_status_restoreTrap (x : Slot) {i : Nat} (hi : i < 32) :
    x.restoreTrap.status.getLsbD i = if (2 ≤ i ∧ i ≤ 11) ∨ i = 13 ∨ i = 14 then x.xstat.getLsbD i else x.status.getLsbD i := by
  simp only [Slot.restoreTrap, getLsbD_setBit _ _ _ _ hi, getLsbD_setField_field _ _ _ _ hi, bit]
  grind

/-- What a return leaves of the slot that it resumes, as R238 lists it. -/
theorem Slot.restoreTrap_resumed (x : Slot) :
    let y := x.restoreTrap
    y.pc = x.xpc ∧ y.trapped = false ∧ y.g = x.g ∧ y.tags = x.tags ∧ y.xtgt = x.xtgt ∧ y.reps = x.reps ∧ y.repa = x.repa ∧
      y.xstat = x.xstat ∧ ∀ i < 32, y.status.getLsbD i =
        if (2 ≤ i ∧ i ≤ 11) ∨ i = 13 ∨ i = 14 then x.xstat.getLsbD i else x.status.getLsbD i :=
  ⟨rfl, rfl, rfl, rfl, rfl, rfl, rfl, rfl, fun _ hi => x.getLsbD_status_restoreTrap hi⟩

section
variable {s : State} (hn : NoSlot s) (hr : s.cur.inRep = false)
include hn hr

theorem exec_tret_user (h : s.slot < 15) : exec .tret s = .next (s.takeTrap s.core s.slot Cause.privilege 0 false) := by
  refine runStrand_trap ((gated_begun hn hr _).trans ?_)
  rw [bind_ok get _ _ _ _ rfl, if_pos (by simp; omega)]
  rfl

/-- In the supervisor slot TRET returns the slot that XSEL names, and moves on unless that is its own trap. -/
theorem exec_tret_supervisor (h : s.slot = 15) :
    let k := (s.coreAt s.core).xsel.toNat
    exec .tret s = .next (if k = 15 ∧ (s.coreAt s.core).inTrap = true then (begun s).returnFromTrap s.core k
      else ((begun s).returnFromTrap s.core k).modCur fun x => x.advance 8) := by
  obtain ⟨xs, hcore⟩ := coreAt_begun s s.core
  have hsel : ((begun s).coreAt s.core).xsel = (s.coreAt s.core).xsel := by rw [hcore]
  have hin : (begun s).suspendedByTrap s.core 15 = (s.coreAt s.core).inTrap := by rw [State.suspendedByTrap, if_pos rfl, hcore]
  clear hcore
  refine runStrand_ok ((gated_begun hn hr _).trans ?_)
  rw [bind_ok get _ _ _ _ rfl, if_neg (by simp [h])]
  dsimp only [pure, StateT.pure]
  rw [begun_core, hsel, hin, bind_ok (upd _) _ _ _ _ rfl]
  by_cases hk : (s.coreAt s.core).xsel.toNat = 15 <;> cases hin : (s.coreAt s.core).inTrap <;> simp [hk] <;> rfl

end

/-! #### What the return changes -/

section
variable (s : State) (c k : Nat)

theorem returnFromTrap_of_not_suspended (h : s.suspendedByTrap c k = false) : s.returnFromTrap c k = s := by
  rw [State.returnFromTrap, h]; rfl

theorem returnFromTrap_user (hk : k ≠ 15) (h : s.suspendedByTrap c k = true) :
    s.returnFromTrap c k = s.modSlot c k Slot.restoreTrap := by
  rw [State.returnFromTrap, if_pos h, if_neg hk]

theorem returnFromTrap_supervisor (h : s.suspendedByTrap c 15 = true) :
    s.returnFromTrap c 15 = (s.modSlot c 15 Slot.restoreTrap).modCore c fun co => { co with inTrap := false } := if_pos h

/-- The return leaves memory, and who issues, as they were. -/
theorem returnFromTrap_frame :
    (s.returnFromTrap c k).mem = s.mem ∧ (s.returnFromTrap c k).core = s.core ∧ (s.returnFromTrap c k).slot = s.slot := by
  unfold State.returnFromTrap
  split
  · split <;> exact ⟨rfl, rfl, rfl⟩
  · exact ⟨rfl, rfl, rfl⟩

theorem slotAt_returnFromTrap_ne {j : Nat} (hj : j ≠ k) : (s.returnFromTrap c k).slotAt c j = s.slotAt c j := by
  have hmod : (s.modSlot c k Slot.restoreTrap).slotAt c j = s.slotAt c j := State.slotAt_setSlot_slot _ _ _ _ _ hj
  unfold State.returnFromTrap
  split
  · split
    · rw [← hmod]
      exact State.slotAt_of_coreAt_slots (by rw [State.coreAt_modCore]) j
    · exact hmod
  · rfl

end

theorem Slot.restoreTrap_wait (x : Slot) (w : Wait) : ({ x with wait := w } : Slot).restoreTrap = x.restoreTrap := rfl

theorem suspendedByTrap_begun (s : State) (c k : Nat) : (begun s).suspendedByTrap c k = s.suspendedByTrap c k := by
  obtain ⟨xs, hcore⟩ := coreAt_begun s c
  obtain ⟨w, hslot⟩ := slotAt_begun s c k
  rw [State.suspendedByTrap, State.suspendedByTrap, hcore, hslot]

theorem slotAt_returnFromTrap_self {s : State} {c k : Nat} (h : s.suspendedByTrap c k = true) :
    ((begun s).returnFromTrap c k).slotAt c k = (s.slotAt c k).restoreTrap := by
  have h' : (begun s).suspendedByTrap c k = true := by rwa [suspendedByTrap_begun]
  have hmod : ((begun s).modSlot c k Slot.restoreTrap).slotAt c k = (s.slotAt c k).restoreTrap := by
    obtain ⟨w, hw⟩ := slotAt_begun s c k
    rw [State.slotAt_modSlot, hw, Slot.restoreTrap_wait]
  by_cases hk : k = 15
  · subst hk
    rw [returnFromTrap_supervisor _ _ h', ← hmod]
    exact State.slotAt_of_coreAt_slots (by rw [State.coreAt_modCore]) 15
  · rw [returnFromTrap_user _ _ _ hk h', hmod]

/-- Outside delay slots TRET moves 8 bytes on and changes no status bit. -/
theorem advance_begun {s u : State} (hn : NoSlot s) (hu : u.cur = (begun s).cur) :
    (u.modCur fun x => x.advance 8).cur.pc = s.cur.pc + 8 ∧ (u.modCur fun x => x.advance 8).cur.status = s.cur.status := by
  have hds : (begun s).cur.ds = 0 := by simpa [begun, Slot.ds] using hn.2
  have hstatus : (begun s).cur.status = s.cur.status := by simp [begun]
  rw [State.cur_modCur, hu, Slot.advance_of_ds_eq_zero hds, begun_cur_pc]
  exact ⟨rfl, hstatus⟩

/-- Settles O7: a user slot traps; the supervisor slot resumes the slot that XSEL names, when a trap has suspended it. -/
theorem trapReturn : Obligations.TrapReturn := by
  unfold Obligations.TrapReturn
  intro s hn hr k x
  refine ⟨exec_tret_user hn hr, fun hslot => ⟨_, exec_tret_supervisor hn hr hslot, ?_⟩⟩
  have ⟨hmem, hcore, hissuer⟩ := returnFromTrap_frame (begun s) s.core k
  have hissuer15 : ((begun s).returnFromTrap s.core k).slot = 15 := hissuer.trans hslot
  have hcur (hk : k ≠ 15) : ((begun s).returnFromTrap s.core k).cur = (begun s).cur := by
    rw [State.cur, hcore, hissuer, begun_core, begun_slot, slotAt_returnFromTrap_ne _ _ _ (by omega)]
    rfl
  refine ⟨?mem, ?user, ?own, ?other, ?none⟩
  case mem => split <;> exact hmem
  case user =>
    intro hk hocc htrapped
    have hsus : s.suspendedByTrap s.core k = true := by simp [State.suspendedByTrap, hk, hocc, htrapped, x]
    rw [if_neg fun h => hk h.1, State.slotAt_modCur_ne _ _ _ _ fun h => hk (h.2.trans hissuer15), slotAt_returnFromTrap_self hsus]
    exact ⟨x.restoreTrap_resumed, (advance_begun hn (hcur hk)).1⟩
  case own =>
    intro hk hin
    have hsus : s.suspendedByTrap s.core k = true := (if_pos hk).trans hin
    rw [if_pos ⟨hk, hin⟩, slotAt_returnFromTrap_self hsus]
    refine ⟨x.restoreTrap_resumed, ?_⟩
    rw [show (s.coreAt s.core).xsel.toNat = 15 from hk, returnFromTrap_supervisor _ _ (by rwa [suspendedByTrap_begun, ← hk]),
      State.coreAt_modCore]
  case other =>
    intro hk hnot
    have hsus : (begun s).suspendedByTrap s.core k = false := by
      rw [suspendedByTrap_begun, State.suspendedByTrap, if_neg hk]
      simpa [x] using hnot
    rw [if_neg fun h => hk h.1, returnFromTrap_of_not_suspended _ _ _ hsus,
      State.slotAt_modCur_ne (begun s) _ _ _ fun h => hk (h.2.trans hslot), slotAt_begun_ne fun h => hk (h.2.trans hslot)]
    exact ⟨rfl, (advance_begun hn rfl).1⟩
  case none =>
    intro hk hin
    have hsus : (begun s).suspendedByTrap s.core k = false := by
      rw [suspendedByTrap_begun, State.suspendedByTrap, if_pos hk, hin]
    rw [if_neg fun h => Bool.noConfusion (hin.symm.trans h.2), returnFromTrap_of_not_suspended _ _ _ hsus]
    exact advance_begun hn rfl

end Sys2Proof.Machine

/-! SUPPORT. State registers: the checks of R239, SRD of each readable register, and SWR and REG_WRITE of each register without behaviour of
its own (R239 to R241). -/

namespace Sys2Proof.Machine

open Sys2Proof.Safety

/-! ### An instruction that may run and stops -/

theorem elected_begun {s : State} (h : Elected s) : Elected (begun s) := by
  obtain ⟨hg, hn, hq, hl, hf⟩ := h
  exact ⟨by simpa [begun, Slot.isGang] using hg, by simpa [NoSlot, begun, Slot.ds] using hn, by simpa [begun] using hq,
    by simpa [begun, Slot.live] using hl, issue_ok.electFull_begun s hf⟩

theorem electStep_error {s : State} {body : Exec PostedValue} {x : Stop} (h : Elected s) (hb : body s = .error x) :
    electStep body s = .error x := by
  obtain ⟨hg, hn, hq, hl, hf⟩ := h
  unfold electStep
  rw [bind_ok cur _ _ _ _ rfl]
  simp only [hg, Bool.not_true, Bool.false_eq_true, if_false]
  rw [bind_ok _ _ _ _ _ (noDelaySlot_ok hn)]
  simp only [hq]
  rw [bind_ok get _ _ _ _ rfl, if_neg (by simp [hl]), bind_ok get _ _ _ _ rfl, if_neg (by simp [hf])]
  exact bind_error _ hb

section
variable {s : State} {e ahead : Bool} {len : Nat} {regs dests : List GReg} {body : Exec PostedValue}

theorem issue_error {x : Stop} (h : Safety.Ready s e ahead regs dests) (hb : body (begun s) = .error x) :
    issue len e ahead regs dests body (s.setWait .none) = .error x := by
  obtain ⟨hw, -, hm, he⟩ := h
  unfold issue
  rw [bind_ok _ _ _ _ _ (scoreboard_ok (by simpa [Written] using hw)), bind_ok _ _ _ _ _ (repGate_ok hm)]
  cases e with
  | false => exact bind_error _ (bind_error _ hb)
  | true => exact bind_error _ (electStep_error (elected_begun (he rfl)) hb)

theorem runStrand_issue_trap {c : BitVec 8} {v : Word} {mal : Bool} (h : Safety.Ready s e ahead regs dests)
    (hb : body (begun s) = .error (.trap c v mal)) :
    runStrand (issue len e ahead regs dests body) s = .next (s.takeTrap s.core s.slot c v mal) :=
  runStrand_trap (issue_error h hb)

end

/-! ### Which registers may be read and written (R239, R240) -/

theorem regAssigned_iff {n : Nat} : regAssigned n = true ↔ Assigned n := by
  simp [regAssigned, Assigned, or_assoc]

theorem regSupervisorOnly_iff {n : Nat} : regSupervisorOnly n = true ↔ n = 0x004 ∨ (0x800 ≤ n ∧ n ≠ 0x856) := by
  simp [regSupervisorOnly]

theorem regUserWrite_iff {n : Nat} : regUserWrite n = true ↔ n ∈ [0x00A, 0x00B, 0x010, 0x011, 0x012, 0x013, 0x014] := List.contains_iff_mem ..

theorem regReadOnly_iff {n : Nat} : regReadOnly n = true ↔
    n ∈ [0x005, 0x006, 0x007, 0x008, 0x015, 0x842, 0x848, 0x870, 0x880, 0x881, 0x888, 0x889, 0x88D, 0x88E] := List.contains_iff_mem ..

/-- The issuing slot may write a register. -/
def MayWrite (s : State) (n : Nat) : Prop := if s.slot = 15 then regReadOnly n = false else regUserWrite n = true

theorem not_mayWrite_iff {s : State} {n : Nat} : ¬ MayWrite s n ↔ (if s.slot = 15 then regReadOnly n else ! regUserWrite n) = true := by
  unfold MayWrite
  split <;> simp

section
variable {s : State} {write : Bool} {num : BitVec 12}

theorem regCheck_ok (ha : regAssigned num.toNat = true) (hs : regSupervisorOnly num.toNat = true → s.slot = 15)
    (hw : write = true → MayWrite s num.toNat) : regCheck write num s = .ok ((), s) := by
  unfold regCheck
  rw [bind_ok get _ _ _ _ rfl]
  simp only [ha, Bool.not_true, Bool.false_eq_true, if_false]
  rw [if_neg fun h => h.2 (hs h.1), if_neg fun h => not_mayWrite_iff.2 h.2 (hw h.1)]
  rfl

theorem regCheck_unassigned (ha : regAssigned num.toNat = false) : regCheck write num s = .error (.trap Cause.illegal 0 false) := by
  unfold regCheck
  rw [bind_ok get _ _ _ _ rfl]
  simp only [ha, Bool.not_false, if_true]
  exact bind_error _ rfl

theorem regCheck_refused (ha : regAssigned num.toNat = true)
    (h : (regSupervisorOnly num.toNat = true ∧ s.slot ≠ 15) ∨ (write = true ∧ ¬ MayWrite s num.toNat)) :
    regCheck write num s = .error (.trap Cause.privilege (zx64 num) false) := by
  unfold regCheck
  rw [bind_ok get _ _ _ _ rfl]
  simp only [ha, Bool.not_true, Bool.false_eq_true, if_false]
  by_cases hs : regSupervisorOnly num.toNat = true ∧ s.slot ≠ 15
  · rw [if_pos hs]
    exact bind_error _ rfl
  · obtain ⟨hw, hno⟩ := h.resolve_left hs
    rw [if_neg hs, if_pos ⟨hw, not_mayWrite_iff.1 hno⟩]
    rfl

end

/-! ### Registers of the slot that XSEL names (R241) -/

theorem selects_iff {s : State} {k : Nat} : Selects s k ↔ s.selSlot = some k := by
  unfold Selects State.selSlot
  by_cases h : s.slot = 15
  · simp only [h, ne_eq, not_true_eq_false, false_and, false_or, true_and, if_false]
    split_ifs with hk hheld
    · exact ⟨fun ⟨hsel, _⟩ => by rw [hsel, hk], fun heq => by cases heq; exact ⟨hk.symm, .inl rfl⟩⟩
    · exact ⟨fun ⟨hsel, _⟩ => by rw [hsel], fun heq => by cases heq; exact ⟨rfl, .inr hheld⟩⟩
    · refine ⟨fun ⟨hsel, hor⟩ => ?_, fun heq => by cases heq⟩
      subst hsel
      exact absurd (hor.resolve_left hk) hheld
  · simp only [h, ne_eq, not_false_eq_true, true_and, false_and, or_false, if_true, Option.some.injEq]
    exact eq_comm

theorem selSlot_begun (s : State) : (begun s).selSlot = s.selSlot := by
  obtain ⟨xs, hcore⟩ := coreAt_begun s s.core
  have hsel : ((begun s).coreAt s.core).xsel = (s.coreAt s.core).xsel := by rw [hcore]
  have hheld (k : Nat) : ((begun s).slotAt s.core k).occupied = (s.slotAt s.core k).occupied ∧
      ((begun s).slotAt s.core k).trapped = (s.slotAt s.core k).trapped ∧ ((begun s).slotAt s.core k).stopped = (s.slotAt s.core k).stopped := by
    obtain ⟨w, hslot⟩ := slotAt_begun s s.core k
    rw [hslot]
    exact ⟨rfl, rfl, rfl⟩
  simp only [State.selSlot, begun_core, begun_slot, hsel, hheld]

theorem Slot.selReg_wait (x : Slot) (w : Wait) (n : Nat) : ({ x with wait := w } : Slot).selReg n = x.selReg n := by
  simp only [Slot.selReg]

theorem Slot.selReg_g (x : Slot) (n : Fin 16) : x.selReg (BitVec.ofNat 12 (0x860 + n.val)).toNat = x.g[n] := by
  fin_cases n <;> rfl

/-! ### Reading (R239) -/

theorem regAssigned_of_regSel {n : Nat} (h : regSel n = true) : regAssigned n = true := by
  simp only [regSel, Bool.or_eq_true, decide_eq_true_eq] at h
  rw [regAssigned_iff, Assigned]
  omega

theorem readState_sel {num : BitVec 12} (hsel : regSel num.toNat = true) (s : State) :
    readState num s = .ok (match s.selSlot with
      | some k => (s.slotAt s.core k).selReg num.toNat
      | none => 0, s) := by
  have hcycle : num.toNat ≠ 0x006 := fun h => by rw [h] at hsel; exact absurd hsel (by decide)
  unfold readState
  rw [if_neg hcycle, bind_ok get _ _ _ _ rfl, if_pos hsel]
  cases s.selSlot <;> rfl

theorem selfId_begun (s : State) : (begun s).selfId = s.selfId := by
  obtain ⟨xs, hcore⟩ := coreAt_begun s s.core
  simp only [State.selfId, State.vcnOf, begun_core, hcore]
  rfl

theorem launchReg_begun (s : State) : (begun s).launchReg = s.launchReg := by
  have hcur : (begun s).cur = { s.cur with wait := .none } := State.cur_setWait s .none
  simp only [State.launchReg, hcur]
  rfl

theorem callFn_begun (s : State) (c : Nat) : (begun s).callFn c = s.callFn c := by
  obtain ⟨xs, hcore⟩ := coreAt_begun s 0
  simp only [State.callFn, hcore]
  rfl

/-- What the other registers hold does not depend on whether the strand waits. -/
theorem plainReg_begun (s : State) (n : Nat) : (begun s).plainReg n = s.plainReg n := by
  obtain ⟨xs, hcore⟩ := coreAt_begun s s.core
  have hcur : (begun s).cur = { s.cur with wait := .none } := State.cur_setWait s .none
  simp only [State.plainReg, begun_core, hcore, hcur, selfId_begun, launchReg_begun, callFn_begun]
  rfl

section
variable {s : State} {e : Bool} {rd : GReg} {num : BitVec 12} {v : Word} (h : Safety.Ready s e false [] [rd])
include h

theorem reads_of_readState (ha : regAssigned num.toNat = true) (hs : regSupervisorOnly num.toNat = true → s.slot = 15)
    (hv : readState num (begun s) = .ok (v, begun s)) : Reads s e rd num v := by
  refine runStrand_issue h ?_
  rw [bind_ok _ _ _ _ _ (regCheck_ok (s := begun s) ha hs fun hw => Bool.noConfusion hw), bind_ok _ _ _ _ _ (checkDest_of_ready h (by simp)),
    bind_ok _ _ _ _ _ hv]
  rfl

/-- A register of the selected slot. -/
theorem reads_sel {k : Nat} (hk : Selects s k) (hsel : regSel num.toNat = true) (hs : regSupervisorOnly num.toNat = true → s.slot = 15) :
    Reads s e rd num ((s.slotAt s.core k).selReg num.toNat) := by
  refine reads_of_readState h (regAssigned_of_regSel hsel) hs ?_
  obtain ⟨w, hslot⟩ := slotAt_begun s s.core k
  rw [readState_sel hsel, selSlot_begun, selects_iff.1 hk]
  change Except.ok (((begun s).slotAt s.core k).selReg num.toNat, begun s) = _
  rw [hslot, Slot.selReg_wait]

/-- A register of a slot that XSEL does not reach reads as zero. -/
theorem reads_sel_none (hk : ∀ k, ¬ Selects s k) (hsel : regSel num.toNat = true) : Reads s e rd num 0 := by
  have hslot : s.slot = 15 := by
    by_contra hne
    exact hk s.slot (.inl ⟨hne, rfl⟩)
  have hnone : s.selSlot = none := Option.eq_none_iff_forall_ne_some.2 fun k hsome => hk k (selects_iff.2 hsome)
  refine reads_of_readState h (regAssigned_of_regSel hsel) (fun _ => hslot) ?_
  rw [readState_sel hsel, selSlot_begun, hnone]

/-- Any other register but CYCLE. -/
theorem reads_plain (ha : regAssigned num.toNat = true) (hs : regSupervisorOnly num.toNat = true → s.slot = 15)
    (hsel : regSel num.toNat = false) (hcycle : num.toNat ≠ 0x006) : Reads s e rd num (s.plainReg num.toNat) := by
  refine reads_of_readState h ha hs ?_
  unfold readState
  rw [if_neg hcycle, bind_ok get _ _ _ _ rfl, if_neg (by rw [hsel]; exact Bool.noConfusion), plainReg_begun]
  rfl

/-- CYCLE outside replay (R239, R393). -/
theorem reads_cycle (hr : (s.partAt s.myPart).replay = .off) : Reads s e rd 0x006 (s.coreAt s.core).cycle := by
  refine reads_of_readState h rfl (fun hs => absurd hs (by decide)) ?_
  have hcycle : ((begun s).coreAt s.core).cycle = (s.coreAt s.core).cycle := by
    obtain ⟨xs, hcore⟩ := coreAt_begun s s.core
    rw [hcore]
  have hoff : ((begun s).partAt s.myPart).replay = .off := hr
  have hfree : (begun s).forced s.myPart .cycle s.core = .free := if_neg (by rw [hoff]; decide)
  replace hfree : (begun s).forced (begun s).myPart .cycle (begun s).core = .free := hfree
  have hlog (v : List Nat) : (begun s).logChoice s.myPart .cycle s.core v = begun s := if_neg (by rw [hoff]; decide)
  change readCycle (begun s) = _
  unfold readCycle
  rw [bind_ok get _ _ _ _ rfl]
  simp only [hfree]
  rw [bind_ok (upd _) _ _ _ _ rfl, ← hcycle]
  exact congrArg (fun t => Except.ok (_, t)) (hlog _)

end

theorem testBit_readable : ∀ i < 64, (0xFF0 : Word).getLsbD i = decide (4 ≤ i ∧ i < 12) := by decide

/-- FSTAT shows RM and FLAGS where the status word has them (R213). -/
theorem fstat_eq (x : Slot) : x.fstat = x.status.setWidth 64 &&& 0xFF0 := by
  apply BitVec.eq_of_getLsbD_eq
  intro i hi
  rw [Slot.fstat, BitVec.getLsbD_ofNat, decide_eq_true hi, Bool.true_and, show (16 : Nat) = 2 ^ 4 from rfl, Nat.testBit_mul_two_pow, testBit_field,
    BitVec.getLsbD_and, testBit_readable i hi, BitVec.getLsbD_setWidth, decide_eq_true hi, Bool.true_and]
  by_cases h : 4 ≤ i
  · simp [h, Nat.add_sub_cancel' h, Bool.and_comm, show i - 4 < 8 ↔ i < 12 by omega]
  · simp [h]

/-- TQ0 and TQ1 show the record at the head of the queue (R364). -/
theorem plainReg_trapQ_cons {s : State} {q : TrapRecord} {rest : List TrapRecord} (h : (s.coreAt s.core).trapQ = q :: rest) :
    s.plainReg 0x880 = q.w0 ∧ s.plainReg 0x881 = q.w1 := by
  simp only [State.plainReg, h, and_self]

theorem plainReg_trapQ_nil {s : State} (h : (s.coreAt s.core).trapQ = []) : s.plainReg 0x880 = 0 := by
  simp only [State.plainReg, h]

theorem callHead_cons {s : State} {f k : Nat} {rest : List Nat} (h : s.callQ f = k :: rest) : s.callHead f = BitVec.ofNat 64 (2 ^ 63 + k) := by
  rw [State.callHead, h]

theorem callHead_nil {s : State} {f : Nat} (h : s.callQ f = []) : s.callHead f = 0 := by
  rw [State.callHead, h]

theorem launchReg_of_member {s : State} {l : Launch} (hm : s.cur.member = true) (hl : (s.partAt s.myPart).liveLaunch s.cur.lnum = some l) :
    s.launchReg = BitVec.ofNat 64 (l.tolerant.toNat * 2 ^ 25 + 2 ^ 24 + l.tag.toNat * 2 ^ 16 + l.lnum.toNat) := by
  rw [State.launchReg, if_pos hm, hl]

theorem launchReg_of_not_member {s : State} (hm : s.cur.member = false) : s.launchReg = 0 := by
  rw [State.launchReg, if_neg (by rw [hm]; exact Bool.noConfusion)]

/-! ### What R239 and R240 refuse -/

section
variable {s : State} {e : Bool} {r : GReg} {num : BitVec 12}

theorem srd_unassigned (h : Safety.Ready s e false [] [r]) (ha : ¬ Assigned num.toNat) : TrapsWith s (.srd e r num) Cause.illegal 0 :=
  runStrand_issue_trap h (bind_error _ (regCheck_unassigned (by rwa [← regAssigned_iff, Bool.not_eq_true] at ha)))

theorem srd_refused (h : Safety.Ready s e false [] [r]) (ha : Assigned num.toNat)
    (hs : regSupervisorOnly num.toNat = true ∧ s.slot ≠ 15) : TrapsWith s (.srd e r num) Cause.privilege (num.setWidth 64) :=
  runStrand_issue_trap h (bind_error _ (regCheck_refused (regAssigned_iff.2 ha) (.inl hs)))

theorem swr_unassigned (h : Safety.Ready s e false [r] []) (ha : ¬ Assigned num.toNat) : TrapsWith s (.swr e r num) Cause.illegal 0 :=
  runStrand_issue_trap h (bind_error _ (regCheck_unassigned (by rwa [← regAssigned_iff, Bool.not_eq_true] at ha)))

theorem swr_refused (h : Safety.Ready s e false [r] []) (ha : Assigned num.toNat) (hw : ¬ MayWrite s num.toNat) :
    TrapsWith s (.swr e r num) Cause.privilege (num.setWidth 64) :=
  runStrand_issue_trap h (bind_error _ (regCheck_refused (s := begun s) (regAssigned_iff.2 ha) (.inr ⟨rfl, hw⟩)))

theorem assigned_of_regReadOnly {n : Nat} (h : regReadOnly n = true) : Assigned n := by
  rw [regReadOnly_iff] at h
  simp only [List.mem_cons, List.not_mem_nil, or_false] at h
  unfold Assigned
  omega

end

/-- Settles O9: SRD reads what `State.plainReg` and `Slot.selReg` hold, and `regCheck` refuses the rest. -/
theorem registerReadAndRefusal : Obligations.RegisterReadAndRefusal := by
  unfold Obligations.RegisterReadAndRefusal
  refine ⟨?reads, fun s e r num => ⟨fun h => ?srd, fun h => ?swr⟩⟩
  case srd =>
    exact ⟨srd_unassigned h, fun ha hslot hnum => srd_refused h ha ⟨regSupervisorOnly_iff.2 hnum, hslot⟩⟩
  case swr =>
    refine ⟨swr_unassigned h, fun ha hslot hnum => swr_refused h ha ?_, fun hslot hnum => ?_⟩
    · rw [MayWrite, if_neg hslot, regUserWrite_iff]
      exact hnum
    · have hro := regReadOnly_iff.2 hnum
      exact swr_refused h (assigned_of_regReadOnly hro) (by rw [MayWrite, if_pos hslot, hro]; exact Bool.noConfusion)
  case reads =>
    intro s e rd h x c p r
    have user {num : BitVec 12} (ha : regAssigned num.toNat = true) (hs : regSupervisorOnly num.toNat = false)
        (hsel : regSel num.toNat = false) (hcycle : num.toNat ≠ 0x006) : r num (s.plainReg num.toNat) :=
      reads_plain h ha (fun hs' => Bool.noConfusion (hs.symm.trans hs')) hsel hcycle
    refine ⟨?sel, fun hk => ?unselected, user rfl rfl rfl (by decide), reads_cycle h, user rfl rfl rfl (by decide), fun hm => ?noLaunch,
      fun l hm hl => ?launch, user rfl rfl rfl (by decide), user rfl rfl rfl (by decide), ?fstat, user rfl rfl rfl (by decide),
      user rfl rfl rfl (by decide), user rfl rfl rfl (by decide), user rfl rfl rfl (by decide), user rfl rfl rfl (by decide),
      user rfl rfl rfl (by decide), user rfl rfl rfl (by decide), fun hslot => ?supervisor⟩
    case sel =>
      intro k hk y
      have own {num : BitVec 12} (hsel : regSel num.toNat = true) (hs : regSupervisorOnly num.toNat = false) : r num (y.selReg num.toNat) :=
        reads_sel h hk hsel fun hs' => Bool.noConfusion (hs.symm.trans hs')
      refine ⟨own rfl rfl, own rfl rfl, own rfl rfl, own rfl rfl, own rfl rfl, own rfl rfl, own rfl rfl, fun hslot => ⟨?_, fun n => ?_⟩⟩
      · exact reads_sel h hk rfl fun _ => hslot
      · rw [← y.selReg_g n]
        refine reads_sel h hk ?_ fun _ => hslot
        fin_cases n <;> rfl
    case unselected =>
      have zero {num : BitVec 12} (hsel : regSel num.toNat = true) : r num 0 := reads_sel_none h hk hsel
      exact ⟨zero rfl, zero rfl, zero rfl, zero rfl, zero rfl, zero rfl, zero rfl, zero rfl, fun n => zero (by fin_cases n <;> rfl)⟩
    case noLaunch =>
      rw [← launchReg_of_not_member hm]
      exact user rfl rfl rfl (by decide)
    case launch =>
      rw [← launchReg_of_member hm hl]
      exact user rfl rfl rfl (by decide)
    case fstat =>
      rw [← fstat_eq]
      exact user rfl rfl rfl (by decide)
    case supervisor =>
      have super {num : BitVec 12} (ha : regAssigned num.toNat = true) (hsel : regSel num.toNat = false) (hcycle : num.toNat ≠ 0x006) :
          r num (s.plainReg num.toNat) := reads_plain h ha (fun _ => hslot) hsel hcycle
      have zero {num : BitVec 12} (ha : regAssigned num.toNat = true) (hsel : regSel num.toNat = false) (hcycle : num.toNat ≠ 0x006)
          (hv : s.plainReg num.toNat = 0) : r num 0 := hv ▸ super ha hsel hcycle
      refine ⟨super rfl rfl (by decide), super rfl rfl (by decide), super rfl rfl (by decide), super rfl rfl (by decide), super rfl rfl (by decide),
        super rfl rfl (by decide), super rfl rfl (by decide), super rfl rfl (by decide), super rfl rfl (by decide), super rfl rfl (by decide),
        super rfl rfl (by decide), super rfl rfl (by decide), super rfl rfl (by decide), super rfl rfl (by decide), super rfl rfl (by decide),
        super rfl rfl (by decide), super rfl rfl (by decide), fun q rest hq => ?record, fun hq => ?noRecord, ?calls, ?writeOnly⟩
      case record =>
        obtain ⟨hw0, hw1⟩ := plainReg_trapQ_cons hq
        rw [← hw0, ← hw1]
        exact ⟨super rfl rfl (by decide), super rfl rfl (by decide)⟩
      case noRecord => exact zero rfl rfl (by decide) (plainReg_trapQ_nil hq)
      case calls =>
        have head : r 0x888 (s.callHead (s.callFn s.core)) := super rfl rfl (by decide)
        exact ⟨fun hq => callHead_nil hq ▸ head, fun k rest hq => callHead_cons hq ▸ head⟩
      case writeOnly =>
        have xjnt : r 0x871 0 := by
          by_cases hk : ∃ k, Selects s k
          · exact reads_sel h hk.choose_spec rfl fun _ => hslot
          · exact reads_sel_none h (not_exists.1 hk) rfl
        exact ⟨zero rfl rfl (by decide) rfl, zero rfl rfl (by decide) rfl, zero rfl rfl (by decide) rfl, xjnt, zero rfl rfl (by decide) rfl,
          zero rfl rfl (by decide) rfl, zero rfl rfl (by decide) rfl, zero rfl rfl (by decide) rfl, zero rfl rfl (by decide) rfl,
          zero rfl rfl (by decide) rfl⟩

end Sys2Proof.Machine

/-! SUPPORT. SWR and REG_WRITE of each register without behaviour of its own, in the slots that may write it (R163, R213, R220, R239,
R241). -/

namespace Sys2Proof.Machine

open Sys2Proof.Safety

/-! ### The write of a checked value -/

theorem writable_of_regUserWrite {n : Nat} (h : regUserWrite n = true) :
    regAssigned n = true ∧ regSupervisorOnly n = false ∧ regReadOnly n = false ∧ regSel n = false := by
  rw [regUserWrite_iff] at h
  simp only [List.mem_cons, List.not_mem_nil, or_false] at h
  rcases h with rfl | rfl | rfl | rfl | rfl | rfl | rfl <;> decide

section
variable {s : State} {num : BitVec 12} {v : Word} (hv : regRefuses num.toNat v = false)
include hv

theorem writePlain_ok (hsel : regSel num.toNat = false) : writePlain num v s = .ok ((), s.setPlainReg num.toNat v) := by
  unfold writePlain
  rw [hv, bind_ok (refuseIf false) _ s s () rfl, if_neg (by rw [hsel]; exact Bool.noConfusion)]
  rfl

theorem writePlain_sel {k : Nat} (hk : Selects s k) (hsel : regSel num.toNat = true) :
    writePlain num v (begun s) = .ok ((), (begun s).modSlot s.core k fun x => x.setSelReg num.toNat v) := by
  unfold writePlain
  rw [hv, bind_ok (refuseIf false) _ (begun s) (begun s) () rfl, if_pos hsel, bind_ok get _ _ _ _ rfl, selSlot_begun, selects_iff.1 hk]
  rfl

end

section
variable {s : State} {e : Bool} {ra : GReg} {num : BitVec 12} {f : State → State} (h : Safety.Ready s e false [ra] [])
include h

/-- SWR and the row of the same write both have the effect of `writeState`. -/
theorem writes_of_writeState (ha : regAssigned num.toNat = true) (hs : regSupervisorOnly num.toNat = true → s.slot = 15)
    (hw : MayWrite s num.toNat) (hf : writeState num (reg s ra) (begun s) = .ok ((), f (begun s))) :
    Writes s e ra num (.regWrite num (reg s ra)) f := by
  have hcheck : regCheck true num (begun s) = .ok ((), begun s) := regCheck_ok (s := begun s) ha hs fun _ => hw
  constructor
  · refine runStrand_issue h ?_
    rw [bind_ok _ _ _ _ _ hcheck, bind_ok _ _ _ _ _ (srcG_of_ready h (by simp)), bind_ok _ _ _ _ _ hf]
    rfl
  · obtain ⟨-, -, hm, -⟩ := h
    have h' : Safety.Ready s false false [] [] :=
      ⟨fun _ hr => absurd hr List.not_mem_nil, fun _ hr => absurd hr List.not_mem_nil, hm, fun he => Bool.noConfusion he⟩
    change runStrand (issuePlain 8 [] [] (do regCheck true num; writeState num (reg s ra))) s = _
    exact runStrand_plain h' (by rw [bind_ok _ _ _ _ _ hcheck, hf])

/-- A register that user slots may write. -/
theorem writes_user (hnum : regUserWrite num.toNat = true) (hstate : writeState num (reg s ra) = writePlain num (reg s ra))
    (hv : regRefuses num.toNat (reg s ra) = false) (hf : (begun s).setPlainReg num.toNat (reg s ra) = f (begun s)) :
    Writes s e ra num (.regWrite num (reg s ra)) f := by
  obtain ⟨ha, hs, hro, hsel⟩ := writable_of_regUserWrite hnum
  refine writes_of_writeState h ha (fun hs' => Bool.noConfusion (hs.symm.trans hs')) ?_ ?_
  · unfold MayWrite
    split
    · exact hro
    · exact hnum
  · rw [hstate, writePlain_ok hv hsel, hf]

variable (hslot : s.slot = 15)
include hslot

theorem writes_supervisor (ha : regAssigned num.toNat = true) (hro : regReadOnly num.toNat = false) (hsel : regSel num.toNat = false)
    (hstate : writeState num (reg s ra) = writePlain num (reg s ra)) (hv : regRefuses num.toNat (reg s ra) = false)
    (hf : (begun s).setPlainReg num.toNat (reg s ra) = f (begun s)) : Writes s e ra num (.regWrite num (reg s ra)) f :=
  writes_of_writeState h ha (fun _ => hslot) ((if_pos hslot).mpr hro) (by rw [hstate, writePlain_ok hv hsel, hf])

/-- A register of the slot that XSEL names. -/
theorem writes_sel {k : Nat} (hk : Selects s k) (hro : regReadOnly num.toNat = false) (hsel : regSel num.toNat = true)
    (hstate : writeState num (reg s ra) = writePlain num (reg s ra)) (hv : regRefuses num.toNat (reg s ra) = false)
    {g : Slot → Slot} (hg : (fun x => x.setSelReg num.toNat (reg s ra)) = g) :
    Writes s e ra num (.regWrite num (reg s ra)) fun t => t.modSlot s.core k g := by
  subst hg
  exact writes_of_writeState h (regAssigned_of_regSel hsel) (fun _ => hslot) ((if_pos hslot).mpr hro)
    (by rw [hstate, writePlain_sel hv hk hsel])

end

/-! ### The layouts (Tables 11.3 to 11.11) -/

theorem field_eq_zero_of_bits {n : Nat} {x : BitVec n} {lo len : Nat} (h : ∀ i < len, x.getLsbD (lo + i) = false) : field x lo len = 0 := by
  apply Nat.eq_of_testBit_eq
  intro i
  rw [testBit_field, Nat.zero_testBit]
  by_cases hi : i < len
  · rw [h i hi, Bool.and_false]
  · rw [decide_eq_false hi, Bool.false_and]

/-- The bits of FSTAT that may be written. -/
theorem fstat_not_refused {v : Word} (hv : v &&& 0xFF0 = v) (hrm : v.toNat / 2 ^ 9 ≤ 4) : fstatRefused v = false := by
  have hbits (i : Nat) (hi : i < 64) (h : ¬ (4 ≤ i ∧ i < 12)) : v.getLsbD i = false := by
    rw [← hv, BitVec.getLsbD_and, testBit_readable i hi, decide_eq_false h, Bool.and_false]
  have hlow : field v 0 4 = 0 := field_eq_zero_of_bits fun i hi => hbits _ (by omega) (by omega)
  have hhigh : field v 12 52 = 0 := field_eq_zero_of_bits fun i hi => hbits _ (by omega) (by omega)
  have hmode : field v 9 3 ≤ 4 := (Nat.mod_le _ _).trans hrm
  simp [fstatRefused, hlow, hhigh, hmode]

theorem testBit_sliceReserved : ∀ i < 31, (0x7FFFFFFF00000000 : Word).getLsbD (32 + i) = true := by decide

theorem slice_not_refused {v : Word} (hv : v &&& 0x7FFFFFFF00000000 = 0) : field v 32 31 = 0 :=
  field_eq_zero_of_bits fun i hi => by
    have h := congrArg (·.getLsbD (32 + i)) hv
    simp only [BitVec.getLsbD_and, testBit_sliceReserved i hi, Bool.and_true] at h
    exact h.trans BitVec.getLsbD_zero

/-- An address of an instruction (R202). -/
theorem address_not_refused {v : Word} (hv : v.toNat < 2 ^ 57 ∧ v.toNat % 4 = 0) : (field v 57 7 != 0 || field v 0 2 != 0) = false := by
  simp only [field, Bool.or_eq_false_iff, bne_eq_false_iff_eq]
  omega

/-- Settles O10: each register's layout admits the value, and `State.setPlainReg` or `Slot.setSelReg` stores it. -/
theorem registerWrite : Obligations.RegisterWrite := by
  unfold Obligations.RegisterWrite
  intro s e ra h v w strand core
  have hlt : v.toNat < 2 ^ 64 := v.isLt
  refine ⟨fun hv => ?dstat, fun hv hrm => ?fstat, writes_user h rfl rfl rfl rfl, writes_user h rfl rfl rfl rfl, writes_user h rfl rfl rfl rfl,
    writes_user h rfl rfl rfl rfl, fun hlow hsel => ?hist, fun hslot => ?supervisor⟩
  case dstat =>
    have hfield : field v 2 62 = 0 := by simp only [field]; omega
    exact writes_user h rfl rfl (bne_eq_false_iff_eq.2 hfield) rfl
  case fstat =>
    refine ⟨fun x => x.setFstat v, writes_user h rfl rfl (fstat_not_refused hv hrm) rfl, fun x => ⟨rfl, fun i hi => ?_⟩⟩
    exact getLsbD_setField_field x.status v 4 8 hi
  case hist =>
    have hfield : field v 59 5 = v.toNat / 2 ^ 59 := Nat.mod_eq_of_lt (by omega)
    have hok : (field v 0 59 != 0 || decide (16 < field v 59 5)) = false := by
      rw [hfield]
      simp only [field, Bool.or_eq_false_iff, bne_eq_false_iff_eq, decide_eq_false_iff_not]
      omega
    rw [← hfield]
    exact writes_user h rfl rfl hok rfl
  case supervisor =>
    have plain {num : BitVec 12} {f : State → State} := writes_supervisor (num := num) (f := f) h hslot
    intro address
    refine ⟨fun ha => plain rfl rfl rfl rfl (address_not_refused ha) rfl, fun hv => plain rfl rfl rfl rfl ?slice rfl, plain rfl rfl rfl rfl rfl rfl,
      plain rfl rfl rfl rfl rfl rfl, plain rfl rfl rfl rfl rfl rfl, fun hv hlow => plain rfl rfl rfl rfl ?spb rfl,
      fun hmin hmax => plain rfl rfl rfl rfl ?fper rfl, fun hv => plain rfl rfl rfl rfl ?xsel rfl, plain rfl rfl rfl rfl rfl rfl, ?sel⟩
    case slice => exact bne_eq_false_iff_eq.2 (slice_not_refused hv)
    case spb =>
      change (field v 52 12 != 0 || field v 0 12 != 0) = false
      simp only [field, Bool.or_eq_false_iff, bne_eq_false_iff_eq]
      omega
    case fper =>
      change (field v 5 59 != 0 || decide (v.toNat < 16) || decide (24 < v.toNat)) = false
      simp only [field, Bool.or_eq_false_iff, bne_eq_false_iff_eq, decide_eq_false_iff_not]
      omega
    case xsel =>
      change (field v 4 60 != 0) = false
      simp only [field, bne_eq_false_iff_eq]
      omega
    case sel =>
      intro k hk sel
      have own {num : BitVec 12} {g : Slot → Slot} := writes_sel (num := num) (g := g) h hslot hk
      refine ⟨fun hv => own rfl rfl rfl ?xstat rfl, fun hv => own rfl rfl rfl ?xcause rfl, own rfl rfl rfl rfl rfl,
        fun ha => ⟨own rfl rfl rfl (address_not_refused ha) rfl, own rfl rfl rfl (address_not_refused ha) rfl,
          own rfl rfl rfl (address_not_refused ha) rfl⟩, fun hlow hj hi => own rfl rfl rfl ?reps rfl, fun n => ?g⟩
      case xstat =>
        change (field v 32 32 != 0) = false
        simp only [field, bne_eq_false_iff_eq]
        omega
      case xcause =>
        change (field v 9 55 != 0) = false
        simp only [field, bne_eq_false_iff_eq]
        omega
      case reps =>
        change (field v 0 37 != 0 || decide (repsK v < repsJ v) || decide (repsN v < repsI v)) = false
        have hfield : field v 0 37 = 0 := by simp only [field]; omega
        have hrep : repsJ v ≤ repsK v := by
          simpa only [repsJ, repsK, field, BitVec.toNat_ushiftRight, Nat.shiftRight_eq_div_pow] using hj
        have hins : repsI v ≤ repsN v := by
          simpa only [repsI, repsN, field, BitVec.toNat_ushiftRight, Nat.shiftRight_eq_div_pow] using hi
        rw [hfield, decide_eq_false hrep.not_gt, decide_eq_false hins.not_gt]
        rfl
      case g => fin_cases n <;> exact own rfl rfl rfl rfl rfl

end Sys2Proof.Machine

/-! SUPPORT. XLAT: the probe of an address (R244, Table 11.12). -/

namespace Sys2Proof.Machine

open Sys2Proof.Safety

/-! ### Translation of a cached address -/

section
variable {s : State} {ag : Agent} {va : Word}

theorem translate_of_not_owned (ho : s.asidOwned ag.asid ag.part = false) (w : Bool) :
    translate ag va w s = .error (.trapIn s Cause.notPresent va false) := by
  unfold translate
  rw [bind_ok get _ s s s rfl, ho]
  rfl

/-- A translation that a TLB holds serves a read as it is. -/
theorem translate_of_tlbFind {t : TlbEntry} (ho : s.asidOwned ag.asid ag.part = true) (ht : s.tlbFind ag.core ag.part ag.asid va.toNat = some t) :
    translate ag va false s = .ok ((t.log2, t.leaf), s) := by
  unfold translate
  rw [bind_ok get _ s s s rfl, ho]
  simp only [ht]
  rfl

theorem me_begun (s : State) : (begun s).me = s.me := by
  obtain ⟨xs, hx⟩ := coreAt_begun s s.core
  have hc : (begun s).cur = { s.cur with wait := .none } := State.cur_setWait s .none
  have hh : ((begun s).coreAt (begun s).core).hasid = (s.coreAt s.core).hasid := by rw [begun_core, hx]
  unfold State.me
  rw [hc, hh]
  rfl

theorem tlbFind_begun (s : State) (core part : Nat) (asid : BitVec 8) (a : Nat) :
    (begun s).tlbFind core part asid a = s.tlbFind core part asid a := by
  obtain ⟨xs, hx⟩ := coreAt_begun s core
  unfold State.tlbFind
  rw [hx]
  rfl

end

/-! ### The probe -/

section
variable {s : State} {va : Word}

/-- An address above bit 56 (R12). -/
theorem xlatProbe_of_high (h : 2 ^ 57 ≤ va.toNat) : xlatProbe va s = .ok (xlatFail Cause.notPresent false, s) := by
  have hf : field va 57 7 ≠ 0 := by simp only [field]; omega
  unfold xlatProbe
  rw [bind_ok get _ s s s rfl, if_pos hf]
  rfl

theorem field_of_low (h : va.toNat < 2 ^ 57) : ¬ field va 57 7 ≠ 0 := by simp only [field]; omega

/-- The core's own store. -/
theorem xlatProbe_of_own (h : aliasBase ≤ va.toNat ∧ va.toNat < aliasBase + 2 ^ 19) :
    xlatProbe va s = .ok (xlatResult s (.ls s.core (va.toNat % 2 ^ 19)), s) := by
  unfold xlatProbe
  rw [bind_ok get _ s s s rfl, if_neg (field_of_low (by simp only [aliasBase] at h; omega)), if_pos h]
  rfl

/-- A window of the partition. -/
theorem xlatProbe_of_window (h : windowBase ≤ va.toNat ∧ va.toNat < windowBase + 2 ^ 30) {r : Option Nat}
    (hr : s.vcnCore s.me.part (va.toNat / 2 ^ 19 % 2048) = r) :
    xlatProbe va s = .ok (r.elim (xlatFail Cause.notPresent false) fun c => xlatResult s (.ls c (va.toNat % 2 ^ 19)), s) := by
  simp only [windowBase] at h
  unfold xlatProbe
  rw [bind_ok get _ s s s rfl, if_neg (field_of_low (by omega)), if_neg (by simp only [aliasBase]; omega),
    if_pos (by simpa only [windowBase] using h), hr]
  cases r <;> rfl

/-- What lies between the own store and the windows, and past the windows. -/
theorem xlatProbe_of_gap
    (h : aliasBase + 2 ^ 19 ≤ va.toNat ∧ va.toNat < windowBase ∨ windowBase + 2 ^ 30 ≤ va.toNat ∧ va.toNat < 0x800000000000) :
    xlatProbe va s = .ok (xlatFail Cause.notPresent false, s) := by
  simp only [aliasBase, windowBase] at h
  unfold xlatProbe
  rw [bind_ok get _ s s s rfl, if_neg (field_of_low (by omega)), if_neg (by simp only [aliasBase]; omega), if_neg (by simp only [windowBase]; omega),
    if_pos (by simp only [aliasBase]; omega)]
  rfl

theorem xlatProbe_of_not_owned (h : va.toNat < aliasBase) (ho : s.asidOwned s.me.asid s.myPart = false) :
    xlatProbe va s = .ok (xlatFail Cause.notPresent false, s) := by
  simp only [aliasBase] at h
  unfold xlatProbe
  rw [bind_ok get _ s s s rfl, if_neg (field_of_low (by omega)), if_neg (by simp only [aliasBase]; omega), if_neg (by simp only [windowBase]; omega),
    if_neg (by simp only [aliasBase]; omega), translate_of_not_owned ho]
  rfl

/-- What the probe answers for a translation: its kind and its place are checked, its permissions are not. -/
def probeOf (s : State) (leaf : BitVec 64) (pa : Nat) : Nat :=
  if field leaf 4 2 = 3 ∨ (bit leaf 8 ∧ field leaf 4 2 = 2) then xlatFail Cause.pageKind false
  else if bit leaf 8 then xlatResult s (.host (BitVec.ofNat 64 pa) leaf)
  else if populated ≤ pa then xlatFail Cause.bus false
  else xlatResult s (.phys pa leaf)

/-- The bits of a leaf in the result of XLAT (Table 11.12). -/
def leafBits (leaf : BitVec 64) : Nat :=
  (leaf.getLsbD 9).toNat * 2 ^ 60 + field leaf 4 2 * 2 ^ 58 + (leaf.getLsbD 6).toNat * 2 ^ 57 + (leaf.getLsbD 7).toNat * 2 ^ 56 +
    (leaf.getLsbD 3).toNat * 2 ^ 55 + (leaf.getLsbD 2).toNat * 2 ^ 54 + (leaf.getLsbD 1).toNat * 2 ^ 53

theorem probeOf_of_refused {leaf : BitVec 64} {pa : Nat} (h : field leaf 4 2 = 3 ∨ (leaf.getLsbD 8 = true ∧ field leaf 4 2 = 2)) :
    probeOf s leaf pa = 2 ^ 63 + 0x0B := if_pos h

theorem probeOf_of_host {leaf : BitVec 64} {pa : Nat} (hk : field leaf 4 2 < 2) (h : leaf.getLsbD 8 = true) :
    probeOf s leaf pa = 2 ^ 62 + leafBits leaf + pa % 2 ^ 52 := by
  have hb : bit leaf 8 = true := h
  have hua : (BitVec.ofNat 64 pa).toNat % 2 ^ 52 = pa % 2 ^ 52 := by rw [BitVec.toNat_ofNat]; omega
  unfold probeOf
  rw [if_neg (by omega), if_pos hb]
  simp only [xlatResult, hua, leafBits, bit, Nat.add_assoc]

theorem probeOf_of_phys {leaf : BitVec 64} {pa : Nat} (hk : field leaf 4 2 < 3) (h : leaf.getLsbD 8 = false) :
    probeOf s leaf pa = if 2 ^ 40 ≤ pa then 2 ^ 63 + 0x0F else leafBits leaf + pa % 2 ^ 52 := by
  have hb : bit leaf 8 = false := h
  unfold probeOf
  rw [hb, if_neg (fun hk' => hk'.elim (by omega) fun hk' => Bool.noConfusion hk'.1), if_neg Bool.noConfusion]
  rfl

theorem xlatProbe_of_tlbFind {t : TlbEntry} (h : va.toNat < aliasBase) (ho : s.asidOwned s.me.asid s.myPart = true)
    (ht : s.tlbFind s.core s.myPart s.me.asid va.toNat = some t) :
    xlatProbe va s = .ok (probeOf s t.leaf (frameOf t.leaf + va.toNat % 2 ^ t.log2), s) := by
  simp only [aliasBase] at h
  unfold xlatProbe
  rw [bind_ok get _ s s s rfl, if_neg (field_of_low (by omega)), if_neg (by simp only [aliasBase]; omega), if_neg (by simp only [windowBase]; omega),
    if_neg (by simp only [aliasBase]; omega), translate_of_tlbFind ho ht]
  unfold probeOf
  change (do
    set s
    if field t.leaf 4 2 = 3 ∨ (bit t.leaf 8 ∧ field t.leaf 4 2 = 2) then return xlatFail Cause.pageKind false
    if bit t.leaf 8 then return xlatResult s (.host (BitVec.ofNat 64 (frameOf t.leaf + va.toNat % 2 ^ t.log2)) t.leaf)
    if populated ≤ frameOf t.leaf + va.toNat % 2 ^ t.log2 then return xlatFail Cause.bus false
    return xlatResult s (.phys (frameOf t.leaf + va.toNat % 2 ^ t.log2) t.leaf) : Exec Nat) s = _
  rw [bind_ok (set s) _ s s _ rfl]
  split_ifs <;> rfl

end

section
variable {s : State} {e : Bool} {rd ra : GReg} {disp : BitVec 20}

theorem exec_xlat {v : Nat} (h : Safety.Ready s e false [ra] [rd]) (hp : xlatProbe (reg s ra + disp.signExtend 64) (begun s) = .ok (v, begun s)) :
    exec (.xlat e rd ra disp) s = .next (wrote s e 8 rd (BitVec.ofNat 64 v)) := by
  refine runStrand_issue h ?_
  rw [bind_ok _ _ _ _ _ (srcG_of_ready h (by simp)), bind_ok _ _ _ _ _ (checkDest_of_ready h (by simp)),
    bind_ok (xlatProbe (reg s ra + sx64 disp)) _ _ _ _ hp]
  rfl

end

/-- Settles O45: XLAT writes what its probe answers, and the probe leaves the state as it is. -/
theorem translationProbeResult : Obligations.TranslationProbeResult := by
  unfold Obligations.TranslationProbeResult
  intro s e rd ra disp h va gives store
  have gives_of {v : Nat} (hp : xlatProbe va (begun s) = .ok (v, begun s)) : gives v := exec_xlat h hp
  refine ⟨fun off hoff hva => ?own, fun v hv off hoff hva => ?window, fun hlow ho => ?unowned, fun t hlow ho ht => ?cached, fun hhole => ?hole⟩
  case own =>
    have hn : va.toNat = 0x7E0000000000 + off := by rw [hva, BitVec.toNat_ofNat]; exact Nat.mod_eq_of_lt (by omega)
    have hoff' : va.toNat % 2 ^ 19 = off := by omega
    have hp := xlatProbe_of_own (s := begun s) (va := va) (by simp only [aliasBase]; omega)
    rw [hoff'] at hp
    exact gives_of hp
  case window =>
    have hn : va.toNat = 0x7F0000000000 + v * 2 ^ 19 + off := by rw [hva, BitVec.toNat_ofNat]; exact Nat.mod_eq_of_lt (by omega)
    have hoff' : va.toNat % 2 ^ 19 = off := by omega
    have hvcn : va.toNat / 2 ^ 19 % 2048 = v := by omega
    have hp {r : Option Nat} (hr : s.vcnCore s.myPart v = r) :
        xlatProbe va (begun s) = .ok (r.elim (xlatFail Cause.notPresent false) fun c => xlatResult (begun s) (.ls c off), begun s) := by
      have hvcn' : (begun s).vcnCore (begun s).me.part (va.toNat / 2 ^ 19 % 2048) = r := by rw [hvcn]; exact hr
      rw [xlatProbe_of_window (by simp only [windowBase]; omega) hvcn', hoff']
    exact ⟨fun c hc => gives_of (hp hc), fun hc => gives_of (hp hc)⟩
  case unowned => exact gives_of (xlatProbe_of_not_owned (s := begun s) hlow (by rw [me_begun]; exact ho))
  case hole =>
    rcases hhole with hhigh | hgap
    · exact gives_of (xlatProbe_of_high hhigh)
    · exact gives_of (xlatProbe_of_gap hgap)
  case cached =>
    intro f kind bits pa
    have hp : xlatProbe va (begun s) = .ok (probeOf s t.leaf pa, begun s) :=
      xlatProbe_of_tlbFind (s := begun s) hlow (by rw [me_begun]; exact ho) (by rw [me_begun, tlbFind_begun]; exact ht)
    refine ⟨fun hk => ?kind, fun hk hhost => ?host, fun hk hphys => ?phys⟩
    case kind =>
      rw [probeOf_of_refused (hk.imp_right fun hk => hk)] at hp
      exact gives_of hp
    case host =>
      rw [probeOf_of_host hk hhost] at hp
      exact gives_of hp
    case phys =>
      rw [probeOf_of_phys hk hphys] at hp
      constructor
      · intro hpa
        rw [if_neg (Nat.not_le.2 hpa)] at hp
        exact gives_of hp
      · intro hpa
        rw [if_pos hpa] at hp
        exact gives_of hp

end Sys2Proof.Machine

/-! SUPPORT. REP: the capture of its block (R245, R246). -/

namespace Sys2Proof.Machine

open Sys2Proof.Safety

/-! ### The capture of one instruction -/

theorem skipTail_skipTail (a : Word) : skipTail (skipTail a) = skipTail a := by
  by_cases h : field a 0 5 = 28
  · have ha : skipTail a = a + 4 := if_pos h
    have hnext : field (a + 4) 0 5 ≠ 28 := by
      simp only [field, BitVec.toNat_add, BitVec.reduceToNat] at h ⊢
      omega
    rw [ha]
    exact if_neg hnext
  · have ha : skipTail a = a := if_neg h
    rw [ha, ha]

/-- REP refuses an instruction with this word 0. -/
def refusesCapture (w : BitVec 32) : Bool :=
  let op := (W0.unpack w).op.toNat
  ! ((decide (0xA0 ≤ op) && decide (op ≤ 0xAC)) || op == 0xAE || op == 0xAF || op == 0xB0) || (W0.unpack w).e

theorem refusesCapture_eq_false_iff (w : BitVec 32) : refusesCapture w = false ↔ MayCapture w := by
  have hop : (W0.unpack w).op.toNat = w.toNat / 4 % 256 := (field_eq_extractLsb' w 2 8).symm
  unfold refusesCapture MayCapture
  simp only [hop, Bool.or_eq_false_iff, Bool.not_eq_false', Bool.or_eq_true, Bool.and_eq_true, decide_eq_true_eq, beq_iff_eq, or_assoc]
  exact and_comm

section
variable {s : State} {a b : Word} {w : BitVec 32} {i : Instr} {n : Nat}

/-- What the fetch path finds at an address is captured, or is refused there. -/
theorem captureOne_of_codeAt (h : CodeAt s a w i n) :
    captureOne a s = if refusesCapture w then .error (.trap Cause.rep a false) else .ok ((i, n), s) := by
  obtain ⟨w0, bs, hw0, rfl, hlen, hblock, hbs, hdec⟩ := h
  have hfit : ¬ 32 < field a 0 5 + n := by simp only [field]; omega
  unfold captureOne
  rw [bind_ok get _ s s s rfl, bind_ok _ _ _ _ _ hw0]
  simp only [hlen]
  rw [if_neg hfit, bind_ok get _ s s s rfl, bind_ok _ _ _ _ _ hbs]
  simp only [hdec]
  unfold refusesCapture
  split_ifs <;> rfl

theorem captureOne_ok (h : CodeAt s a w i n) (hw : MayCapture w) : captureOne a s = .ok ((i, n), s) := by
  rw [captureOne_of_codeAt h, (refusesCapture_eq_false_iff w).2 hw]; rfl

theorem captureOne_refused (h : CodeAt s a w i n) (hw : ¬ MayCapture w) : captureOne a s = .error (.trap Cause.rep a false) := by
  rw [captureOne_of_codeAt h, if_pos]
  rwa [← refusesCapture_eq_false_iff, Bool.not_eq_false] at hw

/-! ### The capture of a block -/

theorem captureFrom_skipTail (a : Word) (m : Nat) : captureFrom (skipTail a) (m + 1) = captureFrom a (m + 1) := by
  simp only [captureFrom, skipTail_skipTail]

theorem captureFrom_ok {is : List Instr} (h : CodeFrom s a is b) : captureFrom a is.length s = .ok ((is, b), s) := by
  induction is generalizing a with
  | nil => cases h; rfl
  | cons i rest ih =>
    obtain ⟨w, n, hcode, hw, hrest⟩ := h
    rw [← skipTail_eq_pastTail] at hcode hrest
    rw [List.length_cons, captureFrom, bind_ok _ _ _ _ _ (captureOne_ok hcode hw)]
    simp only []
    rw [bind_ok _ _ _ _ _ (ih hrest)]
    rfl

/-- A block stops at the first instruction that may not be captured. -/
theorem captureFrom_refused {is : List Instr} (h : CodeFrom s a is b) (hcode : CodeAt s (pastTail b) w i n) (hw : ¬ MayCapture w) (m : Nat) :
    captureFrom a (is.length + m + 1) s = .error (.trap Cause.rep (pastTail b) false) := by
  induction is generalizing a with
  | nil =>
    cases h
    rw [captureFrom, skipTail_eq_pastTail]
    exact bind_error _ (captureOne_refused hcode hw)
  | cons i rest ih =>
    obtain ⟨w', n', hcode', hw', hrest⟩ := h
    rw [← skipTail_eq_pastTail] at hcode' hrest
    have hlen : (i :: rest).length + m + 1 = (rest.length + m + 1) + 1 := by simp only [List.length_cons]; omega
    rw [hlen, captureFrom, bind_ok _ _ _ _ _ (captureOne_ok hcode' hw')]
    exact bind_error _ (ih hrest)

end

theorem toNat_append_eq_add {m n : Nat} (x : BitVec m) (y : BitVec n) : (x ++ y).toNat = x.toNat * 2 ^ n + y.toNat := by
  rw [BitVec.toNat_append, ← Nat.shiftLeft_add_eq_or_of_lt y.isLt, Nat.shiftLeft_eq]

/-- REPS as REP sets it (Table 9.5). -/
theorem ofNat_reps (n : BitVec 3) (k : BitVec 8) (st : BitVec 4) :
    BitVec.ofNat 64 (2 ^ 63 + n.toNat * 2 ^ 60 + k.toNat * 2 ^ 52 + st.toNat * 2 ^ 48) = (1 : BitVec 1) ++ n ++ k ++ st ++ (0 : BitVec 48) := by
  apply BitVec.eq_of_toNat_eq
  simp only [toNat_append_eq_add, BitVec.toNat_ofNat, BitVec.reduceToNat]
  omega

section
variable {s : State} {n : BitVec 3} {k : BitVec 8} {st : BitVec 4} (hn : NoSlot s) (hr : s.cur.inRep = false)
include hn hr

theorem exec_rep_of_capture {is : List Instr} {b : Word} (h : captureFrom (s.cur.pc + 8) (n.toNat + 1) (begun s) = .ok ((is, b), begun s)) :
    exec (.rep n k st) s = .next ((begun s).modCur fun x =>
      { x.advance 8 with
        pc := skipTail b, entered := false, repa := skipTail (s.cur.pc + 8), block := is, aheadN := 0
        reps := (1 : BitVec 1) ++ n ++ k ++ st ++ (0 : BitVec 48) }) := by
  refine runStrand_ok ((gated_begun hn hr _).trans ?_)
  rw [bind_ok cur _ _ _ _ rfl, begun_cur_pc, captureFrom_skipTail, bind_ok _ _ _ _ _ h, ofNat_reps]
  rfl

theorem exec_rep_trap {cause : BitVec 8} {v : Word}
    (h : captureFrom (s.cur.pc + 8) (n.toNat + 1) (begun s) = .error (.trap cause v false)) : TrapsWith s (.rep n k st) cause v := by
  refine runStrand_trap ((gated_begun hn hr _).trans ?_)
  rw [bind_ok cur _ _ _ _ rfl, begun_cur_pc, captureFrom_skipTail]
  exact bind_error _ h

end

/-- Settles O46: the capture finds the instructions that stand there, or stops with REP's trap. -/
theorem repeatResult : Obligations.RepeatResult := by
  unfold Obligations.RepeatResult
  intro s n k st is b hi hn hcode
  obtain ⟨-, hr⟩ := hi
  refine ⟨fun hlen => ?captured, fun hlen w i len hat hw => ?refused⟩
  case captured =>
    have hcap := captureFrom_ok hcode
    rw [hlen] at hcap
    have hcur : (begun s).cur = { s.cur with wait := .none } := State.cur_setWait s .none
    refine ⟨_, exec_rep_of_capture hn hr hcap, rfl, rfl, rfl, ?_⟩
    rw [State.cur_modCur, Slot.advance_of_ds_eq_zero (by rw [hcur]; exact hn.2), hcur, skipTail_eq_pastTail, skipTail_eq_pastTail]
    simp only [hn.1]
  case refused =>
    have hcap := captureFrom_refused hcode hat hw (n.toNat - is.length)
    rw [Nat.add_sub_cancel' hlen] at hcap
    exact exec_rep_trap hn hr hcap

end Sys2Proof.Machine

/-! SUPPORT. SLEEP: what wakes a strand (R243), and a record that wakes it though it is no joint of its partition. -/

namespace Sys2Proof.Machine

open Sys2Proof.Safety

@[simp] theorem Slot.advance_sleep (x : Slot) (len : Nat) : (x.advance len).sleep = x.sleep := by rw [Slot.advance_frame]

section
variable {s : State} {rd : GReg}

/-- A sleeping strand with a reason to wake wakes. -/
theorem exec_sleep_of_wakeReason {v : Word} (hi : Issues s [rd]) (ht : Untagged s [rd]) (hw : (begun s).wakeReason = some v)
    (imm : BitVec 32) :
    exec (.sleep rd imm) s =
      .next (((begun s).modCur fun x => { x with sleep := none }).modCur (·.setG rd v) |>.modCur (·.advance 8)) := by
  obtain ⟨hpend, hr⟩ := hi
  have hscore : scoreboard [rd] (begun s) = .ok ((), begun s) :=
    scoreboard_ok fun r h => by simpa [begun] using hpend r h
  have hgate : repGate false [] (begun s) = .ok ((), begun s) := repGate_ok fun h => by rw [hr] at h; cases h
  refine runStrand_ok ?_
  change sleepBody rd imm (begun s) = _
  unfold sleepBody
  rw [bind_ok _ _ _ _ _ hscore, bind_ok _ _ _ _ _ hgate, bind_ok _ _ _ _ _ (checkDest_begun (ht rd (by simp))), bind_ok get _ _ _ _ rfl]
  simp only [hw]
  rfl

/-- A strand wakes with no reason left to sleep on. -/
theorem sleep_eq_none_of_wakeReason {v : Word} {u : State} (hi : Issues s [rd]) (ht : Untagged s [rd]) (hw : (begun s).wakeReason = some v)
    {imm : BitVec 32} (h : exec (.sleep rd imm) s = .next u) : u.cur.sleep = none := by
  rw [exec_sleep_of_wakeReason hi ht hw] at h
  cases h
  rw [State.cur_modCur, Slot.advance_sleep, State.cur_modCur, State.cur_modCur]
  rfl

end

/-- A strand that holds the mortise of channel 0 in g4, on a core of no partition. Record slot 0 holds the channel's open record with one
element present; the last stub of the slot, and so the record, is of partition 0. -/
def strayRecord : State :=
  { State.reset with
    mem := [(recKey 0 0 + 20, 0x08), (routeKey 0 0 + 4, 0x80)]
    cores := [(0, { Core.off with
      up := true, stubPart := [(0, 0)], slots := [(0, ({ Slot.vacant with occupied := true } : Slot).setJoint 4 (2 * 2 ^ 24))] })] }

/-- The look at the strand's joints does not compare the record's partition. -/
theorem wakeReason_strayRecord : (begun strayRecord).wakeReason = some 1 := by decide +kernel

theorem tags_strayRecord : ∀ r : GReg, strayRecord.cur.tags.getLsbD r.toNat = true → r = 4 := by decide +kernel

theorem part_strayRecord : (strayRecord.endRec strayRecord.core (reg strayRecord 4)).map (fun p => p.2.part) = some 0 := by decide +kernel

/-- No register holds an end of the strand's own partition. -/
theorem not_holdsEnd_strayRecord (r : GReg) (kind k : Nat) (c : ChanRec) : ¬ HoldsEnd strayRecord r kind k c := by
  rintro ⟨htag, -, hrec, hpart⟩
  cases tags_strayRecord r htag
  have h0 : c.part = 0 := by
    have hpart0 := part_strayRecord
    rw [hrec] at hpart0
    exact Option.some.inj hpart0
  exact absurd (h0.symm.trans hpart) (by decide +kernel)

/-- Refutes O44: in `strayRecord` the strand holds a mortise whose record, of another partition than the strand's, has an element. The
statement has it wait, since no joint that `HoldsEnd` admits has an element, but the model wakes it with reason 1. -/
theorem not_sleepResult : ¬ Obligations.SleepResult := by
  unfold Obligations.SleepResult
  intro h
  have hi : Issues strayRecord [5] := ⟨by unfold Written; decide +kernel, by decide +kernel⟩
  have ht : Untagged strayRecord [5] := by unfold Untagged; decide +kernel
  have hrecord : ¬ (strayRecord.slot = 15 ∧ (strayRecord.coreAt strayRecord.core).trapQ ≠ []) := fun h => absurd h.1 (by decide +kernel)
  obtain ⟨hexec, -⟩ := h strayRecord strayRecord 5 0 0
  obtain ⟨-, -, hwaits⟩ := hexec ⟨hi, ht⟩
  obtain ⟨hfirst, -⟩ := hwaits hrecord (fun ⟨r, k, c, hend, _⟩ => not_holdsEnd_strayRecord r 2 k c hend)
  have hsleep := sleep_eq_none_of_wakeReason hi ht wakeReason_strayRecord (hfirst (by decide +kernel))
  rw [State.cur_modCur] at hsleep
  cases hsleep

end Sys2Proof.Machine
